-- ==== Sys2Proof/Word.lean ====
section
/-! DEFINITION. The word types of the machine (R3 to R5). -/

namespace Sys2Proof

/-- A byte of memory. -/
abbrev Byte := BitVec 8

/-- A register word (R6). -/
abbrev Word := BitVec 32

/-- A 64-bit value: an even-odd register pair, an address, a table entry (R4). -/
abbrev DWord := BitVec 64

end Sys2Proof
end

