-- ==== Sys2Proof/Syntax.lean ====
section
/-! DEFINITION. Syntax of the A960: one constructor per row of spec/opcode_table.json.

238 constructors are instruction words (R60, R69, R70); a field keeps the name the table gives it and holds the raw
bits, so that a word whose field is out of its kind still reaches the checks of R64. `illegalInstruction` and
`nonzeroReservedField` are the words that no instruction row matches. The other constructors are the part's events:
steps of its engines, of the management core, of the host and of its surroundings. What an event is about (a path, a
queue, a value written) stands beside it in the state's list of inputs (`Machine.Args`), as the operands of a mailbox
command stand in its data buffer; constructors with fields come first. -/

namespace Sys2Proof

/-- One constructor per row of the opcode table. -/
inductive Instr where
  /-- BRA (R279). -/
  | bra (h : BitVec 2) (o : BitVec 16)
  /-- BRP (R33). -/
  | brp (h : BitVec 2) (p : BitVec 3) (o : BitVec 16)
  /-- BRPN (R33). -/
  | brpn (h : BitVec 2) (p : BitVec 3) (o : BitVec 16)
  /-- BRQ (R279). -/
  | brq (h : BitVec 2) (p : BitVec 3) (o : BitVec 16)
  /-- CALL (R279). -/
  | call (h : BitVec 2) (o : BitVec 16)
  /-- CALLI (R279). -/
  | calli (a : BitVec 8)
  /-- JMPI (R298). -/
  | jmpi (a : BitVec 8)
  /-- REGANG (R35). -/
  | regang (a : BitVec 8)
  /-- YIELDC (R354). -/
  | yieldc (d : BitVec 8) (a : BitVec 8)
  /-- WAITF (R352). -/
  | waitf (a : BitVec 8) (b : BitVec 8)
  /-- TRAP (R344). -/
  | trap (b : BitVec 8)
  /-- BRK (R280). -/
  | brk (b : BitVec 8)
  /-- SETMODE (R67). -/
  | setmode (b : BitVec 8)
  /-- SETMODE_K (R67). -/
  | setmodeK (k : BitVec 8)
  /-- SRD (R327). -/
  | srd (d : BitVec 8) (b : BitVec 8)
  /-- SWR (R328). -/
  | swr (a : BitVec 8) (b : BitVec 8)
  /-- SADD (R321). -/
  | sadd (d : BitVec 8) (a : BitVec 8) (b : BitVec 8)
  /-- SADD_K (R321). -/
  | saddK (d : BitVec 8) (a : BitVec 8) (k : BitVec 8)
  /-- SSUB (R321). -/
  | ssub (d : BitVec 8) (a : BitVec 8) (b : BitVec 8)
  /-- SSUB_K (R321). -/
  | ssubK (d : BitVec 8) (a : BitVec 8) (k : BitVec 8)
  /-- SMUL (R321). -/
  | smul (d : BitVec 8) (a : BitVec 8) (b : BitVec 8)
  /-- SMUL_K (R321). -/
  | smulK (d : BitVec 8) (a : BitVec 8) (k : BitVec 8)
  /-- SMULH (R321). -/
  | smulh (d : BitVec 8) (a : BitVec 8) (b : BitVec 8)
  /-- SAND (R321). -/
  | sand (d : BitVec 8) (a : BitVec 8) (b : BitVec 8)
  /-- SAND_K (R321). -/
  | sandK (d : BitVec 8) (a : BitVec 8) (k : BitVec 8)
  /-- SOR (R321). -/
  | sor (d : BitVec 8) (a : BitVec 8) (b : BitVec 8)
  /-- SOR_K (R321). -/
  | sorK (d : BitVec 8) (a : BitVec 8) (k : BitVec 8)
  /-- SXOR (R321). -/
  | sxor (d : BitVec 8) (a : BitVec 8) (b : BitVec 8)
  /-- SXOR_K (R321). -/
  | sxorK (d : BitVec 8) (a : BitVec 8) (k : BitVec 8)
  /-- SSHL (R321). -/
  | sshl (d : BitVec 8) (a : BitVec 8) (b : BitVec 8)
  /-- SSHL_K (R321). -/
  | sshlK (d : BitVec 8) (a : BitVec 8) (k : BitVec 8)
  /-- SSHR (R321). -/
  | sshr (d : BitVec 8) (a : BitVec 8) (b : BitVec 8)
  /-- SSHR_K (R321). -/
  | sshrK (d : BitVec 8) (a : BitVec 8) (k : BitVec 8)
  /-- SSRA (R321). -/
  | ssra (d : BitVec 8) (a : BitVec 8) (b : BitVec 8)
  /-- SSRA_K (R321). -/
  | ssraK (d : BitVec 8) (a : BitVec 8) (k : BitVec 8)
  /-- SMIN (R321). -/
  | smin (d : BitVec 8) (a : BitVec 8) (b : BitVec 8)
  /-- SMIN_K (R321). -/
  | sminK (d : BitVec 8) (a : BitVec 8) (k : BitVec 8)
  /-- SMAX (R321). -/
  | smax (d : BitVec 8) (a : BitVec 8) (b : BitVec 8)
  /-- SMAX_K (R321). -/
  | smaxK (d : BitVec 8) (a : BitVec 8) (k : BitVec 8)
  /-- SCMP (R321). -/
  | scmp (c : BitVec 3) (q : BitVec 3) (a : BitVec 8) (b : BitVec 8)
  /-- SCMP_K (R321). -/
  | scmpK (c : BitVec 3) (q : BitVec 3) (a : BitVec 8) (k : BitVec 8)
  /-- SSEL (R321). -/
  | ssel (d : BitVec 8) (n : BitVec 3) (b : BitVec 8)
  /-- SSEL_K (R321). -/
  | sselK (d : BitVec 8) (n : BitVec 3) (k : BitVec 8)
  /-- SMOV (R321). -/
  | smov (d : BitVec 8) (b : BitVec 8)
  /-- SMOV_K (R321). -/
  | smovK (d : BitVec 8) (k : BitVec 8)
  /-- SADD64 (R321). -/
  | sadd64 (d : BitVec 8) (a : BitVec 8) (b : BitVec 8)
  /-- SADD64_K (R321). -/
  | sadd64K (d : BitVec 8) (a : BitVec 8) (k : BitVec 8)
  /-- SBFE (R321). -/
  | sbfe (d : BitVec 8) (a : BitVec 8) (b : BitVec 8)
  /-- SBFE_K (R321). -/
  | sbfeK (d : BitVec 8) (a : BitVec 8) (k : BitVec 8)
  /-- SPOPC (R321). -/
  | spopc (d : BitVec 8) (a : BitVec 8)
  /-- VADD (R348). -/
  | vadd (d : BitVec 8) (a : BitVec 8) (b : BitVec 8)
  /-- VADD_K (R348). -/
  | vaddK (d : BitVec 8) (a : BitVec 8) (k : BitVec 8)
  /-- VSUB (R348). -/
  | vsub (d : BitVec 8) (a : BitVec 8) (b : BitVec 8)
  /-- VSUB_K (R348). -/
  | vsubK (d : BitVec 8) (a : BitVec 8) (k : BitVec 8)
  /-- VMUL (R348). -/
  | vmul (d : BitVec 8) (a : BitVec 8) (b : BitVec 8)
  /-- VMUL_K (R348). -/
  | vmulK (d : BitVec 8) (a : BitVec 8) (k : BitVec 8)
  /-- VMULH (R348). -/
  | vmulh (d : BitVec 8) (a : BitVec 8) (b : BitVec 8)
  /-- VMAD (R348). -/
  | vmad (d : BitVec 8) (a : BitVec 8) (b : BitVec 8)
  /-- VMAD_K (R348). -/
  | vmadK (d : BitVec 8) (a : BitVec 8) (k : BitVec 8)
  /-- VAND (R348). -/
  | vand (d : BitVec 8) (a : BitVec 8) (b : BitVec 8)
  /-- VAND_K (R348). -/
  | vandK (d : BitVec 8) (a : BitVec 8) (k : BitVec 8)
  /-- VOR (R348). -/
  | vor (d : BitVec 8) (a : BitVec 8) (b : BitVec 8)
  /-- VOR_K (R348). -/
  | vorK (d : BitVec 8) (a : BitVec 8) (k : BitVec 8)
  /-- VXOR (R348). -/
  | vxor (d : BitVec 8) (a : BitVec 8) (b : BitVec 8)
  /-- VXOR_K (R348). -/
  | vxorK (d : BitVec 8) (a : BitVec 8) (k : BitVec 8)
  /-- VSHL (R348). -/
  | vshl (d : BitVec 8) (a : BitVec 8) (b : BitVec 8)
  /-- VSHL_K (R348). -/
  | vshlK (d : BitVec 8) (a : BitVec 8) (k : BitVec 8)
  /-- VSHR (R348). -/
  | vshr (d : BitVec 8) (a : BitVec 8) (b : BitVec 8)
  /-- VSHR_K (R348). -/
  | vshrK (d : BitVec 8) (a : BitVec 8) (k : BitVec 8)
  /-- VSRA (R348). -/
  | vsra (d : BitVec 8) (a : BitVec 8) (b : BitVec 8)
  /-- VSRA_K (R348). -/
  | vsraK (d : BitVec 8) (a : BitVec 8) (k : BitVec 8)
  /-- VMIN (R348). -/
  | vmin (d : BitVec 8) (a : BitVec 8) (b : BitVec 8)
  /-- VMIN_K (R348). -/
  | vminK (d : BitVec 8) (a : BitVec 8) (k : BitVec 8)
  /-- VMAX (R348). -/
  | vmax (d : BitVec 8) (a : BitVec 8) (b : BitVec 8)
  /-- VMAX_K (R348). -/
  | vmaxK (d : BitVec 8) (a : BitVec 8) (k : BitVec 8)
  /-- VABS (R348). -/
  | vabs (d : BitVec 8) (a : BitVec 8)
  /-- VNEG (R348). -/
  | vneg (d : BitVec 8) (a : BitVec 8)
  /-- VBFE (R348). -/
  | vbfe (d : BitVec 8) (a : BitVec 8) (b : BitVec 8)
  /-- VBFE_K (R348). -/
  | vbfeK (d : BitVec 8) (a : BitVec 8) (k : BitVec 8)
  /-- VBFI (R348). -/
  | vbfi (d : BitVec 8) (a : BitVec 8) (b : BitVec 8)
  /-- VBFI_K (R348). -/
  | vbfiK (d : BitVec 8) (a : BitVec 8) (k : BitVec 8)
  /-- VPOPC (R243). -/
  | vpopc (d : BitVec 8) (a : BitVec 8)
  /-- VCLZ (R243). -/
  | vclz (d : BitVec 8) (a : BitVec 8)
  /-- VCMP (R349). -/
  | vcmp (c : BitVec 3) (p : BitVec 3) (a : BitVec 8) (b : BitVec 8)
  /-- VCMP_K (R349). -/
  | vcmpK (c : BitVec 3) (p : BitVec 3) (a : BitVec 8) (k : BitVec 8)
  /-- VSEL (R348). -/
  | vsel (d : BitVec 8) (n : BitVec 3) (b : BitVec 8)
  /-- VSEL_K (R348). -/
  | vselK (d : BitVec 8) (n : BitVec 3) (k : BitVec 8)
  /-- VMOV (R348). -/
  | vmov (d : BitVec 8) (b : BitVec 8)
  /-- VMOV_K (R348). -/
  | vmovK (d : BitVec 8) (k : BitVec 8)
  /-- FADD (R289). -/
  | fadd (d : BitVec 8) (a : BitVec 8) (b : BitVec 8)
  /-- FADD_K (R289). -/
  | faddK (d : BitVec 8) (a : BitVec 8) (k : BitVec 8)
  /-- FSUB (R289). -/
  | fsub (d : BitVec 8) (a : BitVec 8) (b : BitVec 8)
  /-- FSUB_K (R289). -/
  | fsubK (d : BitVec 8) (a : BitVec 8) (k : BitVec 8)
  /-- FMUL (R289). -/
  | fmul (d : BitVec 8) (a : BitVec 8) (b : BitVec 8)
  /-- FMUL_K (R289). -/
  | fmulK (d : BitVec 8) (a : BitVec 8) (k : BitVec 8)
  /-- FFMA (R289). -/
  | ffma (d : BitVec 8) (a : BitVec 8) (b : BitVec 8)
  /-- FFMA_K (R289). -/
  | ffmaK (d : BitVec 8) (a : BitVec 8) (k : BitVec 8)
  /-- FMIN (R289). -/
  | fmin (d : BitVec 8) (a : BitVec 8) (b : BitVec 8)
  /-- FMIN_K (R289). -/
  | fminK (d : BitVec 8) (a : BitVec 8) (k : BitVec 8)
  /-- FMAX (R289). -/
  | fmax (d : BitVec 8) (a : BitVec 8) (b : BitVec 8)
  /-- FMAX_K (R289). -/
  | fmaxK (d : BitVec 8) (a : BitVec 8) (k : BitVec 8)
  /-- FCMP (R290). -/
  | fcmp (c : BitVec 3) (p : BitVec 3) (a : BitVec 8) (b : BitVec 8)
  /-- FCMP_K (R290). -/
  | fcmpK (c : BitVec 3) (p : BitVec 3) (a : BitVec 8) (k : BitVec 8)
  /-- FRCP (R289). -/
  | frcp (d : BitVec 8) (a : BitVec 8)
  /-- FRSQ (R289). -/
  | frsq (d : BitVec 8) (a : BitVec 8)
  /-- FSQRT (R289). -/
  | fsqrt (d : BitVec 8) (a : BitVec 8)
  /-- FEXP2 (R289). -/
  | fexp2 (d : BitVec 8) (a : BitVec 8)
  /-- FLOG2 (R289). -/
  | flog2 (d : BitVec 8) (a : BitVec 8)
  /-- FSIN (R289). -/
  | fsin (d : BitVec 8) (a : BitVec 8)
  /-- FCOS (R289). -/
  | fcos (d : BitVec 8) (a : BitVec 8)
  /-- FTANH (R289). -/
  | ftanh (d : BitVec 8) (a : BitVec 8)
  /-- FSIGM (R289). -/
  | fsigm (d : BitVec 8) (a : BitVec 8)
  /-- CVT (R284). -/
  | cvt (d : BitVec 8) (a : BitVec 8) (b : BitVec 8)
  /-- QUANT (R315). -/
  | quant (d : BitVec 8) (a : BitVec 8) (b : BitVec 8)
  /-- DEQ (R286). -/
  | deq (d : BitVec 8) (a : BitVec 8) (b : BitVec 8)
  /-- PACK (R313). -/
  | pack (d : BitVec 8) (a : BitVec 8) (b : BitVec 8)
  /-- UNPK (R346). -/
  | unpk (d : BitVec 8) (a : BitVec 8) (b : BitVec 8)
  /-- LBALLOT (R302). -/
  | lballot (d : BitVec 8) (a : BitVec 3)
  /-- LBCAST (R302). -/
  | lbcast (d : BitVec 8) (a : BitVec 8) (b : BitVec 8)
  /-- LPUSH (R302). -/
  | lpush (d : BitVec 8) (a : BitVec 8) (b : BitVec 8)
  /-- LREDUCE (R302). -/
  | lreduce (d : BitVec 8) (a : BitVec 8) (b : BitVec 8)
  /-- LSCAN (R302). -/
  | lscan (d : BitVec 8) (a : BitVec 8) (b : BitVec 8)
  /-- LSHUF (R302). -/
  | lshuf (d : BitVec 8) (a : BitVec 8) (b : BitVec 8)
  /-- RNG (R155). -/
  | rng (d : BitVec 8) (a : BitVec 8) (b : BitVec 8)
  /-- RNGDROP (R319). -/
  | rngdrop (d : BitVec 8) (a : BitVec 8) (b : BitVec 8)
  /-- RNGKEY (R254). -/
  | rngkey (a : BitVec 8) (b : BitVec 8)
  /-- LD8 (R304). -/
  | ld8 (d : BitVec 8) (a : BitVec 8) (b : BitVec 8)
  /-- LD8_K (R304). -/
  | ld8K (d : BitVec 8) (a : BitVec 8) (k : BitVec 8)
  /-- LDS8 (R304). -/
  | lds8 (d : BitVec 8) (a : BitVec 8) (b : BitVec 8)
  /-- LDS8_K (R304). -/
  | lds8K (d : BitVec 8) (a : BitVec 8) (k : BitVec 8)
  /-- LD16 (R304). -/
  | ld16 (d : BitVec 8) (a : BitVec 8) (b : BitVec 8)
  /-- LD16_K (R304). -/
  | ld16K (d : BitVec 8) (a : BitVec 8) (k : BitVec 8)
  /-- LDS16 (R304). -/
  | lds16 (d : BitVec 8) (a : BitVec 8) (b : BitVec 8)
  /-- LDS16_K (R304). -/
  | lds16K (d : BitVec 8) (a : BitVec 8) (k : BitVec 8)
  /-- LD32 (R304). -/
  | ld32 (d : BitVec 8) (a : BitVec 8) (b : BitVec 8)
  /-- LD32_K (R304). -/
  | ld32K (d : BitVec 8) (a : BitVec 8) (k : BitVec 8)
  /-- LD64 (R304). -/
  | ld64 (d : BitVec 8) (a : BitVec 8) (b : BitVec 8)
  /-- LD64_K (R304). -/
  | ld64K (d : BitVec 8) (a : BitVec 8) (k : BitVec 8)
  /-- LD128 (R304). -/
  | ld128 (d : BitVec 8) (a : BitVec 8) (b : BitVec 8)
  /-- LD128_K (R304). -/
  | ld128K (d : BitVec 8) (a : BitVec 8) (k : BitVec 8)
  /-- ST8 (R334). -/
  | st8 (d : BitVec 8) (a : BitVec 8) (b : BitVec 8)
  /-- ST8_K (R334). -/
  | st8K (d : BitVec 8) (a : BitVec 8) (k : BitVec 8)
  /-- ST16 (R334). -/
  | st16 (d : BitVec 8) (a : BitVec 8) (b : BitVec 8)
  /-- ST16_K (R334). -/
  | st16K (d : BitVec 8) (a : BitVec 8) (k : BitVec 8)
  /-- ST32 (R334). -/
  | st32 (d : BitVec 8) (a : BitVec 8) (b : BitVec 8)
  /-- ST32_K (R334). -/
  | st32K (d : BitVec 8) (a : BitVec 8) (k : BitVec 8)
  /-- ST64 (R334). -/
  | st64 (d : BitVec 8) (a : BitVec 8) (b : BitVec 8)
  /-- ST64_K (R334). -/
  | st64K (d : BitVec 8) (a : BitVec 8) (k : BitVec 8)
  /-- ST128 (R334). -/
  | st128 (d : BitVec 8) (a : BitVec 8) (b : BitVec 8)
  /-- ST128_K (R334). -/
  | st128K (d : BitVec 8) (a : BitVec 8) (k : BitVec 8)
  /-- SLD32 (R330). -/
  | sld32 (d : BitVec 8) (a : BitVec 8) (b : BitVec 8)
  /-- SLD32_K (R330). -/
  | sld32K (d : BitVec 8) (a : BitVec 8) (k : BitVec 8)
  /-- SLD64 (R330). -/
  | sld64 (d : BitVec 8) (a : BitVec 8) (b : BitVec 8)
  /-- SLD64_K (R330). -/
  | sld64K (d : BitVec 8) (a : BitVec 8) (k : BitVec 8)
  /-- SST32 (R330). -/
  | sst32 (d : BitVec 8) (a : BitVec 8) (b : BitVec 8)
  /-- SST32_K (R330). -/
  | sst32K (d : BitVec 8) (a : BitVec 8) (k : BitVec 8)
  /-- SST64 (R330). -/
  | sst64 (d : BitVec 8) (a : BitVec 8) (b : BitVec 8)
  /-- SST64_K (R330). -/
  | sst64K (d : BitVec 8) (a : BitVec 8) (k : BitVec 8)
  /-- LDL32 (R305). -/
  | ldl32 (d : BitVec 8) (a : BitVec 8) (b : BitVec 8)
  /-- LDL32_K (R305). -/
  | ldl32K (d : BitVec 8) (a : BitVec 8) (k : BitVec 8)
  /-- LDL64 (R305). -/
  | ldl64 (d : BitVec 8) (a : BitVec 8) (b : BitVec 8)
  /-- LDL64_K (R305). -/
  | ldl64K (d : BitVec 8) (a : BitVec 8) (k : BitVec 8)
  /-- LDL128 (R305). -/
  | ldl128 (d : BitVec 8) (a : BitVec 8) (b : BitVec 8)
  /-- LDL128_K (R305). -/
  | ldl128K (d : BitVec 8) (a : BitVec 8) (k : BitVec 8)
  /-- STL32 (R337). -/
  | stl32 (d : BitVec 8) (a : BitVec 8) (b : BitVec 8)
  /-- STL32_K (R337). -/
  | stl32K (d : BitVec 8) (a : BitVec 8) (k : BitVec 8)
  /-- STL64 (R337). -/
  | stl64 (d : BitVec 8) (a : BitVec 8) (b : BitVec 8)
  /-- STL64_K (R337). -/
  | stl64K (d : BitVec 8) (a : BitVec 8) (k : BitVec 8)
  /-- STL128 (R337). -/
  | stl128 (d : BitVec 8) (a : BitVec 8) (b : BitVec 8)
  /-- STL128_K (R337). -/
  | stl128K (d : BitVec 8) (a : BitVec 8) (k : BitVec 8)
  /-- FENCE (R140). -/
  | fence (k : BitVec 5)
  /-- MWAIT (R310). -/
  | mwait (a : BitVec 8) (b : BitVec 8)
  /-- PREF (R314). -/
  | pref (l : BitVec 1) (a : BitVec 8) (b : BitVec 8)
  /-- ATADD (R275). -/
  | atadd (d : BitVec 8) (a : BitVec 8) (b : BitVec 8)
  /-- ATAND (R275). -/
  | atand (d : BitVec 8) (a : BitVec 8) (b : BitVec 8)
  /-- ATCAS (R275). -/
  | atcas (d : BitVec 8) (a : BitVec 8) (b : BitVec 8)
  /-- ATFADD (R275). -/
  | atfadd (d : BitVec 8) (a : BitVec 8) (b : BitVec 8)
  /-- ATMAX (R275). -/
  | atmax (d : BitVec 8) (a : BitVec 8) (b : BitVec 8)
  /-- ATMIN (R275). -/
  | atmin (d : BitVec 8) (a : BitVec 8) (b : BitVec 8)
  /-- ATOR (R275). -/
  | ator (d : BitVec 8) (a : BitVec 8) (b : BitVec 8)
  /-- ATXCHG (R275). -/
  | atxchg (d : BitVec 8) (a : BitVec 8) (b : BitVec 8)
  /-- ATXOR (R275). -/
  | atxor (d : BitVec 8) (a : BitVec 8) (b : BitVec 8)
  /-- MSADD (R309). -/
  | msadd (a : BitVec 8) (b : BitVec 8)
  /-- MSMAX (R309). -/
  | msmax (a : BitVec 8) (b : BitVec 8)
  /-- MSMIN (R309). -/
  | msmin (a : BitVec 8) (b : BitVec 8)
  /-- HNEW (R297). -/
  | hnew (d : BitVec 8) (a : BitVec 8)
  /-- HFREE (R297). -/
  | hfree (a : BitVec 8)
  /-- HUPG (R297). -/
  | hupg (d : BitVec 8) (a : BitVec 8)
  /-- HREL (R297). -/
  | hrel (a : BitVec 8)
  /-- HPRIO (R297). -/
  | hprio (a : BitVec 8) (b : BitVec 8)
  /-- VPUBLISH (R130). -/
  | vpublish (d : BitVec 8) (a : BitVec 8)
  /-- KVX (R233). -/
  | kvx (d : BitVec 8) (a : BitVec 8) (b : BitVec 8)
  /-- MAPPG (R306). -/
  | mappg (a : BitVec 8) (b : BitVec 8)
  /-- TLBINV (R342). -/
  | tlbinv (g : BitVec 1) (l : BitVec 1) (a : BitVec 8) (b : BitVec 8)
  /-- COPY (R282). -/
  | copy (n : BitVec 4) (b : BitVec 8)
  /-- BINIT (R278). -/
  | binit (a : BitVec 8) (b : BitVec 8)
  /-- BEXPECT (R278). -/
  | bexpect (a : BitVec 8) (b : BitVec 8)
  /-- BARRIVE (R278). -/
  | barrive (a : BitVec 8)
  /-- BWAIT (R278). -/
  | bwait (a : BitVec 8) (b : BitVec 8)
  /-- NBAR (R311). -/
  | nbar (a : BitVec 8) (b : BitVec 8)
  /-- MMA (R223). -/
  | mma (d : BitVec 8) (h : BitVec 1) (r : BitVec 1) (b : BitVec 8)
  /-- MMAH (R224). -/
  | mmah (d : BitVec 8) (h : BitVec 1) (r : BitVec 1) (b : BitVec 8)
  /-- MDIST (R224). -/
  | mdist (d : BitVec 8) (h : BitVec 1) (r : BitVec 1) (b : BitVec 8)
  /-- MTOPK (R227). -/
  | mtopk (d : BitVec 8) (a : BitVec 8) (b : BitVec 8)
  /-- TZERO (R228). -/
  | tzero (d : BitVec 8)
  /-- TLD (R228). -/
  | tld (d : BitVec 8) (b : BitVec 8)
  /-- TST (R228). -/
  | tst (d : BitVec 8) (b : BitVec 8)
  /-- TROWMAX (R230). -/
  | trowmax (d : BitVec 8) (b : BitVec 8)
  /-- TEXPSUB (R230). -/
  | texpsub (d : BitVec 8) (b : BitVec 8)
  /-- TSCALE (R230). -/
  | tscale (d : BitVec 8) (b : BitVec 8)
  /-- SAMPLE (R235). -/
  | sample (d : BitVec 8) (b : BitVec 8)
  /-- SPECACC (R236). -/
  | specacc (d : BitVec 8) (b : BitVec 8)
  /-- TICKET (R248). -/
  | ticket (d : BitVec 8) (b : BitVec 8)
  /-- REDEEM (R249). -/
  | redeem (d : BitVec 8) (b : BitVec 8)
  /-- TKQUERY (R251). -/
  | tkquery (d : BitVec 8) (a : BitVec 8)
  /-- WINDOW (R200). -/
  | window (d : BitVec 8)
  /-- LOGCTL_ENABLE (R198). -/
  | logctlEnable (a : BitVec 8)
  /-- LOGCTL_DISABLE (R198). -/
  | logctlDisable (a : BitVec 8)
  /-- LOGCTL_POLICY (R198). -/
  | logctlPolicy (a : BitVec 8)
  /-- LOGCTL_TRIM (R198). -/
  | logctlTrim (a : BitVec 8)
  /-- REWIND (R202). -/
  | rewind (d : BitVec 8) (a : BitVec 8) (c : BitVec 1) (f : BitVec 1)
  /-- FRD (R291). -/
  | frd (d : BitVec 8) (a : BitVec 8) (b : BitVec 8)
  /-- FWR (R291). -/
  | fwr (d : BitVec 8) (a : BitVec 8) (b : BitVec 8)
  /-- FRESUME (R292). -/
  | fresume (a : BitVec 8)
  /-- FKILL (R292). -/
  | fkill (a : BitVec 8)
  /-- FSTEP (R293). -/
  | fstep (a : BitVec 8)
  /-- LAUNCH (R300). -/
  | launch (a : BitVec 8) (b : BitVec 8)
  /-- REGROW (R41). -/
  | regrow (d : BitVec 3) (a : BitVec 8)
  /-- REGFREE (R317). -/
  | regfree (a : BitVec 8)
  /-- REORDER (R318). -/
  | reorder (a : BitVec 8) (b : BitVec 8)
  /-- ILLEGAL_INSTRUCTION (R69). -/
  | illegalInstruction (w : BitVec 32)
  /-- NONZERO_RESERVED_FIELD (R64). -/
  | nonzeroReservedField (w : BitVec 32)
  /-- NOP (R312). -/
  | nop
  /-- RET (R298). -/
  | ret
  /-- COMPACT (R281). -/
  | compact
  /-- EXIT (R287). -/
  | exit
  /-- TSYNC (R345). -/
  | tsync
  /-- CSYNC (R283). -/
  | csync
  /-- ESCALATE (R294). -/
  | escalate
  /-- MARKDONE (R307). -/
  | markdone
  /-- COMPACT_RELEASE (R36). -/
  | compactRelease
  /-- YIELD_RESUME (R354). -/
  | yieldResume
  /-- MWAIT_WAKE (R153). -/
  | mwaitWake
  /-- MEMORY_SIDE_APPLY (R19). -/
  | memorySideApply
  /-- COPY_UNIT_WRITE (R240). -/
  | copyUnitWrite
  /-- REGROW_GRANT (R41). -/
  | regrowGrant
  /-- REGROW_REFUSAL (R42). -/
  | regrowRefusal
  /-- REGFREE_SHRINK (R43). -/
  | regfreeShrink
  /-- REORDER_DEPOSIT (R37). -/
  | reorderDeposit
  /-- GLADE_RELAUNCH (R38). -/
  | gladeRelaunch
  /-- CLAUSE_CHECK (R50). -/
  | clauseCheck
  /-- OPERATION_COMPLETE (R56). -/
  | operationComplete
  /-- TLB_WALK (R107). -/
  | tlbWalk
  /-- COPY_ON_WRITE_COPY (R131). -/
  | copyOnWriteCopy
  /-- PATH_PROMOTION (R44). -/
  | pathPromotion
  /-- WATCHDOG_NOPROGRESS (R45). -/
  | watchdogNoprogress
  /-- GROUP_RETIRE (R287). -/
  | groupRetire
  /-- QBASE_WRITE (R157). -/
  | qbaseWrite
  /-- QCTL_WRITE (R156). -/
  | qctlWrite
  /-- QCTX_WRITE (R156). -/
  | qctxWrite
  /-- QTAIL_WRITE (R158). -/
  | qtailWrite
  /-- PACKET_HEAD_CHECK (R162). -/
  | packetHeadCheck
  /-- PLACEMENT_DECISION (R170). -/
  | placementDecision
  /-- TEAM_START (R163). -/
  | teamStart
  /-- GRID_COMPLETE (R166). -/
  | gridComplete
  /-- HANDLER_SPAWN (R178). -/
  | handlerSpawn
  /-- ESCALATION (R184). -/
  | escalation
  /-- ESCALATION_TIMEOUT (R184). -/
  | escalationTimeout
  /-- RUNG_TIMEOUT (R185). -/
  | rungTimeout
  /-- MATRIX_PAIR_RESET (R193). -/
  | matrixPairReset
  /-- UNCORRECTABLE_ERROR (R191). -/
  | uncorrectableError
  /-- POISON_CONTAINMENT (R192). -/
  | poisonContainment
  /-- LINK_FAILURE (R271). -/
  | linkFailure
  /-- TEAM_SAVE (R189). -/
  | teamSave
  /-- DRAIN_TIMEOUT (R188). -/
  | drainTimeout
  /-- GOVERNOR_SAMPLE (R25). -/
  | governorSample
  /-- POWER_ESCALATION (R272). -/
  | powerEscalation
  /-- THERMAL_LIMIT (R272). -/
  | thermalLimit
  /-- POWER_OFF (R26). -/
  | powerOff
  /-- STAGE_0 (R261). -/
  | stage0
  /-- STAGE_1 (R261). -/
  | stage1
  /-- STAGE_2 (R261). -/
  | stage2
  /-- HOST_MEMORY_WRITE (R270). -/
  | hostMemoryWrite
  /-- RECLAIM (R127). -/
  | reclaim
  /-- OBJECT_DESTRUCTION (R129). -/
  | objectDestruction
  /-- PROFILER_SAMPLE (R211). -/
  | profilerSample
  /-- REVERSE_STEP_COMPLETE (R205). -/
  | reverseStepComplete
  /-- TKCFG_WRITE (R245). -/
  | tkcfgWrite
  /-- TKBASE_WRITE (R245). -/
  | tkbaseWrite
  /-- POOLMARK_WRITE (R126). -/
  | poolmarkWrite
  /-- ROLE_WRITE (R39). -/
  | roleWrite
  /-- PROGRESS_WRITE (R326). -/
  | progressWrite
  /-- WDOG_WRITE (R46). -/
  | wdogWrite
  /-- FLTCFG_WRITE (R185). -/
  | fltcfgWrite
  /-- PRETH_WRITE (R188). -/
  | prethWrite
  /-- PROFCFG_WRITE (R211). -/
  | profcfgWrite
  /-- FPSTAT_WRITE (R95). -/
  | fpstatWrite
  /-- REGISTER_WRITE (R7). -/
  | registerWrite
  /-- IDENT (R263). -/
  | ident
  /-- ATTEST (R269). -/
  | attest
  /-- KEYSET (R264). -/
  | keyset
  /-- SEAL (R264). -/
  | seal
  /-- UNSEAL (R264). -/
  | unseal
  /-- SIGNONLY (R264). -/
  | signonly
  /-- EVENT (R265). -/
  | event
  /-- ANSWER (R184). -/
  | answer
  /-- CTXREG_READ (R267). -/
  | ctxregRead
  /-- CTXREG_WRITE (R267). -/
  | ctxregWrite
  /-- MAILBOX_TLBINV (R264). -/
  | mailboxTlbinv
  /-- PREEMPT (R268). -/
  | preempt
  /-- RESTORE (R268). -/
  | restore
  /-- POOLADD (R264). -/
  | pooladd
  /-- OBJREGION (R264). -/
  | objregion
  /-- CTXKILL (R264). -/
  | ctxkill
  /-- ATTACH (R266). -/
  | attach
  /-- DETACH (R266). -/
  | detach
  /-- SETREG (R266). -/
  | setreg
  /-- FREEZE (R266). -/
  | freeze
  /-- RESUME (R266). -/
  | resume
  /-- STEP (R209). -/
  | step
  /-- RSTEP (R205). -/
  | rstep
  /-- BOROIVI_WINDOW (R199). -/
  | boroiviWindow
  /-- READ (R266). -/
  | read
  /-- WRITE (R266). -/
  | write
  /-- BOROIVI_REWIND (R202). -/
  | boroiviRewind
  /-- MEMREAD (R266). -/
  | memread
  /-- MEMWRITE (R266). -/
  | memwrite
  /-- HOST_SIDE_COHERENCE (R113). -/
  | hostSideCoherence
  deriving DecidableEq, Repr

end Sys2Proof
end

