-- ==== Sys2Proof/WellFormed.lean ====
section
/-! DEFINITION. Which terms of `Instr` stand for something the part can be given.

Instruction words are well formed whatever their fields hold: the kinds of R62 are checked when the word issues (R64).
The two rows for unmatched words are well formed only for a word of that sort. -/

namespace Sys2Proof

/-- The unassigned opcodes of R69 and R70. -/
def unassignedOpcode (op : Nat) : Bool :=
  [0x00, 0x26, 0x27, 0x3E, 0x3F, 0x55, 0x5F, 0x67, 0x6D, 0x6E, 0x6F, 0x7A, 0x7B, 0x7F, 0x8C, 0x8D, 0x8E, 0x8F,
   0xBE, 0xBF, 0xFF].contains op

/-- The opcode of a word (R60). -/
def opcodeOf (w : BitVec 32) : Nat := (w.extractLsb' 24 8).toNat

/-- Rows 1 to 24 of the instruction words: what is fixed and which bits fix it. -/
def instructionRows0 : List (BitVec 32 × BitVec 32) :=
  [(0x01000000#32, 0xFFFFFFFF#32), (0x02000000#32, 0xFF3F0000#32), (0x03000000#32, 0xFF070000#32), (0x04000000#32, 0xFF070000#32),
   (0x05000000#32, 0xFF070000#32), (0x06000000#32, 0xFF3F0000#32), (0x07000000#32, 0xFFFF00FF#32), (0x08000000#32, 0xFFFFFFFF#32),
   (0x09000000#32, 0xFFFF00FF#32), (0x0A000000#32, 0xFFFF00FF#32), (0x0B000000#32, 0xFFFFFFFF#32), (0x0C000000#32, 0xFFFFFFFF#32),
   (0x0D000000#32, 0xFF0000FF#32), (0x0E000000#32, 0xFFFF0000#32), (0x0F000000#32, 0xFFFFFF00#32), (0x10000000#32, 0xFFFFFF00#32),
   (0x11000000#32, 0xFFFFFF00#32), (0xD0000000#32, 0xFFFFFF00#32), (0x12000000#32, 0xFF00FF00#32), (0x13000000#32, 0xFFFF0000#32),
   (0x14000000#32, 0xFF000000#32), (0xC0000000#32, 0xFF000000#32), (0x15000000#32, 0xFF000000#32), (0xC1000000#32, 0xFF000000#32)]

/-- Rows 25 to 48 of the instruction words: what is fixed and which bits fix it. -/
def instructionRows1 : List (BitVec 32 × BitVec 32) :=
  [(0x16000000#32, 0xFF000000#32), (0xC2000000#32, 0xFF000000#32), (0x17000000#32, 0xFF000000#32), (0x18000000#32, 0xFF000000#32),
   (0xC3000000#32, 0xFF000000#32), (0x19000000#32, 0xFF000000#32), (0xC4000000#32, 0xFF000000#32), (0x1A000000#32, 0xFF000000#32),
   (0xC5000000#32, 0xFF000000#32), (0x1B000000#32, 0xFF000000#32), (0xC6000000#32, 0xFF000000#32), (0x1C000000#32, 0xFF000000#32),
   (0xC7000000#32, 0xFF000000#32), (0x1D000000#32, 0xFF000000#32), (0xC8000000#32, 0xFF000000#32), (0x1E000000#32, 0xFF000000#32),
   (0xC9000000#32, 0xFF000000#32), (0x1F000000#32, 0xFF000000#32), (0xCA000000#32, 0xFF000000#32), (0x20000000#32, 0xFF880000#32),
   (0xCB000000#32, 0xFF880000#32), (0x21000000#32, 0xFF00F800#32), (0xCC000000#32, 0xFF00F800#32), (0x22000000#32, 0xFF00FF00#32)]

/-- Rows 49 to 72 of the instruction words: what is fixed and which bits fix it. -/
def instructionRows2 : List (BitVec 32 × BitVec 32) :=
  [(0xCD000000#32, 0xFF00FF00#32), (0x23000000#32, 0xFF000000#32), (0xCE000000#32, 0xFF000000#32), (0x24000000#32, 0xFF000000#32),
   (0xCF000000#32, 0xFF000000#32), (0x25000000#32, 0xFF0000FF#32), (0x28000000#32, 0xFF000000#32), (0xD1000000#32, 0xFF000000#32),
   (0x29000000#32, 0xFF000000#32), (0xD2000000#32, 0xFF000000#32), (0x2A000000#32, 0xFF000000#32), (0xD3000000#32, 0xFF000000#32),
   (0x2B000000#32, 0xFF000000#32), (0x2C000000#32, 0xFF000000#32), (0xD4000000#32, 0xFF000000#32), (0x2D000000#32, 0xFF000000#32),
   (0xD5000000#32, 0xFF000000#32), (0x2E000000#32, 0xFF000000#32), (0xD6000000#32, 0xFF000000#32), (0x2F000000#32, 0xFF000000#32),
   (0xD7000000#32, 0xFF000000#32), (0x30000000#32, 0xFF000000#32), (0xD8000000#32, 0xFF000000#32), (0x31000000#32, 0xFF000000#32)]

/-- Rows 73 to 96 of the instruction words: what is fixed and which bits fix it. -/
def instructionRows3 : List (BitVec 32 × BitVec 32) :=
  [(0xD9000000#32, 0xFF000000#32), (0x32000000#32, 0xFF000000#32), (0xDA000000#32, 0xFF000000#32), (0x33000000#32, 0xFF000000#32),
   (0xDB000000#32, 0xFF000000#32), (0x34000000#32, 0xFF000000#32), (0xDC000000#32, 0xFF000000#32), (0x35000000#32, 0xFF0000FF#32),
   (0x36000000#32, 0xFF0000FF#32), (0x37000000#32, 0xFF000000#32), (0xDD000000#32, 0xFF000000#32), (0x38000000#32, 0xFF000000#32),
   (0xDE000000#32, 0xFF000000#32), (0x39000000#32, 0xFF0000FF#32), (0x3A000000#32, 0xFF0000FF#32), (0x3B000000#32, 0xFF880000#32),
   (0xDF000000#32, 0xFF880000#32), (0x3C000000#32, 0xFF00F800#32), (0xE0000000#32, 0xFF00F800#32), (0x3D000000#32, 0xFF00FF00#32),
   (0xE1000000#32, 0xFF00FF00#32), (0x40000000#32, 0xFF000000#32), (0xE2000000#32, 0xFF000000#32), (0x41000000#32, 0xFF000000#32)]

/-- Rows 97 to 120 of the instruction words: what is fixed and which bits fix it. -/
def instructionRows4 : List (BitVec 32 × BitVec 32) :=
  [(0xE3000000#32, 0xFF000000#32), (0x42000000#32, 0xFF000000#32), (0xE4000000#32, 0xFF000000#32), (0x43000000#32, 0xFF000000#32),
   (0xE5000000#32, 0xFF000000#32), (0x44000000#32, 0xFF000000#32), (0xE6000000#32, 0xFF000000#32), (0x45000000#32, 0xFF000000#32),
   (0xE7000000#32, 0xFF000000#32), (0x46000000#32, 0xFF880000#32), (0xE8000000#32, 0xFF880000#32), (0x47000000#32, 0xFF0000FF#32),
   (0x48000000#32, 0xFF0000FF#32), (0x49000000#32, 0xFF0000FF#32), (0x4A000000#32, 0xFF0000FF#32), (0x4B000000#32, 0xFF0000FF#32),
   (0x4C000000#32, 0xFF0000FF#32), (0x4D000000#32, 0xFF0000FF#32), (0x4E000000#32, 0xFF0000FF#32), (0x4F000000#32, 0xFF0000FF#32),
   (0x50000000#32, 0xFF000000#32), (0x51000000#32, 0xFF000000#32), (0x52000000#32, 0xFF000000#32), (0x53000000#32, 0xFF000000#32)]

/-- Rows 121 to 144 of the instruction words: what is fixed and which bits fix it. -/
def instructionRows5 : List (BitVec 32 × BitVec 32) :=
  [(0x54000000#32, 0xFF000000#32), (0x56000000#32, 0xFF00F8FF#32), (0x57000000#32, 0xFF000000#32), (0x58000000#32, 0xFF000000#32),
   (0x59000000#32, 0xFF000000#32), (0x5A000000#32, 0xFF000000#32), (0x5B000000#32, 0xFF000000#32), (0x5C000000#32, 0xFF000000#32),
   (0x5D000000#32, 0xFF000000#32), (0x5E000000#32, 0xFFFF0000#32), (0x60000000#32, 0xFF000000#32), (0xE9000000#32, 0xFF000000#32),
   (0x61000000#32, 0xFF000000#32), (0xEA000000#32, 0xFF000000#32), (0x62000000#32, 0xFF000000#32), (0xEB000000#32, 0xFF000000#32),
   (0x63000000#32, 0xFF000000#32), (0xEC000000#32, 0xFF000000#32), (0x64000000#32, 0xFF000000#32), (0xED000000#32, 0xFF000000#32),
   (0x65000000#32, 0xFF000000#32), (0xEE000000#32, 0xFF000000#32), (0x66000000#32, 0xFF000000#32), (0xEF000000#32, 0xFF000000#32)]

/-- Rows 145 to 168 of the instruction words: what is fixed and which bits fix it. -/
def instructionRows6 : List (BitVec 32 × BitVec 32) :=
  [(0x68000000#32, 0xFF000000#32), (0xF0000000#32, 0xFF000000#32), (0x69000000#32, 0xFF000000#32), (0xF1000000#32, 0xFF000000#32),
   (0x6A000000#32, 0xFF000000#32), (0xF2000000#32, 0xFF000000#32), (0x6B000000#32, 0xFF000000#32), (0xF3000000#32, 0xFF000000#32),
   (0x6C000000#32, 0xFF000000#32), (0xF4000000#32, 0xFF000000#32), (0x70000000#32, 0xFF000000#32), (0xF5000000#32, 0xFF000000#32),
   (0x71000000#32, 0xFF000000#32), (0xF6000000#32, 0xFF000000#32), (0x72000000#32, 0xFF000000#32), (0xF7000000#32, 0xFF000000#32),
   (0x73000000#32, 0xFF000000#32), (0xF8000000#32, 0xFF000000#32), (0x74000000#32, 0xFF000000#32), (0xF9000000#32, 0xFF000000#32),
   (0x75000000#32, 0xFF000000#32), (0xFA000000#32, 0xFF000000#32), (0x76000000#32, 0xFF000000#32), (0xFB000000#32, 0xFF000000#32)]

/-- Rows 169 to 192 of the instruction words: what is fixed and which bits fix it. -/
def instructionRows7 : List (BitVec 32 × BitVec 32) :=
  [(0x77000000#32, 0xFF000000#32), (0xFC000000#32, 0xFF000000#32), (0x78000000#32, 0xFF000000#32), (0xFD000000#32, 0xFF000000#32),
   (0x79000000#32, 0xFF000000#32), (0xFE000000#32, 0xFF000000#32), (0x7C000000#32, 0xFFFFFFE0#32), (0x7D000000#32, 0xFFFF0000#32),
   (0x7E000000#32, 0xFFFE0000#32), (0x80000000#32, 0xFF000000#32), (0x81000000#32, 0xFF000000#32), (0x82000000#32, 0xFF000000#32),
   (0x83000000#32, 0xFF000000#32), (0x84000000#32, 0xFF000000#32), (0x85000000#32, 0xFF000000#32), (0x86000000#32, 0xFF000000#32),
   (0x87000000#32, 0xFF000000#32), (0x88000000#32, 0xFF000000#32), (0x89000000#32, 0xFFFF0000#32), (0x8A000000#32, 0xFFFF0000#32),
   (0x8B000000#32, 0xFFFF0000#32), (0x90000000#32, 0xFF0000FF#32), (0x91000000#32, 0xFFFF00FF#32), (0x92000000#32, 0xFF0000FF#32)]

/-- Rows 193 to 216 of the instruction words: what is fixed and which bits fix it. -/
def instructionRows8 : List (BitVec 32 × BitVec 32) :=
  [(0x93000000#32, 0xFFFF00FF#32), (0x94000000#32, 0xFFFF0000#32), (0x95000000#32, 0xFF0000FF#32), (0x96000000#32, 0xFF000000#32),
   (0x97000000#32, 0xFFFF0000#32), (0x98000000#32, 0xFFFC0000#32), (0x99000000#32, 0xFFF0FF00#32), (0x9A000000#32, 0xFFFF0000#32),
   (0x9B000000#32, 0xFFFF0000#32), (0x9C000000#32, 0xFFFF00FF#32), (0x9D000000#32, 0xFFFF0000#32), (0x9E000000#32, 0xFFFFFFFF#32),
   (0x9F000000#32, 0xFFFFFFFF#32), (0xA0000000#32, 0xFFFF0000#32), (0xA1000000#32, 0xFF00BE00#32), (0xA2000000#32, 0xFF00BE00#32),
   (0xA3000000#32, 0xFF00BE00#32), (0xA4000000#32, 0xFF000000#32), (0xA5000000#32, 0xFF00FFFF#32), (0xA6000000#32, 0xFF00FF00#32),
   (0xA7000000#32, 0xFF00FF00#32), (0xA8000000#32, 0xFF00FF00#32), (0xA9000000#32, 0xFF00FF00#32), (0xAA000000#32, 0xFF00FF00#32)]

/-- Rows 217 to 238 of the instruction words: what is fixed and which bits fix it. -/
def instructionRows9 : List (BitVec 32 × BitVec 32) :=
  [(0xAB000000#32, 0xFF00FF00#32), (0xAC000000#32, 0xFF00FF00#32), (0xAD000000#32, 0xFF00FF00#32), (0xAE000000#32, 0xFF00FF00#32),
   (0xAF000000#32, 0xFF0000FF#32), (0xB0000000#32, 0xFF00FFFF#32), (0xB1000000#32, 0xFFFF00FF#32), (0xB1000001#32, 0xFFFF00FF#32),
   (0xB1000002#32, 0xFFFF00FF#32), (0xB1000003#32, 0xFFFF00FF#32), (0xB2000000#32, 0xFF0000FC#32), (0xB3000000#32, 0xFF000000#32),
   (0xB4000000#32, 0xFF000000#32), (0xB5000000#32, 0xFFFF00FF#32), (0xB6000000#32, 0xFFFF00FF#32), (0xB7000000#32, 0xFFFF00FF#32),
   (0xB8000000#32, 0xFFFFFFFF#32), (0xB9000000#32, 0xFFFF0000#32), (0xBA000000#32, 0xFFFFFFFF#32), (0xBB000000#32, 0xFFF800FF#32),
   (0xBC000000#32, 0xFFFF00FF#32), (0xBD000000#32, 0xFFFF0000#32)]

/-- The fixed bits of every instruction word of the opcode table: the word masked by the second equals the first. -/
def instructionRows : List (BitVec 32 × BitVec 32) :=
  instructionRows0 ++ instructionRows1 ++ instructionRows2 ++ instructionRows3 ++ instructionRows4 ++
  instructionRows5 ++ instructionRows6 ++ instructionRows7 ++ instructionRows8 ++ instructionRows9

/-- Some instruction row matches the word. -/
def matchesRow (w : BitVec 32) : Bool := instructionRows.any fun r => w &&& r.2 == r.1

/-- Well-formedness of a term: the words of the two unmatched rows are unmatched words. Whether the rest of an event
makes sense is `Machine.Event.wellFormed`, which sees what the event is about. -/
def Instr.wellFormed : Instr → Bool
  | .illegalInstruction w => unassignedOpcode (opcodeOf w)
  | .nonzeroReservedField w => !unassignedOpcode (opcodeOf w) && !matchesRow w
  | _ => true

end Sys2Proof
end

