-- ==== Sys2Proof/Decode.lean ====
section
/-! DEFINITION. The decoder and, after it, the encoder.

A word is OP[31:24] D[23:16] A[15:8] B[7:0] (R60); the opcode maps are R69 and R70. A word whose opcode is unassigned
decodes to `illegalInstruction`, one with an assigned opcode whose reserved bits break its row to
`nonzeroReservedField`: both are rows of the table, and their meanings stop the path (R64). -/

namespace Sys2Proof

/-- Opcodes 0x00 to 0x0F. -/
def decodeRow0 (lo : Nat) (d a b : BitVec 8) (w : BitVec 32) : Instr :=
  match lo with
  | 1 => if d = 0#8 ∧ a = 0#8 ∧ b = 0#8 then .nop else .nonzeroReservedField w
  | 2 => if d &&& 63#8 = 0#8 then .bra (d.extractLsb' 6 2) (a ++ b) else .nonzeroReservedField w
  | 3 => if d &&& 7#8 = 0#8 then .brp (d.extractLsb' 6 2) (d.extractLsb' 3 3) (a ++ b) else .nonzeroReservedField w
  | 4 => if d &&& 7#8 = 0#8 then .brpn (d.extractLsb' 6 2) (d.extractLsb' 3 3) (a ++ b) else .nonzeroReservedField w
  | 5 => if d &&& 7#8 = 0#8 then .brq (d.extractLsb' 6 2) (d.extractLsb' 3 3) (a ++ b) else .nonzeroReservedField w
  | 6 => if d &&& 63#8 = 0#8 then .call (d.extractLsb' 6 2) (a ++ b) else .nonzeroReservedField w
  | 7 => if d = 0#8 ∧ b = 0#8 then .calli a else .nonzeroReservedField w
  | 8 => if d = 0#8 ∧ a = 0#8 ∧ b = 0#8 then .ret else .nonzeroReservedField w
  | 9 => if d = 0#8 ∧ b = 0#8 then .jmpi a else .nonzeroReservedField w
  | 10 => if d = 0#8 ∧ b = 0#8 then .regang a else .nonzeroReservedField w
  | 11 => if d = 0#8 ∧ a = 0#8 ∧ b = 0#8 then .compact else .nonzeroReservedField w
  | 12 => if d = 0#8 ∧ a = 0#8 ∧ b = 0#8 then .exit else .nonzeroReservedField w
  | 13 => if b = 0#8 then .yieldc d a else .nonzeroReservedField w
  | 14 => if d = 0#8 then .waitf a b else .nonzeroReservedField w
  | 15 => if d = 0#8 ∧ a = 0#8 then .trap b else .nonzeroReservedField w
  | _ => .illegalInstruction w

/-- Opcodes 0x10 to 0x1F. -/
def decodeRow1 (lo : Nat) (d a b : BitVec 8) (w : BitVec 32) : Instr :=
  match lo with
  | 0 => if d = 0#8 ∧ a = 0#8 then .brk b else .nonzeroReservedField w
  | 1 => if d = 0#8 ∧ a = 0#8 then .setmode b else .nonzeroReservedField w
  | 2 => if a = 0#8 then .srd d b else .nonzeroReservedField w
  | 3 => if d = 0#8 then .swr a b else .nonzeroReservedField w
  | 4 => .sadd d a b
  | 5 => .ssub d a b
  | 6 => .smul d a b
  | 7 => .smulh d a b
  | 8 => .sand d a b
  | 9 => .sor d a b
  | 10 => .sxor d a b
  | 11 => .sshl d a b
  | 12 => .sshr d a b
  | 13 => .ssra d a b
  | 14 => .smin d a b
  | 15 => .smax d a b
  | _ => .illegalInstruction w

/-- Opcodes 0x20 to 0x2F. -/
def decodeRow2 (lo : Nat) (d a b : BitVec 8) (w : BitVec 32) : Instr :=
  match lo with
  | 0 => if d &&& 136#8 = 0#8 then .scmp (d.extractLsb' 4 3) (d.extractLsb' 0 3) a b else .nonzeroReservedField w
  | 1 => if a &&& 248#8 = 0#8 then .ssel d (a.extractLsb' 0 3) b else .nonzeroReservedField w
  | 2 => if a = 0#8 then .smov d b else .nonzeroReservedField w
  | 3 => .sadd64 d a b
  | 4 => .sbfe d a b
  | 5 => if b = 0#8 then .spopc d a else .nonzeroReservedField w
  | 8 => .vadd d a b
  | 9 => .vsub d a b
  | 10 => .vmul d a b
  | 11 => .vmulh d a b
  | 12 => .vmad d a b
  | 13 => .vand d a b
  | 14 => .vor d a b
  | 15 => .vxor d a b
  | _ => .illegalInstruction w

/-- Opcodes 0x30 to 0x3F. -/
def decodeRow3 (lo : Nat) (d a b : BitVec 8) (w : BitVec 32) : Instr :=
  match lo with
  | 0 => .vshl d a b
  | 1 => .vshr d a b
  | 2 => .vsra d a b
  | 3 => .vmin d a b
  | 4 => .vmax d a b
  | 5 => if b = 0#8 then .vabs d a else .nonzeroReservedField w
  | 6 => if b = 0#8 then .vneg d a else .nonzeroReservedField w
  | 7 => .vbfe d a b
  | 8 => .vbfi d a b
  | 9 => if b = 0#8 then .vpopc d a else .nonzeroReservedField w
  | 10 => if b = 0#8 then .vclz d a else .nonzeroReservedField w
  | 11 => if d &&& 136#8 = 0#8 then .vcmp (d.extractLsb' 4 3) (d.extractLsb' 0 3) a b else .nonzeroReservedField w
  | 12 => if a &&& 248#8 = 0#8 then .vsel d (a.extractLsb' 0 3) b else .nonzeroReservedField w
  | 13 => if a = 0#8 then .vmov d b else .nonzeroReservedField w
  | _ => .illegalInstruction w

/-- Opcodes 0x40 to 0x4F. -/
def decodeRow4 (lo : Nat) (d a b : BitVec 8) (w : BitVec 32) : Instr :=
  match lo with
  | 0 => .fadd d a b
  | 1 => .fsub d a b
  | 2 => .fmul d a b
  | 3 => .ffma d a b
  | 4 => .fmin d a b
  | 5 => .fmax d a b
  | 6 => if d &&& 136#8 = 0#8 then .fcmp (d.extractLsb' 4 3) (d.extractLsb' 0 3) a b else .nonzeroReservedField w
  | 7 => if b = 0#8 then .frcp d a else .nonzeroReservedField w
  | 8 => if b = 0#8 then .frsq d a else .nonzeroReservedField w
  | 9 => if b = 0#8 then .fsqrt d a else .nonzeroReservedField w
  | 10 => if b = 0#8 then .fexp2 d a else .nonzeroReservedField w
  | 11 => if b = 0#8 then .flog2 d a else .nonzeroReservedField w
  | 12 => if b = 0#8 then .fsin d a else .nonzeroReservedField w
  | 13 => if b = 0#8 then .fcos d a else .nonzeroReservedField w
  | 14 => if b = 0#8 then .ftanh d a else .nonzeroReservedField w
  | 15 => if b = 0#8 then .fsigm d a else .nonzeroReservedField w
  | _ => .illegalInstruction w

/-- Opcodes 0x50 to 0x5F. -/
def decodeRow5 (lo : Nat) (d a b : BitVec 8) (w : BitVec 32) : Instr :=
  match lo with
  | 0 => .cvt d a b
  | 1 => .quant d a b
  | 2 => .deq d a b
  | 3 => .pack d a b
  | 4 => .unpk d a b
  | 6 => if a &&& 248#8 = 0#8 ∧ b = 0#8 then .lballot d (a.extractLsb' 0 3) else .nonzeroReservedField w
  | 7 => .lbcast d a b
  | 8 => .lpush d a b
  | 9 => .lreduce d a b
  | 10 => .lscan d a b
  | 11 => .lshuf d a b
  | 12 => .rng d a b
  | 13 => .rngdrop d a b
  | 14 => if d = 0#8 then .rngkey a b else .nonzeroReservedField w
  | _ => .illegalInstruction w

/-- Opcodes 0x60 to 0x6F. -/
def decodeRow6 (lo : Nat) (d a b : BitVec 8) (w : BitVec 32) : Instr :=
  match lo with
  | 0 => .ld8 d a b
  | 1 => .lds8 d a b
  | 2 => .ld16 d a b
  | 3 => .lds16 d a b
  | 4 => .ld32 d a b
  | 5 => .ld64 d a b
  | 6 => .ld128 d a b
  | 8 => .st8 d a b
  | 9 => .st16 d a b
  | 10 => .st32 d a b
  | 11 => .st64 d a b
  | 12 => .st128 d a b
  | _ => .illegalInstruction w

/-- Opcodes 0x70 to 0x7F. -/
def decodeRow7 (lo : Nat) (d a b : BitVec 8) (w : BitVec 32) : Instr :=
  match lo with
  | 0 => .sld32 d a b
  | 1 => .sld64 d a b
  | 2 => .sst32 d a b
  | 3 => .sst64 d a b
  | 4 => .ldl32 d a b
  | 5 => .ldl64 d a b
  | 6 => .ldl128 d a b
  | 7 => .stl32 d a b
  | 8 => .stl64 d a b
  | 9 => .stl128 d a b
  | 12 => if d = 0#8 ∧ a = 0#8 ∧ b &&& 224#8 = 0#8 then .fence (b.extractLsb' 0 5) else .nonzeroReservedField w
  | 13 => if d = 0#8 then .mwait a b else .nonzeroReservedField w
  | 14 => if d &&& 254#8 = 0#8 then .pref (d.extractLsb' 0 1) a b else .nonzeroReservedField w
  | _ => .illegalInstruction w

/-- Opcodes 0x80 to 0x8F. -/
def decodeRow8 (lo : Nat) (d a b : BitVec 8) (w : BitVec 32) : Instr :=
  match lo with
  | 0 => .atadd d a b
  | 1 => .atand d a b
  | 2 => .atcas d a b
  | 3 => .atfadd d a b
  | 4 => .atmax d a b
  | 5 => .atmin d a b
  | 6 => .ator d a b
  | 7 => .atxchg d a b
  | 8 => .atxor d a b
  | 9 => if d = 0#8 then .msadd a b else .nonzeroReservedField w
  | 10 => if d = 0#8 then .msmax a b else .nonzeroReservedField w
  | 11 => if d = 0#8 then .msmin a b else .nonzeroReservedField w
  | _ => .illegalInstruction w

/-- Opcodes 0x90 to 0x9F. -/
def decodeRow9 (lo : Nat) (d a b : BitVec 8) (w : BitVec 32) : Instr :=
  match lo with
  | 0 => if b = 0#8 then .hnew d a else .nonzeroReservedField w
  | 1 => if d = 0#8 ∧ b = 0#8 then .hfree a else .nonzeroReservedField w
  | 2 => if b = 0#8 then .hupg d a else .nonzeroReservedField w
  | 3 => if d = 0#8 ∧ b = 0#8 then .hrel a else .nonzeroReservedField w
  | 4 => if d = 0#8 then .hprio a b else .nonzeroReservedField w
  | 5 => if b = 0#8 then .vpublish d a else .nonzeroReservedField w
  | 6 => .kvx d a b
  | 7 => if d = 0#8 then .mappg a b else .nonzeroReservedField w
  | 8 => if d &&& 252#8 = 0#8 then .tlbinv (d.extractLsb' 1 1) (d.extractLsb' 0 1) a b else .nonzeroReservedField w
  | 9 => if d &&& 240#8 = 0#8 ∧ a = 0#8 then .copy (d.extractLsb' 0 4) b else .nonzeroReservedField w
  | 10 => if d = 0#8 then .binit a b else .nonzeroReservedField w
  | 11 => if d = 0#8 then .bexpect a b else .nonzeroReservedField w
  | 12 => if d = 0#8 ∧ b = 0#8 then .barrive a else .nonzeroReservedField w
  | 13 => if d = 0#8 then .bwait a b else .nonzeroReservedField w
  | 14 => if d = 0#8 ∧ a = 0#8 ∧ b = 0#8 then .tsync else .nonzeroReservedField w
  | 15 => if d = 0#8 ∧ a = 0#8 ∧ b = 0#8 then .csync else .nonzeroReservedField w
  | _ => .illegalInstruction w

/-- Opcodes 0xA0 to 0xAF. -/
def decodeRowA (lo : Nat) (d a b : BitVec 8) (w : BitVec 32) : Instr :=
  match lo with
  | 0 => if d = 0#8 then .nbar a b else .nonzeroReservedField w
  | 1 => if a &&& 190#8 = 0#8 then .mma d (a.extractLsb' 6 1) (a.extractLsb' 0 1) b else .nonzeroReservedField w
  | 2 => if a &&& 190#8 = 0#8 then .mmah d (a.extractLsb' 6 1) (a.extractLsb' 0 1) b else .nonzeroReservedField w
  | 3 => if a &&& 190#8 = 0#8 then .mdist d (a.extractLsb' 6 1) (a.extractLsb' 0 1) b else .nonzeroReservedField w
  | 4 => .mtopk d a b
  | 5 => if a = 0#8 ∧ b = 0#8 then .tzero d else .nonzeroReservedField w
  | 6 => if a = 0#8 then .tld d b else .nonzeroReservedField w
  | 7 => if a = 0#8 then .tst d b else .nonzeroReservedField w
  | 8 => if a = 0#8 then .trowmax d b else .nonzeroReservedField w
  | 9 => if a = 0#8 then .texpsub d b else .nonzeroReservedField w
  | 10 => if a = 0#8 then .tscale d b else .nonzeroReservedField w
  | 11 => if a = 0#8 then .sample d b else .nonzeroReservedField w
  | 12 => if a = 0#8 then .specacc d b else .nonzeroReservedField w
  | 13 => if a = 0#8 then .ticket d b else .nonzeroReservedField w
  | 14 => if a = 0#8 then .redeem d b else .nonzeroReservedField w
  | 15 => if b = 0#8 then .tkquery d a else .nonzeroReservedField w
  | _ => .illegalInstruction w

/-- Opcodes 0xB0 to 0xBF. -/
def decodeRowB (lo : Nat) (d a b : BitVec 8) (w : BitVec 32) : Instr :=
  match lo with
  | 0 => if a = 0#8 ∧ b = 0#8 then .window d else .nonzeroReservedField w
  | 1 =>
    if d ≠ 0#8 then .nonzeroReservedField w
    else if b = 0#8 then .logctlEnable a
    else if b = 1#8 then .logctlDisable a
    else if b = 2#8 then .logctlPolicy a
    else if b = 3#8 then .logctlTrim a
    else .nonzeroReservedField w
  | 2 => if b &&& 252#8 = 0#8 then .rewind d a (b.extractLsb' 1 1) (b.extractLsb' 0 1) else .nonzeroReservedField w
  | 3 => .frd d a b
  | 4 => .fwr d a b
  | 5 => if d = 0#8 ∧ b = 0#8 then .fresume a else .nonzeroReservedField w
  | 6 => if d = 0#8 ∧ b = 0#8 then .fkill a else .nonzeroReservedField w
  | 7 => if d = 0#8 ∧ b = 0#8 then .fstep a else .nonzeroReservedField w
  | 8 => if d = 0#8 ∧ a = 0#8 ∧ b = 0#8 then .escalate else .nonzeroReservedField w
  | 9 => if d = 0#8 then .launch a b else .nonzeroReservedField w
  | 10 => if d = 0#8 ∧ a = 0#8 ∧ b = 0#8 then .markdone else .nonzeroReservedField w
  | 11 => if d &&& 248#8 = 0#8 ∧ b = 0#8 then .regrow (d.extractLsb' 0 3) a else .nonzeroReservedField w
  | 12 => if d = 0#8 ∧ b = 0#8 then .regfree a else .nonzeroReservedField w
  | 13 => if d = 0#8 then .reorder a b else .nonzeroReservedField w
  | _ => .illegalInstruction w

/-- Opcodes 0xC0 to 0xCF. -/
def decodeRowC (lo : Nat) (d a b : BitVec 8) (w : BitVec 32) : Instr :=
  match lo with
  | 0 => .saddK d a b
  | 1 => .ssubK d a b
  | 2 => .smulK d a b
  | 3 => .sandK d a b
  | 4 => .sorK d a b
  | 5 => .sxorK d a b
  | 6 => .sshlK d a b
  | 7 => .sshrK d a b
  | 8 => .ssraK d a b
  | 9 => .sminK d a b
  | 10 => .smaxK d a b
  | 11 => if d &&& 136#8 = 0#8 then .scmpK (d.extractLsb' 4 3) (d.extractLsb' 0 3) a b else .nonzeroReservedField w
  | 12 => if a &&& 248#8 = 0#8 then .sselK d (a.extractLsb' 0 3) b else .nonzeroReservedField w
  | 13 => if a = 0#8 then .smovK d b else .nonzeroReservedField w
  | 14 => .sadd64K d a b
  | 15 => .sbfeK d a b
  | _ => .illegalInstruction w

/-- Opcodes 0xD0 to 0xDF. -/
def decodeRowD (lo : Nat) (d a b : BitVec 8) (w : BitVec 32) : Instr :=
  match lo with
  | 0 => if d = 0#8 ∧ a = 0#8 then .setmodeK b else .nonzeroReservedField w
  | 1 => .vaddK d a b
  | 2 => .vsubK d a b
  | 3 => .vmulK d a b
  | 4 => .vmadK d a b
  | 5 => .vandK d a b
  | 6 => .vorK d a b
  | 7 => .vxorK d a b
  | 8 => .vshlK d a b
  | 9 => .vshrK d a b
  | 10 => .vsraK d a b
  | 11 => .vminK d a b
  | 12 => .vmaxK d a b
  | 13 => .vbfeK d a b
  | 14 => .vbfiK d a b
  | 15 => if d &&& 136#8 = 0#8 then .vcmpK (d.extractLsb' 4 3) (d.extractLsb' 0 3) a b else .nonzeroReservedField w
  | _ => .illegalInstruction w

/-- Opcodes 0xE0 to 0xEF. -/
def decodeRowE (lo : Nat) (d a b : BitVec 8) (w : BitVec 32) : Instr :=
  match lo with
  | 0 => if a &&& 248#8 = 0#8 then .vselK d (a.extractLsb' 0 3) b else .nonzeroReservedField w
  | 1 => if a = 0#8 then .vmovK d b else .nonzeroReservedField w
  | 2 => .faddK d a b
  | 3 => .fsubK d a b
  | 4 => .fmulK d a b
  | 5 => .ffmaK d a b
  | 6 => .fminK d a b
  | 7 => .fmaxK d a b
  | 8 => if d &&& 136#8 = 0#8 then .fcmpK (d.extractLsb' 4 3) (d.extractLsb' 0 3) a b else .nonzeroReservedField w
  | 9 => .ld8K d a b
  | 10 => .lds8K d a b
  | 11 => .ld16K d a b
  | 12 => .lds16K d a b
  | 13 => .ld32K d a b
  | 14 => .ld64K d a b
  | 15 => .ld128K d a b
  | _ => .illegalInstruction w

/-- Opcodes 0xF0 to 0xFF. -/
def decodeRowF (lo : Nat) (d a b : BitVec 8) (w : BitVec 32) : Instr :=
  match lo with
  | 0 => .st8K d a b
  | 1 => .st16K d a b
  | 2 => .st32K d a b
  | 3 => .st64K d a b
  | 4 => .st128K d a b
  | 5 => .sld32K d a b
  | 6 => .sld64K d a b
  | 7 => .sst32K d a b
  | 8 => .sst64K d a b
  | 9 => .ldl32K d a b
  | 10 => .ldl64K d a b
  | 11 => .ldl128K d a b
  | 12 => .stl32K d a b
  | 13 => .stl64K d a b
  | 14 => .stl128K d a b
  | _ => .illegalInstruction w

/-- The instruction named by the opcode `op` and the fields D, A and B (R60, R69, R70); `w` is the whole word, kept by
the two rows of words that no instruction row matches. -/
def decodeFields (op d a b : BitVec 8) (w : BitVec 32) : Instr :=
  match op.toNat / 16 with
  | 0 => decodeRow0 (op.toNat % 16) d a b w
  | 1 => decodeRow1 (op.toNat % 16) d a b w
  | 2 => decodeRow2 (op.toNat % 16) d a b w
  | 3 => decodeRow3 (op.toNat % 16) d a b w
  | 4 => decodeRow4 (op.toNat % 16) d a b w
  | 5 => decodeRow5 (op.toNat % 16) d a b w
  | 6 => decodeRow6 (op.toNat % 16) d a b w
  | 7 => decodeRow7 (op.toNat % 16) d a b w
  | 8 => decodeRow8 (op.toNat % 16) d a b w
  | 9 => decodeRow9 (op.toNat % 16) d a b w
  | 10 => decodeRowA (op.toNat % 16) d a b w
  | 11 => decodeRowB (op.toNat % 16) d a b w
  | 12 => decodeRowC (op.toNat % 16) d a b w
  | 13 => decodeRowD (op.toNat % 16) d a b w
  | 14 => decodeRowE (op.toNat % 16) d a b w
  | _ => decodeRowF (op.toNat % 16) d a b w

/-- Decoding is total on words: every word is an instruction, an unassigned opcode or a reserved encoding. -/
def decodeWord (w : BitVec 32) : Instr :=
  decodeFields (w.extractLsb' 24 8) (w.extractLsb' 16 8) (w.extractLsb' 8 8) (w.extractLsb' 0 8) w

/-- Why bytes are not an instruction. -/
inductive DecodeError where
  /-- fewer than the four bytes of a word are left (R47: every instruction is one 32-bit word). -/
  | truncated
  deriving DecidableEq, Repr

/-- The word whose bytes are given lowest address first (R4). -/
def wordOfBytes (b0 b1 b2 b3 : BitVec 8) : BitVec 32 := b3 ++ b2 ++ b1 ++ b0

/-- One instruction from bytes, lowest address first, with the bytes left over. -/
def decodeBytes : List (BitVec 8) → Except DecodeError (Instr × List (BitVec 8))
  | b0 :: b1 :: b2 :: b3 :: rest => .ok (decodeWord (wordOfBytes b0 b1 b2 b3), rest)
  | _ => .error .truncated

/-- The four bytes of a word in the order memory holds them (R4). -/
def bytesOfWord (w : BitVec 32) : List (BitVec 8) :=
  [w.extractLsb' 0 8, w.extractLsb' 8 8, w.extractLsb' 16 8, w.extractLsb' 24 8]

/-- What the decoder reads from an instruction whose bits are `w` as the opcode table numbers them: every instruction of
this machine is one 32-bit word, so `nbits` beyond it is refused. -/
def decodeTableWord (nbits w : Nat) : Option Instr :=
  if nbits > 32 then none
  else
    match decodeBytes (bytesOfWord (BitVec.ofNat 32 w)) with
    | .ok (i, _) => some i
    | .error _ => none

/-- A word from its opcode and fields (R60). -/
def assemble (op d a b : BitVec 8) : BitVec 32 := op ++ d ++ a ++ b

/-- The word of an instruction, written from the field lines of the spec; `none` for an event, which has no word. -/
def encode : Instr → Option (BitVec 32)
  | .nop => some (assemble 0x01#8 0#8 0#8 0#8)
  | .bra h o => some (assemble 0x02#8 (h ++ 0#6) (o.extractLsb' 8 8) (o.extractLsb' 0 8))
  | .brp h p o => some (assemble 0x03#8 (h ++ p ++ 0#3) (o.extractLsb' 8 8) (o.extractLsb' 0 8))
  | .brpn h p o => some (assemble 0x04#8 (h ++ p ++ 0#3) (o.extractLsb' 8 8) (o.extractLsb' 0 8))
  | .brq h p o => some (assemble 0x05#8 (h ++ p ++ 0#3) (o.extractLsb' 8 8) (o.extractLsb' 0 8))
  | .call h o => some (assemble 0x06#8 (h ++ 0#6) (o.extractLsb' 8 8) (o.extractLsb' 0 8))
  | .calli a => some (assemble 0x07#8 0#8 a 0#8)
  | .ret => some (assemble 0x08#8 0#8 0#8 0#8)
  | .jmpi a => some (assemble 0x09#8 0#8 a 0#8)
  | .regang a => some (assemble 0x0A#8 0#8 a 0#8)
  | .compact => some (assemble 0x0B#8 0#8 0#8 0#8)
  | .exit => some (assemble 0x0C#8 0#8 0#8 0#8)
  | .yieldc d a => some (assemble 0x0D#8 d a 0#8)
  | .waitf a b => some (assemble 0x0E#8 0#8 a b)
  | .trap b => some (assemble 0x0F#8 0#8 0#8 b)
  | .brk b => some (assemble 0x10#8 0#8 0#8 b)
  | .setmode b => some (assemble 0x11#8 0#8 0#8 b)
  | .setmodeK k => some (assemble 0xD0#8 0#8 0#8 k)
  | .srd d b => some (assemble 0x12#8 d 0#8 b)
  | .swr a b => some (assemble 0x13#8 0#8 a b)
  | .sadd d a b => some (assemble 0x14#8 d a b)
  | .saddK d a k => some (assemble 0xC0#8 d a k)
  | .ssub d a b => some (assemble 0x15#8 d a b)
  | .ssubK d a k => some (assemble 0xC1#8 d a k)
  | .smul d a b => some (assemble 0x16#8 d a b)
  | .smulK d a k => some (assemble 0xC2#8 d a k)
  | .smulh d a b => some (assemble 0x17#8 d a b)
  | .sand d a b => some (assemble 0x18#8 d a b)
  | .sandK d a k => some (assemble 0xC3#8 d a k)
  | .sor d a b => some (assemble 0x19#8 d a b)
  | .sorK d a k => some (assemble 0xC4#8 d a k)
  | .sxor d a b => some (assemble 0x1A#8 d a b)
  | .sxorK d a k => some (assemble 0xC5#8 d a k)
  | .sshl d a b => some (assemble 0x1B#8 d a b)
  | .sshlK d a k => some (assemble 0xC6#8 d a k)
  | .sshr d a b => some (assemble 0x1C#8 d a b)
  | .sshrK d a k => some (assemble 0xC7#8 d a k)
  | .ssra d a b => some (assemble 0x1D#8 d a b)
  | .ssraK d a k => some (assemble 0xC8#8 d a k)
  | .smin d a b => some (assemble 0x1E#8 d a b)
  | .sminK d a k => some (assemble 0xC9#8 d a k)
  | .smax d a b => some (assemble 0x1F#8 d a b)
  | .smaxK d a k => some (assemble 0xCA#8 d a k)
  | .scmp c q a b => some (assemble 0x20#8 (0#1 ++ c ++ 0#1 ++ q) a b)
  | .scmpK c q a k => some (assemble 0xCB#8 (0#1 ++ c ++ 0#1 ++ q) a k)
  | .ssel d n b => some (assemble 0x21#8 d (0#5 ++ n) b)
  | .sselK d n k => some (assemble 0xCC#8 d (0#5 ++ n) k)
  | .smov d b => some (assemble 0x22#8 d 0#8 b)
  | .smovK d k => some (assemble 0xCD#8 d 0#8 k)
  | .sadd64 d a b => some (assemble 0x23#8 d a b)
  | .sadd64K d a k => some (assemble 0xCE#8 d a k)
  | .sbfe d a b => some (assemble 0x24#8 d a b)
  | .sbfeK d a k => some (assemble 0xCF#8 d a k)
  | .spopc d a => some (assemble 0x25#8 d a 0#8)
  | .vadd d a b => some (assemble 0x28#8 d a b)
  | .vaddK d a k => some (assemble 0xD1#8 d a k)
  | .vsub d a b => some (assemble 0x29#8 d a b)
  | .vsubK d a k => some (assemble 0xD2#8 d a k)
  | .vmul d a b => some (assemble 0x2A#8 d a b)
  | .vmulK d a k => some (assemble 0xD3#8 d a k)
  | .vmulh d a b => some (assemble 0x2B#8 d a b)
  | .vmad d a b => some (assemble 0x2C#8 d a b)
  | .vmadK d a k => some (assemble 0xD4#8 d a k)
  | .vand d a b => some (assemble 0x2D#8 d a b)
  | .vandK d a k => some (assemble 0xD5#8 d a k)
  | .vor d a b => some (assemble 0x2E#8 d a b)
  | .vorK d a k => some (assemble 0xD6#8 d a k)
  | .vxor d a b => some (assemble 0x2F#8 d a b)
  | .vxorK d a k => some (assemble 0xD7#8 d a k)
  | .vshl d a b => some (assemble 0x30#8 d a b)
  | .vshlK d a k => some (assemble 0xD8#8 d a k)
  | .vshr d a b => some (assemble 0x31#8 d a b)
  | .vshrK d a k => some (assemble 0xD9#8 d a k)
  | .vsra d a b => some (assemble 0x32#8 d a b)
  | .vsraK d a k => some (assemble 0xDA#8 d a k)
  | .vmin d a b => some (assemble 0x33#8 d a b)
  | .vminK d a k => some (assemble 0xDB#8 d a k)
  | .vmax d a b => some (assemble 0x34#8 d a b)
  | .vmaxK d a k => some (assemble 0xDC#8 d a k)
  | .vabs d a => some (assemble 0x35#8 d a 0#8)
  | .vneg d a => some (assemble 0x36#8 d a 0#8)
  | .vbfe d a b => some (assemble 0x37#8 d a b)
  | .vbfeK d a k => some (assemble 0xDD#8 d a k)
  | .vbfi d a b => some (assemble 0x38#8 d a b)
  | .vbfiK d a k => some (assemble 0xDE#8 d a k)
  | .vpopc d a => some (assemble 0x39#8 d a 0#8)
  | .vclz d a => some (assemble 0x3A#8 d a 0#8)
  | .vcmp c p a b => some (assemble 0x3B#8 (0#1 ++ c ++ 0#1 ++ p) a b)
  | .vcmpK c p a k => some (assemble 0xDF#8 (0#1 ++ c ++ 0#1 ++ p) a k)
  | .vsel d n b => some (assemble 0x3C#8 d (0#5 ++ n) b)
  | .vselK d n k => some (assemble 0xE0#8 d (0#5 ++ n) k)
  | .vmov d b => some (assemble 0x3D#8 d 0#8 b)
  | .vmovK d k => some (assemble 0xE1#8 d 0#8 k)
  | .fadd d a b => some (assemble 0x40#8 d a b)
  | .faddK d a k => some (assemble 0xE2#8 d a k)
  | .fsub d a b => some (assemble 0x41#8 d a b)
  | .fsubK d a k => some (assemble 0xE3#8 d a k)
  | .fmul d a b => some (assemble 0x42#8 d a b)
  | .fmulK d a k => some (assemble 0xE4#8 d a k)
  | .ffma d a b => some (assemble 0x43#8 d a b)
  | .ffmaK d a k => some (assemble 0xE5#8 d a k)
  | .fmin d a b => some (assemble 0x44#8 d a b)
  | .fminK d a k => some (assemble 0xE6#8 d a k)
  | .fmax d a b => some (assemble 0x45#8 d a b)
  | .fmaxK d a k => some (assemble 0xE7#8 d a k)
  | .fcmp c p a b => some (assemble 0x46#8 (0#1 ++ c ++ 0#1 ++ p) a b)
  | .fcmpK c p a k => some (assemble 0xE8#8 (0#1 ++ c ++ 0#1 ++ p) a k)
  | .frcp d a => some (assemble 0x47#8 d a 0#8)
  | .frsq d a => some (assemble 0x48#8 d a 0#8)
  | .fsqrt d a => some (assemble 0x49#8 d a 0#8)
  | .fexp2 d a => some (assemble 0x4A#8 d a 0#8)
  | .flog2 d a => some (assemble 0x4B#8 d a 0#8)
  | .fsin d a => some (assemble 0x4C#8 d a 0#8)
  | .fcos d a => some (assemble 0x4D#8 d a 0#8)
  | .ftanh d a => some (assemble 0x4E#8 d a 0#8)
  | .fsigm d a => some (assemble 0x4F#8 d a 0#8)
  | .cvt d a b => some (assemble 0x50#8 d a b)
  | .quant d a b => some (assemble 0x51#8 d a b)
  | .deq d a b => some (assemble 0x52#8 d a b)
  | .pack d a b => some (assemble 0x53#8 d a b)
  | .unpk d a b => some (assemble 0x54#8 d a b)
  | .lballot d a => some (assemble 0x56#8 d (0#5 ++ a) 0#8)
  | .lbcast d a b => some (assemble 0x57#8 d a b)
  | .lpush d a b => some (assemble 0x58#8 d a b)
  | .lreduce d a b => some (assemble 0x59#8 d a b)
  | .lscan d a b => some (assemble 0x5A#8 d a b)
  | .lshuf d a b => some (assemble 0x5B#8 d a b)
  | .rng d a b => some (assemble 0x5C#8 d a b)
  | .rngdrop d a b => some (assemble 0x5D#8 d a b)
  | .rngkey a b => some (assemble 0x5E#8 0#8 a b)
  | .ld8 d a b => some (assemble 0x60#8 d a b)
  | .ld8K d a k => some (assemble 0xE9#8 d a k)
  | .lds8 d a b => some (assemble 0x61#8 d a b)
  | .lds8K d a k => some (assemble 0xEA#8 d a k)
  | .ld16 d a b => some (assemble 0x62#8 d a b)
  | .ld16K d a k => some (assemble 0xEB#8 d a k)
  | .lds16 d a b => some (assemble 0x63#8 d a b)
  | .lds16K d a k => some (assemble 0xEC#8 d a k)
  | .ld32 d a b => some (assemble 0x64#8 d a b)
  | .ld32K d a k => some (assemble 0xED#8 d a k)
  | .ld64 d a b => some (assemble 0x65#8 d a b)
  | .ld64K d a k => some (assemble 0xEE#8 d a k)
  | .ld128 d a b => some (assemble 0x66#8 d a b)
  | .ld128K d a k => some (assemble 0xEF#8 d a k)
  | .st8 d a b => some (assemble 0x68#8 d a b)
  | .st8K d a k => some (assemble 0xF0#8 d a k)
  | .st16 d a b => some (assemble 0x69#8 d a b)
  | .st16K d a k => some (assemble 0xF1#8 d a k)
  | .st32 d a b => some (assemble 0x6A#8 d a b)
  | .st32K d a k => some (assemble 0xF2#8 d a k)
  | .st64 d a b => some (assemble 0x6B#8 d a b)
  | .st64K d a k => some (assemble 0xF3#8 d a k)
  | .st128 d a b => some (assemble 0x6C#8 d a b)
  | .st128K d a k => some (assemble 0xF4#8 d a k)
  | .sld32 d a b => some (assemble 0x70#8 d a b)
  | .sld32K d a k => some (assemble 0xF5#8 d a k)
  | .sld64 d a b => some (assemble 0x71#8 d a b)
  | .sld64K d a k => some (assemble 0xF6#8 d a k)
  | .sst32 d a b => some (assemble 0x72#8 d a b)
  | .sst32K d a k => some (assemble 0xF7#8 d a k)
  | .sst64 d a b => some (assemble 0x73#8 d a b)
  | .sst64K d a k => some (assemble 0xF8#8 d a k)
  | .ldl32 d a b => some (assemble 0x74#8 d a b)
  | .ldl32K d a k => some (assemble 0xF9#8 d a k)
  | .ldl64 d a b => some (assemble 0x75#8 d a b)
  | .ldl64K d a k => some (assemble 0xFA#8 d a k)
  | .ldl128 d a b => some (assemble 0x76#8 d a b)
  | .ldl128K d a k => some (assemble 0xFB#8 d a k)
  | .stl32 d a b => some (assemble 0x77#8 d a b)
  | .stl32K d a k => some (assemble 0xFC#8 d a k)
  | .stl64 d a b => some (assemble 0x78#8 d a b)
  | .stl64K d a k => some (assemble 0xFD#8 d a k)
  | .stl128 d a b => some (assemble 0x79#8 d a b)
  | .stl128K d a k => some (assemble 0xFE#8 d a k)
  | .fence k => some (assemble 0x7C#8 0#8 0#8 (0#3 ++ k))
  | .mwait a b => some (assemble 0x7D#8 0#8 a b)
  | .pref l a b => some (assemble 0x7E#8 (0#7 ++ l) a b)
  | .atadd d a b => some (assemble 0x80#8 d a b)
  | .atand d a b => some (assemble 0x81#8 d a b)
  | .atcas d a b => some (assemble 0x82#8 d a b)
  | .atfadd d a b => some (assemble 0x83#8 d a b)
  | .atmax d a b => some (assemble 0x84#8 d a b)
  | .atmin d a b => some (assemble 0x85#8 d a b)
  | .ator d a b => some (assemble 0x86#8 d a b)
  | .atxchg d a b => some (assemble 0x87#8 d a b)
  | .atxor d a b => some (assemble 0x88#8 d a b)
  | .msadd a b => some (assemble 0x89#8 0#8 a b)
  | .msmax a b => some (assemble 0x8A#8 0#8 a b)
  | .msmin a b => some (assemble 0x8B#8 0#8 a b)
  | .hnew d a => some (assemble 0x90#8 d a 0#8)
  | .hfree a => some (assemble 0x91#8 0#8 a 0#8)
  | .hupg d a => some (assemble 0x92#8 d a 0#8)
  | .hrel a => some (assemble 0x93#8 0#8 a 0#8)
  | .hprio a b => some (assemble 0x94#8 0#8 a b)
  | .vpublish d a => some (assemble 0x95#8 d a 0#8)
  | .kvx d a b => some (assemble 0x96#8 d a b)
  | .mappg a b => some (assemble 0x97#8 0#8 a b)
  | .tlbinv g l a b => some (assemble 0x98#8 (0#6 ++ g ++ l) a b)
  | .copy n b => some (assemble 0x99#8 (0#4 ++ n) 0#8 b)
  | .binit a b => some (assemble 0x9A#8 0#8 a b)
  | .bexpect a b => some (assemble 0x9B#8 0#8 a b)
  | .barrive a => some (assemble 0x9C#8 0#8 a 0#8)
  | .bwait a b => some (assemble 0x9D#8 0#8 a b)
  | .tsync => some (assemble 0x9E#8 0#8 0#8 0#8)
  | .csync => some (assemble 0x9F#8 0#8 0#8 0#8)
  | .nbar a b => some (assemble 0xA0#8 0#8 a b)
  | .mma d h r b => some (assemble 0xA1#8 d (0#1 ++ h ++ 0#5 ++ r) b)
  | .mmah d h r b => some (assemble 0xA2#8 d (0#1 ++ h ++ 0#5 ++ r) b)
  | .mdist d h r b => some (assemble 0xA3#8 d (0#1 ++ h ++ 0#5 ++ r) b)
  | .mtopk d a b => some (assemble 0xA4#8 d a b)
  | .tzero d => some (assemble 0xA5#8 d 0#8 0#8)
  | .tld d b => some (assemble 0xA6#8 d 0#8 b)
  | .tst d b => some (assemble 0xA7#8 d 0#8 b)
  | .trowmax d b => some (assemble 0xA8#8 d 0#8 b)
  | .texpsub d b => some (assemble 0xA9#8 d 0#8 b)
  | .tscale d b => some (assemble 0xAA#8 d 0#8 b)
  | .sample d b => some (assemble 0xAB#8 d 0#8 b)
  | .specacc d b => some (assemble 0xAC#8 d 0#8 b)
  | .ticket d b => some (assemble 0xAD#8 d 0#8 b)
  | .redeem d b => some (assemble 0xAE#8 d 0#8 b)
  | .tkquery d a => some (assemble 0xAF#8 d a 0#8)
  | .window d => some (assemble 0xB0#8 d 0#8 0#8)
  | .logctlEnable a => some (assemble 0xB1#8 0#8 a 0#8)
  | .logctlDisable a => some (assemble 0xB1#8 0#8 a 1#8)
  | .logctlPolicy a => some (assemble 0xB1#8 0#8 a 2#8)
  | .logctlTrim a => some (assemble 0xB1#8 0#8 a 3#8)
  | .rewind d a c f => some (assemble 0xB2#8 d a (0#6 ++ c ++ f))
  | .frd d a b => some (assemble 0xB3#8 d a b)
  | .fwr d a b => some (assemble 0xB4#8 d a b)
  | .fresume a => some (assemble 0xB5#8 0#8 a 0#8)
  | .fkill a => some (assemble 0xB6#8 0#8 a 0#8)
  | .fstep a => some (assemble 0xB7#8 0#8 a 0#8)
  | .escalate => some (assemble 0xB8#8 0#8 0#8 0#8)
  | .launch a b => some (assemble 0xB9#8 0#8 a b)
  | .markdone => some (assemble 0xBA#8 0#8 0#8 0#8)
  | .regrow d a => some (assemble 0xBB#8 (0#5 ++ d) a 0#8)
  | .regfree a => some (assemble 0xBC#8 0#8 a 0#8)
  | .reorder a b => some (assemble 0xBD#8 0#8 a b)
  | .illegalInstruction w => some w
  | .nonzeroReservedField w => some w
  | .compactRelease => none
  | .yieldResume => none
  | .mwaitWake => none
  | .memorySideApply => none
  | .copyUnitWrite => none
  | .regrowGrant => none
  | .regrowRefusal => none
  | .regfreeShrink => none
  | .reorderDeposit => none
  | .gladeRelaunch => none
  | .clauseCheck => none
  | .operationComplete => none
  | .tlbWalk => none
  | .copyOnWriteCopy => none
  | .pathPromotion => none
  | .watchdogNoprogress => none
  | .groupRetire => none
  | .qbaseWrite => none
  | .qctlWrite => none
  | .qctxWrite => none
  | .qtailWrite => none
  | .packetHeadCheck => none
  | .placementDecision => none
  | .teamStart => none
  | .gridComplete => none
  | .handlerSpawn => none
  | .escalation => none
  | .escalationTimeout => none
  | .rungTimeout => none
  | .matrixPairReset => none
  | .uncorrectableError => none
  | .poisonContainment => none
  | .linkFailure => none
  | .teamSave => none
  | .drainTimeout => none
  | .governorSample => none
  | .powerEscalation => none
  | .thermalLimit => none
  | .powerOff => none
  | .stage0 => none
  | .stage1 => none
  | .stage2 => none
  | .hostMemoryWrite => none
  | .reclaim => none
  | .objectDestruction => none
  | .profilerSample => none
  | .reverseStepComplete => none
  | .tkcfgWrite => none
  | .tkbaseWrite => none
  | .poolmarkWrite => none
  | .roleWrite => none
  | .progressWrite => none
  | .wdogWrite => none
  | .fltcfgWrite => none
  | .prethWrite => none
  | .profcfgWrite => none
  | .fpstatWrite => none
  | .registerWrite => none
  | .ident => none
  | .attest => none
  | .keyset => none
  | .seal => none
  | .unseal => none
  | .signonly => none
  | .event => none
  | .answer => none
  | .ctxregRead => none
  | .ctxregWrite => none
  | .mailboxTlbinv => none
  | .preempt => none
  | .restore => none
  | .pooladd => none
  | .objregion => none
  | .ctxkill => none
  | .attach => none
  | .detach => none
  | .setreg => none
  | .freeze => none
  | .resume => none
  | .step => none
  | .rstep => none
  | .boroiviWindow => none
  | .read => none
  | .write => none
  | .boroiviRewind => none
  | .memread => none
  | .memwrite => none
  | .hostSideCoherence => none

end Sys2Proof
end

