-- ==== Sys2Proof/Config.lean ====
section
/-! DEFINITION. What the spec leaves to the implementation: constants and free values, none of which has a body, so that
nothing can be proved of the value of any of them. -/

namespace Sys2Proof.Config

/-- Core clocks that pass on a core during the n-th step of a count, less one: the spec gives no latency (log 2). -/
opaque freeCycles : Nat → Nat → Nat

/-- A choice that the spec leaves to the device, by the free-value counter and its place: a pool frame, the order of the
lanes of one atomic issue (log 5, log 6). -/
opaque freeChoice : Nat → Nat → Nat

/-- Slot of a log ring before its entry of SEQ 1, by the ring's first frame: the spec does not say where in its ring an entry
stands (log 5). -/
opaque ringStart : Nat → Nat

/-- Bytes that a number of Glade deposits take in a save image: the body's form is the edition's own (log 5). -/
opaque depositBytes : Nat → Nat

/-- Set of the L2 in which a line stands, among the 2,048 of a slice (R16): the spec does not say which bits choose it (log 5). -/
opaque l2Set : Nat → Nat

/-- A 32-bit value that the spec leaves open, by the free-value counter (log 5). -/
opaque freeWord : Nat → BitVec 32

/-- A byte that the spec leaves open, by the free-value counter and its place (log 5). -/
opaque freeByte : Nat → Nat → BitVec 8

/-- What the fuses hold of the identity key's private half, which no software reads (R269, log 7). -/
opaque identitySeed : Nat

/-- The scalars of an attestation's signature, by the free-value counter and the attempt (R269, log 7). -/
opaque identityNonce : Nat → Nat → Nat

/-- The bytes that stand for the SIGNONLY flag under the digest of CTXHASH, whose form the spec does not give (R269, log 5). -/
opaque signonlyBytes : Bool → List (BitVec 8)

/-- SHA-256 of the running firmware image (R269). -/
opaque firmwareHash : BitVec 256

end Sys2Proof.Config
end

