-- ==== Sys2Proof/Machine/Table.lean ====
section
/-! DEFINITION. Tables: sorted lists of key and value, the one form in which the state holds registers by number,
records by key and bytes by address. What an unlisted key holds is given to each operation. -/

namespace Sys2Proof.Machine

/-- Keys strictly rising. -/
abbrev Tbl (α : Type) := List (Nat × α)

/-- The value at key `i`; `d` where no entry is listed. -/
def tget {α : Type} (d : α) : Tbl α → Nat → α
  | [], _ => d
  | (k, v) :: t, i => if i = k then v else if i < k then d else tget d t i

/-- The table with `v` at key `i`. -/
def tput {α : Type} : Tbl α → Nat → α → Tbl α
  | [], i, v => [(i, v)]
  | (k, w) :: t, i, v =>
    if i < k then (i, v) :: (k, w) :: t
    else if i = k then (i, v) :: t
    else (k, w) :: tput t i v

/-- The table with `v` at key `i`, in canonical form: the value `d` of an unlisted key is never listed. -/
def tset {α : Type} [DecidableEq α] (d : α) : Tbl α → Nat → α → Tbl α
  | [], i, v => if v = d then [] else [(i, v)]
  | (k, w) :: t, i, v =>
    if i < k then (if v = d then (k, w) :: t else (i, v) :: (k, w) :: t)
    else if i = k then (if v = d then t else (i, v) :: t)
    else (k, w) :: tset d t i v

/-- The table without key `i`. -/
def terase {α : Type} (t : Tbl α) (i : Nat) : Tbl α := t.filter fun e => e.1 != i

/-- Whether key `i` is listed. -/
def thas {α : Type} (t : Tbl α) (i : Nat) : Bool := t.any fun e => e.1 == i

/-- Every key of the table is above `n`, keys rise, and no entry holds `d`. -/
def twf {α : Type} [DecidableEq α] (d : α) : Tbl α → Bool
  | [] => true
  | [(_, v)] => decide (v ≠ d)
  | (k, v) :: (k', v') :: t => decide (v ≠ d) && decide (k < k') && twf d ((k', v') :: t)

/-- Store consecutive values from key `i` upward. -/
def tputAll {α : Type} (t : Tbl α) (i : Nat) : List α → Tbl α
  | [] => t
  | v :: vs => tputAll (tput t i v) (i + 1) vs

/-- Apply an update for each element of a list, in order. -/
def forAll {α σ : Type} (xs : List α) (s : σ) (f : σ → α → σ) : σ := xs.foldl f s

/-- The numbers of the set bits of a 32-bit mask, ascending. -/
def lanesOf (m : BitVec 32) : List Nat := (List.range 32).filter fun i => m.getLsbD i

/-- The mask whose set bits are the given lanes. -/
def maskOf (ls : List Nat) : BitVec 32 := ls.foldl (fun m i => m ||| (1#32 <<< i)) 0#32

/-- Bits [hi:lo] of a word as a number (R9). -/
def fld {n : Nat} (w : BitVec n) (hi lo : Nat) : Nat := (w.toNat / 2 ^ lo) % 2 ^ (hi - lo + 1)

/-- Bit i of a word. -/
def bit {n : Nat} (w : BitVec n) (i : Nat) : Bool := w.getLsbD i

/-- A word with bit i set to b. -/
def setBit {n : Nat} (w : BitVec n) (i : Nat) (b : Bool) : BitVec n :=
  if b then w ||| (1#n <<< i) else w &&& ~~~(1#n <<< i)

/-- The number whose bytes are given, lowest first (R4). -/
def natOfBytes : List Byte → Nat
  | [] => 0
  | b :: bs => b.toNat + 256 * natOfBytes bs

/-- The n bytes of a number, lowest first (R4). -/
def bytesOfNat : Nat → Nat → List Byte
  | 0, _ => []
  | n + 1, x => BitVec.ofNat 8 x :: bytesOfNat n (x / 256)

/-- A 64-bit value from its even and odd halves (R4). -/
def dword (lo hi : Word) : DWord := hi ++ lo

/-- The even half of a 64-bit value. -/
def loWord (x : DWord) : Word := x.extractLsb' 0 32

/-- The odd half of a 64-bit value. -/
def hiWord (x : DWord) : Word := x.extractLsb' 32 32

/-- The word at index i of a list; zero past its end. -/
def wordAt (ws : List Word) (i : Nat) : Word := ws.getD i 0#32

end Sys2Proof.Machine
end

