-- ==== Sys2Proof/Machine/State.lean ====
section
/-! DEFINITION. The state of the machine: everything the spec gives the A960, as plain data.

Tables are keyed by number. A GROUP SLOT of the device has the key core × 64 + partition × 16 + slot; a handler slot has
the key 6144 + core × 4 + pool slot. A TEAM has the key context × 2^22 + TID. -/

namespace Sys2Proof.Machine

/-- Why the machine stops with a fault. These are no faults of the A960, whose stops are next states. -/
inductive Fault where
  /-- an instruction word was executed with no path issuing it, or with no group in the issuing slot. Raised by every
  instruction meaning. Safe: no step of the machine does this. -/
  | noIssuingPath
  /-- the head of the input list is an instruction word, which only a path can issue. Raised by the step. Safe. -/
  | inputIsNoEvent
  deriving DecidableEq, Repr

/-- Why a step has no meaning. -/
inductive Refusal where
  /-- the instruction has no meaning in this model yet. Raised by the dispatch. Safe. -/
  | notModelled (mnemonic : String)
  deriving DecidableEq, Repr

/-- Causes of a stop (R174). -/
inductive Cause where
  | illegalInstruction | illegalOperand | illegalMode | clauseFormat | hazard | uniformHint | misaligned
  | pageNotPresent | permission | invalidAddress | deadStrong | poison | trap | breakpoint | watchpoint | step
  | noProgress | logFull | handlerFault
  deriving DecidableEq, Repr

/-- State of a path-table entry (R30). -/
inductive PState where
  | empty | ready | flagwait | barwait | regang | yielded | frozen | stepping
  deriving DecidableEq, Repr

/-- Who froze a FROZEN entry: decides who may resume it. -/
inductive Freezer where
  /-- not frozen -/
  | nobody
  /-- a stop (R34) -/
  | stop
  /-- the debugger (R266) -/
  | debugger
  /-- the management core, for an escalation or a context-wide snapshot (R184) -/
  | management
  /-- a rewind that is not complete, for as long as its target is not quiet (R202) -/
  | rewind
  /-- a rewind that was accepted: its handler resumes the path, or the handler's end does (R204) -/
  | rewound
  /-- a rung of the compatibility ladder, for its handler (R185) -/
  | ladder
  deriving DecidableEq, Repr

/-- What a path that is not READY waits for. -/
inductive Wait where
  | nothing
  /-- the WAIT mask of its clause (R57) -/
  | clauseFlags
  /-- WAITF: flag at most n -/
  | flag (w n : Nat)
  | tsync
  | csync
  | nbar (k : Nat)
  | compact
  /-- WINDOW, its destination register -/
  | window (d : Nat)
  /-- BWAIT: team and offset of the object, the phase awaited -/
  | object (team off : Nat) (phase : Word)
  /-- MWAIT: the armed 128-byte lines -/
  | monitor (lines : List Nat)
  /-- REGROW: destination predicate, size asked -/
  | regrow (q n : Nat)
  /-- REGFREE: size asked -/
  | regfree (n : Nat)
  /-- REORDER: key register, payload base, depositing lanes -/
  | reorder (key base : Nat) (lanes : BitVec 32)
  /-- a handler's FSTEP of these lanes that has not completed -/
  | fstep (lanes : BitVec 32)
  /-- the address in YIELDED: nothing more than the flag -/
  | yield
  /-- a stepped instruction has completed (R293) -/
  | stepped
  deriving DecidableEq, Repr

/-- A translation as a TLB or a last-page register holds it (R117). -/
structure Xlat where
  ctx   : Nat
  /-- virtual address bits [54:16] -/
  page  : Nat
  leaf  : DWord
  /-- physical address of the leaf entry -/
  slot  : Nat
  /-- a 512 MiB page -/
  large : Bool
  deriving DecidableEq, Repr

/-- One lane of a group. -/
structure Lane where
  v         : Tbl Word := []
  vPend     : BitVec 128 := 0
  vPoison   : BitVec 128 := 0
  /-- registers written since the group's reuse latch was set (R225) -/
  vWritten  : BitVec 128 := 0
  p         : BitVec 8 := 1
  pPend     : BitVec 8 := 0
  pPoison   : BitVec 8 := 0
  fpstat    : BitVec 5 := 0
  sridx     : Word := 0
  rcnt      : Word := 0
  lastPage  : Option Xlat := none
  cause     : Option Cause := none
  faultAddr : DWord := 0
  /-- R186: by barrier index 0 to 17; 0 not arrived, 1 arrived, 2 withdrawn -/
  marks     : Tbl (BitVec 2) := []
  deriving DecidableEq, Repr

/-- The words of a clause as its check fetched them (R47, R52). -/
structure Clause where
  header : Word
  words  : List Word
  lits   : List Word
  deriving DecidableEq, Repr

/-- One entry of a path table (R30). -/
structure Path where
  state    : PState := .empty
  warg     : BitVec 4 := 0
  mask     : BitVec 32 := 0
  mode     : Word := 0
  pc       : DWord := 0
  clhdr    : DWord := 0
  /-- the checked clause; none where the next issue checks (R50, R53) -/
  clause   : Option Clause := none
  /-- the path was frozen, or off its core, within its clause: it checks the clause again when it goes on (R52, R53) -/
  recheck  : Bool := false
  wait     : Wait := .nothing
  /-- the mask of a REGANG as read on arrival (R35) -/
  expected : BitVec 32 := 0
  cycleh   : Word := 0
  /-- R172: smaller is older -/
  age      : Nat := 0
  promoted : Bool := false
  /-- cycles eligible without issuing (R44) -/
  waited   : Nat := 0
  /-- reason code of R213 while the next word is held back, and whether it is tried again -/
  held     : BitVec 5 := 0
  retry    : Bool := false
  /-- context and page of each copy-on-write for which it is held back (R131) -/
  wants    : List (Nat × Nat) := []
  freezer  : Freezer := .nobody
  /-- clock of the model at which the path froze: a capability reaches what was frozen as it was given (R179) -/
  since    : Nat := 0
  /-- the rung that a stop has reached on the ladder (R185) -/
  rung     : Nat := 0
  /-- the management core, the debugger, holds the path too, which had been frozen before (R184, R266) -/
  mgmtHeld : Bool := false
  dbgHeld  : Bool := false
  /-- the state before the freeze, where the management core or the debugger froze the path -/
  before   : PState := .empty
  tcode    : BitVec 8 := 0
  /-- breakpoints at which the path has stopped before the word at PC (R209) -/
  passed   : BitVec 16 := 0
  /-- who stepped the path, where it was frozen while STEPPING -/
  stepper  : Freezer := .nobody
  /-- scope of a release fence whose first later write has not issued (R135) -/
  relFence : Option Nat := none
  deriving DecidableEq, Repr

/-- The capability of a handler (R179). -/
structure HCap where
  /-- key of the frozen group -/
  group    : Nat
  /-- order of placement of that group, which tells it from a later one in its slot -/
  gen      : Nat := 0
  /-- clock of the model at which the capability was given -/
  given    : Nat := 0
  path     : Nat
  mask     : BitVec 32
  summary  : Nat
  depth    : Nat := 1
  rung     : Nat := 7
  hnd      : Bool := false
  wide     : Bool := false
  rewind   : Bool := false
  map      : Bool := false
  tcode    : BitVec 8 := 0
  /-- core and slot of the frozen team, and its team key -/
  core     : Nat
  tslot    : Nat
  team     : Nat
  gid      : Nat
  causes   : Tbl (BitVec 8) := []
  /-- a rewind it made left the team (1) or the teams of the context (2) frozen (R204) -/
  rewound  : Nat := 0
  /-- cycles since the handler was spawned, for the rung time-out (R185) -/
  elapsed  : Nat := 0
  deriving DecidableEq, Repr

/-- A group slot (R27 to R31). -/
structure Group where
  /-- holds a group -/
  used    : Bool := false
  ctx     : Nat := 0
  /-- key of its team; for a handler, of the team it acts for -/
  team    : Nat := 0
  gid     : Nat := 0
  window  : Nat := 32
  prio    : Nat := 0
  role    : BitVec 3 := 0
  replay  : Bool := false
  lanes   : Tbl Lane := []
  s       : Tbl Word := []
  sPend   : BitVec 128 := 0
  sPoison : BitVec 128 := 0
  q       : BitVec 8 := 1
  w       : Tbl (BitVec 6) := []
  paths   : Tbl Path := []
  remap   : List (BitVec 5) := (List.range 32).map (BitVec.ofNat 5)
  seed    : Tbl DWord := []
  stream  : Tbl Word := []
  lflags  : BitVec 5 := 0
  /-- R225: the run held by the reuse latch, v0 or v64 -/
  latch   : Option Bool := none
  /-- some for a handler group -/
  hcap    : Option HCap := none
  /-- order of placement on the partition (R42) -/
  placed  : Nat := 0
  deriving DecidableEq, Repr

/-- A reorder descriptor (R38, R160). -/
structure Reorder where
  entry : DWord
  n     : Nat
  regs  : Nat
  role  : BitVec 3
  mode  : Word
  deriving DecidableEq, Repr

/-- A deposit in the Glade (R37). -/
structure Deposit where
  team    : Nat
  key     : Word
  payload : List Word
  prio    : Nat
  replay  : Bool
  deriving DecidableEq, Repr

/-- Where a team stands. -/
inductive TStage where
  /-- no team -/
  | none
  /-- placed; its start state is not complete (R163) -/
  | placed
  /-- running -/
  | started
  /-- off its core in a save image (R189) -/
  | saved
  /-- exited (R287) -/
  | exited
  /-- killed or failed (R164) -/
  | failed
  deriving DecidableEq, Repr

/-- A team (R27). -/
structure Team where
  stage     : TStage := .none
  ctx       : Nat := 0
  tid       : Nat := 0
  /-- key of its grid -/
  grid      : Nat := 0
  x         : Nat := 0
  y         : Nat := 0
  z         : Nat := 0
  core      : Nat := 0
  slot      : Nat := 0
  /-- position in the cluster, its shape, and the origin core -/
  pos       : Nat := 0
  cw        : Nat := 1
  ch        : Nat := 1
  origin    : Nat := 0
  idem      : Bool := false
  replay    : Bool := false
  /-- bytes of scratchpad (R119) -/
  scratch   : Nat := 0
  pad       : Tbl Byte := []
  padPoison : Tbl Bool := []
  /-- tile registers held (R216) -/
  tiles     : Nat := 0
  /-- element (row, col) of tile k at k × 6144 + row × 48 + col -/
  el        : Tbl Word := []
  /-- row state of tile k at k × 128 + row -/
  rowMax    : Tbl Word := []
  rowSum    : Tbl Word := []
  tV        : BitVec 16 := 0
  tD        : BitVec 16 := 0
  tF        : BitVec 16 := 0
  tP        : BitVec 16 := 0
  /-- poison of a tile's row state (R340) -/
  rowP      : BitVec 16 := 0
  /-- R326: cycles of the estimate, 0 for none -/
  progress  : Nat := 0
  /-- cycles resident (R188) on its core, and on cores that it has left -/
  resident  : Nat := 0
  resided   : Nat := 0
  /-- deposits in the Glade that are still to be relaunched, since the team had no live lane outside (R38) -/
  rest      : Nat := 0
  /-- the watchdog's counter (R45) -/
  idle      : Nat := 0
  logwin    : Word := 0xFFFFFFFF
  /-- SEQ of the log when the team last published (R203) -/
  pubseq    : Nat := 0
  published : Bool := false
  reorder   : Option Reorder := none
  /-- mask that the first arrival of a named barrier's phase fixed (R311) -/
  nbarMask  : Tbl (BitVec 8) := []
  /-- cycles since a drain began (R188) -/
  drain     : Option Nat := none
  doneBit   : Bool := false
  /-- SEQ of its context's log as it was placed, as it started and as it exited (R202) -/
  placedSeq  : Nat := 0
  startedSeq : Nat := 0
  exitedSeq  : Nat := 0
  deriving DecidableEq, Repr

/-- Where the byte that an access reaches stands. -/
inductive Loc where
  /-- device memory, physical address -/
  | dev (pa : Nat)
  /-- host memory behind a HOST page -/
  | host (pa : Nat)
  /-- a team's scratchpad -/
  | pad (team off : Nat)
  /-- a team's accumulator window (R121) -/
  | acc (team off : Nat)
  /-- a lost DRAFT frame (R114) -/
  | lost
  /-- an object that is gone, through a weak address (R124) -/
  | gone
  deriving DecidableEq, Repr

/-- A register write that lands when its operation completes (R58). -/
inductive Dest where
  | vreg (lane reg : Nat) (val : Word) (poison : Bool)
  | pred (lane reg : Nat) (val poison : Bool)
  | sreg (reg : Nat) (val : Word) (poison : Bool)
  deriving DecidableEq, Repr

/-- A memory-side update waiting at its home stack (R149). -/
structure MsUpdate where
  loc   : Loc
  /-- 0 MSADD, 1 MSMAX, 2 MSMIN -/
  kind  : Nat
  etype : Nat
  val   : DWord
  lane  : Nat
  deriving DecidableEq, Repr

/-- A write that is made and not yet performed for every path (R141): the paths that have not seen it may still read the bytes
that stood there. It ends with the operation that makes it. -/
structure Shadow where
  id     : Nat
  /-- the operation in flight that makes the write -/
  op     : Nat
  /-- its kind in a fence's mask (R140): 2 wr, 8 eng, 16 lcl -/
  kind   : Nat := 2
  loc    : Loc
  /-- the bytes before the write -/
  old    : List Byte
  /-- its event is detached: nothing but a flag, a fence or its completion orders it (R132) -/
  detached : Bool
  /-- it is the write of an atomic pair, which nothing parts from the write that the pair read (R145) -/
  pair     : Bool := false
  /-- group, generation and path-table entry of the paths that have not seen it -/
  unseen : List (Nat × Nat × Nat)
  deriving DecidableEq, Repr

/-- A release recorded at the location it wrote (R135 to R137). -/
structure Rel where
  loc   : Loc
  bytes : Nat
  /-- its group, that group's team, and its scope -/
  group : Nat
  team  : Nat
  scope : Nat
  /-- the shadow of its own write -/
  own   : Nat
  /-- the shadows that the releasing path had seen, its own writes among them -/
  knows : List Nat
  /-- a write that is no atomic pair has ended its release sequence -/
  cut   : Bool := false
  deriving DecidableEq, Repr

/-- A line of the L2 (R16): device or host memory, its line number, the way that holds it, and whether it was filled as retain
(R112). -/
structure Line where
  host   : Bool
  line   : Nat
  way    : Nat
  retain : Bool
  deriving DecidableEq, Repr

/-- A 16-byte unit of a copy (R240). -/
structure CopyUnit where
  src : Loc
  dst : Loc
  /-- team and offset of the barrier object counted on -/
  bar : Option (Nat × Nat)
  deriving DecidableEq, Repr

/-- What a long-latency operation has still to do before it can complete (R56). -/
inductive Work where
  | nothing
  | copy (units : List CopyUnit)
  | memorySide (updates : List MsUpdate)
  /-- packets still to be appended to a queue (R159, R249); the second is the redeemed ticket's record -/
  | packets (q : Nat) (imgs : List (List Byte))
  /-- HFREE after the destruction point (R129) -/
  | destroy (ctx index : Nat)
  /-- a fence of these kinds, at a scope (R140) -/
  | fence (kinds scope : Nat)
  /-- MARKDONE: the done bit of the operation's team (R138, R307) -/
  | markdone
  /-- TLBINV: a page range, or the whole context; once it has dropped the translations, the operations older than `after` have still
  to be done (R342) -/
  | invalidate (ctx : Nat) (range : Option (Nat × Nat)) (global : Bool) (after : Option Nat)
  deriving DecidableEq, Repr

/-- A long-latency operation in flight (R56). -/
structure Op where
  id    : Nat
  group : Nat
  /-- generation of the group slot: the order of placement of its group -/
  gen   : Nat
  flag  : Option Nat
  /-- completed and held back in the count -/
  done  : Bool := false
  dests : List Dest := []
  /-- tile halves whose F bit it holds: team, tile -/
  tiles : List (Nat × Nat) := []
  work  : Work := .nothing
  /-- who issued it, for the log: its team's key, its GROUPID or pool slot, a handler, its lane (R194) -/
  team  : Nat := 0
  gid   : Nat := 0
  hnd   : Bool := false
  lane  : Nat := 0
  /-- the lanes of the path that issued it: what splits off the path is held by it as the path is (R140) -/
  lanes : BitVec 32 := 0
  /-- clock of the model at its issue, and the array work that it is: 1 MMA, 2 MMAH or MDIST (R193, R218) -/
  since : Nat := 0
  matrix : Nat := 0
  deriving DecidableEq, Repr

/-- Registers of a core. -/
structure Core where
  wdog     : Word := 32
  preth    : Word := 20
  profcfg  : Word := 0x00000A0C
  profbase : Word := 0
  profpos  : Word := 0
  /-- clock of the model at which the core became usable (R325) -/
  since    : Nat := 0
  tlb      : List Xlat := []
  /-- lines in the L1 data cache, most recently used first (R14, R112): twice the line number, plus 1 for host memory -/
  l1       : List Nat := []
  /-- stops waiting for a handler slot: group, path (R183) -/
  pending  : List (Nat × Nat) := []
  glade    : List Deposit := []
  /-- by partition: units that REGFREE freed and that waiting REGROWs may still take (R43) -/
  freed    : Tbl Nat := []
  /-- by partition: the slot that the profiler samples next, and the clock of the model at its last sample (R211) -/
  profNext : Tbl Nat := []
  profLast : Tbl Nat := []
  deriving DecidableEq, Repr

/-- A handler kernel (R80, R178). -/
structure HKernel where
  entry   : DWord
  regs    : Nat
  scratch : Nat
  tiles   : Nat
  deriving DecidableEq, Repr

/-- An entry of the undo log (R194, R195). -/
structure LogEntry where
  /-- 0 VOID, 1 STORE, 2 ATOMIC, 3 ENGINE, 4 IRREV, 5 OPEN, 6 SNAP, 7 DIGEST, 8 STOP -/
  kind   : Nat
  /-- 0 device memory, 1 scratchpad -/
  space  : Nat := 0
  /-- address of the chunk: physical, or the offset; the team for scratchpad -/
  addr   : Nat := 0
  padTeam : Nat := 0
  window : Word := 0
  tid    : Nat := 0
  hnd    : Bool := false
  group  : Nat := 0
  lane   : Nat := 0
  bmask  : DWord := 0
  seq    : Nat := 0
  old    : List Byte := []
  deriving DecidableEq, Repr

/-- What a snapshot or a save image holds of a team (R189, R199). -/
structure Image where
  /-- window of a snapshot; physical address of a save image -/
  at_    : Nat
  key    : Nat
  team   : Team
  groups : Tbl Group
  glade  : List Deposit := []
  /-- of a save image: bytes of header and body, and the number that its body's bytes follow (R190) -/
  size   : Nat := 0
  body   : Nat := 0
  deriving DecidableEq, Repr

/-- A seal on the CODE sections of an image (R270): the load address that SEAL was given, and each section's address and bytes. -/
structure Seal where
  load   : DWord
  ranges : List (Nat × Nat)
  frames : List Nat
  deriving DecidableEq, Repr

/-- An escalation waiting for the host's answer (R184). -/
structure Escal where
  /-- the escalated stops: team, GROUPID, path, lanes -/
  stops   : List (Nat × Nat × Nat × BitVec 32) := []
  /-- its event has entered the queue, and the cycles since -/
  queued  : Bool := true
  elapsed : Nat := 0
  deriving DecidableEq, Repr

/-- A pre-emption, or the saves of an escalation, under way (R188, R268). -/
structure Saving where
  /-- teams still to be taken off: team, and 0 DRAIN, 1 FLUSH, 2 SAVE -/
  waiting : List (Nat × Nat) := []
  /-- offset in the save area of the next image -/
  next    : Nat := 65536
  /-- directory: offset, size -/
  dir     : List (Nat × Nat) := []
  drained : Nat := 0
  flushed : Nat := 0
  /-- a mailbox command waits for its end -/
  mailbox : Bool := false
  deriving DecidableEq, Repr

/-- What a redeemed ticket still holds (R250). -/
structure Redeemed where
  entry    : Nat
  queue    : Nat
  /-- the operation that appends its packets -/
  op       : Nat
  /-- packet numbers of the forward and the backward grid, once appended -/
  fwdNo    : Option Nat := none
  bwdNo    : Option Nat := none
  holds    : List DWord
  /-- activation digest to be checked: address, length, digest -/
  digest   : Option (DWord × Nat × DWord) := none
  deriving DecidableEq, Repr

/-- A reverse step (R205): the lanes named, the RCNT that each is to reach, the RCNT of the original stop, and the digests taken
there (R207). -/
structure Replay where
  team    : Nat
  gid     : Nat
  lanes   : BitVec 32
  targets : Tbl Word
  origs   : Tbl Word
  digests : List LogEntry
  /-- windows that the team has still to open again before its counts are those of the stop -/
  passes  : Nat := 0
  /-- re-execution towards the targets is under way -/
  running : Bool := true
  deriving DecidableEq, Repr

/-- A context. -/
structure Ctx where
  ptroot    : Word := 0
  objtab    : Word := 0
  fltcfg    : Word := 0
  tkbase    : Word := 0
  tkcfg     : Word := 10
  tkseq     : Nat := 1
  logbase   : Word := 0
  logheld   : Word := 0
  logcfg    : Word := 0
  logEn     : Bool := false
  logStop   : Bool := false
  /-- oldest first -/
  ring      : List LogEntry := []
  seq       : Nat := 0
  /-- SEQ of each window's OPEN entry, and the last write of each page by each lane: page, TID, lane, SEQ (R206). Both outlast the entries
  themselves, which the ring may drop -/
  opened    : Tbl Nat := []
  dirtied   : List (Nat × Nat × Nat × Nat) := []
  /-- by TID × 16 + GROUPID: the SEQs around the digests of the group's last debugger stop (R207) -/
  stopAt    : Tbl (Nat × Nat) := []
  nextWin   : Word := 1
  snaps     : List Image := []
  nextTid   : Nat := 1
  objBase   : DWord := 0
  objSize   : DWord := 0
  /-- object ranges in use: first page, pages, index -/
  ranges    : List (Nat × Nat × Nat) := []
  /-- indices freed, oldest first (R125); an index never used has been free longer and is taken first, ascending -/
  freed     : List Nat := []
  nextIndex : Nat := 0
  handlers  : Tbl HKernel := []
  attached  : Bool := false
  bpaddr    : Tbl DWord := []
  bpctl     : Tbl Word := []
  bptid     : Tbl Word := []
  bpmask    : Tbl Word := []
  wpaddr    : Tbl DWord := []
  wpctl     : Tbl Word := []
  wptid     : Tbl Word := []
  wpmask    : Tbl Word := []
  keys      : Tbl (BitVec 256) := []
  signonly  : Bool := false
  seals     : List Seal := []
  suspended : Bool := false
  saveArea  : Option (Nat × Nat) := none
  images    : List Image := []
  saving    : Option Saving := none
  escal     : Option Escal := none
  /-- saved teams that an answered escalation is still to place, and the stops of theirs whose lanes then resume (R184) -/
  homing    : List Nat := []
  resuming  : List (Nat × Nat × Nat × BitVec 32) := []
  redeemed  : List Redeemed := []
  /-- SEQ at which the context last published by a release at system scope or a LAUNCH into a host-owned queue (R203) -/
  sysPub    : Nat := 0
  rstep     : Option Replay := none
  deriving DecidableEq, Repr

/-- The registers of a launch queue and the distributor's view of it (R156). -/
structure Queue where
  base    : DWord := 0
  baseLo  : Word := 0
  ctl     : Word := 0x00100004
  ctx     : Word := 0
  head    : Word := 0
  tail    : Word := 0
  age     : BitVec 8 := 0
  blocked : Bool := false
  err     : Bool := false
  /-- key of the grid whose packet is the head, once accepted -/
  grid    : Option Nat := none
  /-- cores reserved for the head (R171) -/
  reserved : List Nat := []
  deriving DecidableEq, Repr

/-- A dependence record (R161). -/
structure Dep where
  kind : Nat := 0
  rw   : Nat := 0
  rh   : Nat := 0
  sx   : Nat := 0
  sy   : Nat := 0
  pbm  : DWord := 0
  deriving DecidableEq, Repr

/-- A launch packet with its kernel record (R160). -/
structure Packet where
  type     : Nat := 1
  flags    : BitVec 8 := 0
  regs     : Nat := 32
  tiles    : Nat := 0
  groups   : Nat := 1
  cw       : Nat := 1
  ch       : Nat := 1
  vector   : Nat := 0
  entry    : DWord := 0
  xm1      : Nat := 0
  ym1      : Nat := 0
  zm1      : Nat := 0
  scratch  : Nat := 0
  roles    : DWord := 0
  progress : Nat := 0
  affinity : DWord := 0
  args     : DWord := 0
  dep0     : Dep := {}
  dep1     : Dep := {}
  bitmap   : DWord := 0
  compl    : DWord := 0
  krec     : DWord := 0
  sdaddr   : DWord := 0
  sdsize   : Nat := 0
  reorder  : Option Reorder := none
  deriving DecidableEq, Repr

/-- A grid in flight. -/
structure Grid where
  ctx     : Nat
  queue   : Nat
  /-- packet number, and the queue's priority when it was accepted -/
  no      : Nat
  prio    : Nat
  packet  : Packet
  /-- the next cluster to be offered, in order; clusters passed over -/
  next    : Nat := 0
  passed  : List Nat := []
  /-- clusters returned unstarted, with the positions that were (R188, R204) -/
  returned : List (Nat × List Nat) := []
  /-- teams exited, failed, and failed unrun because of a dependence -/
  exited  : Nat := 0
  failed  : Nat := 0
  unrun   : Nat := 0
  window  : Word := 0xFFFFFFFF
  openSeq : Nat := 0
  complete : Bool := false
  deriving DecidableEq, Repr

/-- Operands of an event (see `Event`): what it is about and what it brings. -/
structure Args where
  a    : Nat := 0
  b    : Nat := 0
  c    : Nat := 0
  d    : Nat := 0
  v    : DWord := 0
  data : List Byte := []
  deriving DecidableEq, Repr

/-- An event of the part: a row of the opcode table that is no instruction word, with its operands. -/
structure Event where
  what : Instr
  args : Args := {}
  deriving DecidableEq, Repr

/-- What the loader and system software do with an image, by ways that the spec does not give (log 8). -/
inductive Loading where
  /-- the `.object` sections of an image file become objects of a context (R79) -/
  | objects (ctx : Nat) (file : List Byte)
  /-- a loaded image is unloaded, and gives up its objects (R79) -/
  | unload (ctx : Nat) (objects : List DWord)
  /-- system software names an image, whose sections stand at these addresses, as the handler image of a context (R80) -/
  | handlers (ctx : Nat) (file : List Byte) (bases : List DWord)
  deriving DecidableEq, Repr

/-- A pipe of a partition (R13). -/
inductive Pipe where
  /-- vector arithmetic: VA, and VB beside it -/
  | va | vb
  | u | m
  /-- the fetch of a clause -/
  | fetch
  deriving DecidableEq, Repr

/-- The path that issues: key of its group, index in the path table. -/
structure PathRef where
  group : Nat
  path  : Nat
  deriving DecidableEq, Repr

/-- The management core's host-visible registers (R259 to R265). -/
structure Mgmt where
  stage    : Nat := 0
  /-- the firmware has been verified (R261) -/
  booted   : Bool := false
  fail     : Nat := 0
  dies     : Nat := 0
  throt    : Bool := false
  sealw    : Bool := false
  mbcmd    : Word := 0
  busy     : Bool := false
  status   : BitVec 8 := 0
  evcfg    : Word := 0
  winbase  : DWord := 0
  buffer   : Tbl Byte := []
  /-- the buffer as the command under way found it (R262) -/
  operands : Option (Tbl Byte) := none
  events   : List (List Byte) := []
  /-- escalations and debugger records held while the queue is full (R265) -/
  heldEvents : List (List Byte) := []
  lost     : Nat := 0
  evseq    : Nat := 1
  /-- the TLBINV under way waits for the operations older than this one (R118) -/
  tlbAfter : Option Nat := none
  /-- MSI-X vectors signalled, oldest first -/
  msix     : List Nat := []
  mhz      : Nat := 1750
  /-- milliseconds in a row below 2,300 W, and above budget at 1000 MHz (R25, R272) -/
  cool     : Nat := 0
  hot      : Nat := 0
  deriving DecidableEq, Repr

/-- The machine. -/
structure State where
  /-- inputs from outside, oldest first -/
  inbox    : List Event := []
  /-- what the loader and system software do, oldest first -/
  loads    : List Loading := []
  /-- events the device owes itself, oldest first -/
  agenda   : List Event := []
  /-- operands of the event being executed -/
  ev       : Args := {}
  /-- the path issuing -/
  cur      : Option PathRef := none
  groups   : Tbl Group := []
  teams    : Tbl Team := []
  cores    : Tbl Core := []
  ctxs     : Tbl Ctx := []
  queues   : Tbl Queue := []
  grids    : Tbl Grid := []
  ops      : List Op := []
  /-- byte of device memory by physical address; unlisted bytes read 0 (log 4) -/
  mem      : List Host.Cell := []
  memPoison : Tbl Bool := []
  /-- host memory behind HOST pages -/
  hmem     : List Host.Cell := []
  /-- what the bytes of each save image mean, oldest first: an image outlives its team and the power (R190, R272, log 32) -/
  saves    : List Image := []
  lost     : Tbl Bool := []
  sealed   : Tbl Bool := []
  /-- second-level TLB by die -/
  dieTlb   : Tbl (List Xlat) := []
  /-- free frames of the device-local pool: first frame, count -/
  pool     : List (Nat × Nat) := []
  poolmark : Word := 0x08000400
  birth    : Nat := 1
  /-- releases recorded by 128-byte line: line, team (R203) -/
  released : List (Nat × Nat) := []
  /-- lines in the L2, most recently used first within a set (R16, R17) -/
  l2       : List Line := []
  /-- writes made and not yet performed for every path, and the releases that order them (R135, R141) -/
  shadows  : List Shadow := []
  rels     : List Rel := []
  /-- Coppice is reclaiming, until this many frames and the high mark are reached (R127) -/
  coppice  : Option Nat := none
  /-- context and page of each copy-on-write for which the pool lacks a frame, in the word at hand (see `throughPage`) -/
  lacks    : List (Nat × Nat) := []
  host     : Mgmt := {}
  nextOp   : Nat := 0
  nextShadow : Nat := 0
  /-- the issues of the present clock: path and pipe, and as `fetch` the paths that came to their turn without issuing a word (R172) -/
  turn     : List (PathRef × Pipe) := []
  /-- steps in a row in which a path issued while the agenda waited, and the other way round (R44, R147) -/
  passedBy : Nat := 0
  keptOff  : Nat := 0
  /-- events taken before the agenda's first -/
  overtaken : Nat := 0
  nextGrid : Nat := 0
  clock    : Nat := 0
  /-- the model's counter of free values -/
  free     : Nat := 0
  deriving DecidableEq, Repr

/-- The machine right after reset: stage 0, nothing resident, no packet, memory with nothing listed. -/
def State.reset : State := {}

/-- A lane that launch creates (R163). -/
def Lane.fresh : Lane := {}

/-- What an unlisted byte of memory reads as (log 4). -/
def unwritten : Byte := 0

/-- The canonical form of a memory, whose keys are physical addresses. -/
abbrev Memory.wf (m : List Host.Cell) : Bool := twf unwritten m

end Sys2Proof.Machine
end

