-- ==== Sys2Proof/Machine/Ops.lean ====
section
/-! DEFINITION. The named operations over the state: records and registers, how a path moves (R47 to R53), how lanes stop
and how a stop is taken (R34, R173 to R176), how a frozen entry is resumed (R181), and how one word issues (R64, R65). -/

namespace Sys2Proof.Machine

/-- What executing an instruction answers. -/
abbrev Res := Host.Outcome State Fault Refusal

/-! Records by key. -/

/-- The group slot with key `k`. -/
def State.group (s : State) (k : Nat) : Group := tget {} s.groups k
/-- Replace a group slot. -/
def State.setGroup (s : State) (k : Nat) (g : Group) : State := { s with groups := tput s.groups k g }
/-- Change a group slot. -/
def State.updGroup (s : State) (k : Nat) (f : Group → Group) : State := s.setGroup k (f (s.group k))
/-- The team with key `t`. -/
def State.team (s : State) (t : Nat) : Team := tget {} s.teams t
/-- Replace a team. -/
def State.setTeam (s : State) (t : Nat) (x : Team) : State := { s with teams := tput s.teams t x }
/-- Change a team. -/
def State.updTeam (s : State) (t : Nat) (f : Team → Team) : State := s.setTeam t (f (s.team t))
/-- The registers of core `c`. -/
def State.core (s : State) (c : Nat) : Core := tget {} s.cores c
/-- Change a core. -/
def State.updCore (s : State) (c : Nat) (f : Core → Core) : State := { s with cores := tput s.cores c (f (s.core c)) }
/-- The context `c`. -/
def State.ctx (s : State) (c : Nat) : Ctx := tget {} s.ctxs c
/-- Change a context. -/
def State.updCtx (s : State) (c : Nat) (f : Ctx → Ctx) : State := { s with ctxs := tput s.ctxs c (f (s.ctx c)) }
/-- Launch queue `q`. -/
def State.queue (s : State) (q : Nat) : Queue := tget {} s.queues q
/-- Change a queue. -/
def State.updQueue (s : State) (q : Nat) (f : Queue → Queue) : State :=
  { s with queues := tput s.queues q (f (s.queue q)) }
/-- The grid with key `n`, where one is listed. -/
def State.grid? (s : State) (n : Nat) : Option Grid := (s.grids.find? fun e => e.1 == n).map (·.2)
/-- Change a grid that is listed. -/
def State.updGrid (s : State) (n : Nat) (f : Grid → Grid) : State :=
  match s.grid? n with
  | some g => { s with grids := tput s.grids n (f g) }
  | none => s
/-- Change the management core's registers. -/
def State.updHost (s : State) (f : Mgmt → Mgmt) : State := { s with host := f s.host }

/-- Core of a group or handler slot (R11, R178). -/
def coreOf (k : Nat) : Nat := if k < 6144 then k / 64 else (k - 6144) / 4
/-- Partition of a group or handler slot. -/
def partOf (k : Nat) : Nat := if k < 6144 then k / 16 % 4 else (k - 6144) % 4
/-- Key of a handler slot of a core (R178). -/
def handlerKey (core slot : Nat) : Nat := 6144 + core * 4 + slot
/-- Key of the team TID of a context (R194). -/
def teamKey (ctx tid : Nat) : Nat := ctx * 4194304 + tid
/-- A group holds a handler thread (R178). -/
def Group.isHandler (g : Group) : Bool := g.hcap.isSome

/-- Lane `l` of a group, by virtual lane. -/
def Group.lane (g : Group) (l : Nat) : Lane := tget {} g.lanes l
/-- Change one lane. -/
def Group.updLane (g : Group) (l : Nat) (f : Lane → Lane) : Group := { g with lanes := tput g.lanes l (f (g.lane l)) }
/-- Entry `i` of the path table (R29). -/
def Group.path (g : Group) (i : Nat) : Path := tget {} g.paths i
/-- Replace a path-table entry. -/
def Group.setPath (g : Group) (i : Nat) (p : Path) : Group := { g with paths := tput g.paths i p }
/-- Change a path-table entry. -/
def Group.updPath (g : Group) (i : Nat) (f : Path → Path) : Group := g.setPath i (f (g.path i))
/-- The path that `r` names. -/
def State.path (s : State) (r : PathRef) : Path := (s.group r.group).path r.path
/-- Change the path that `r` names. -/
def State.updPath (s : State) (r : PathRef) (f : Path → Path) : State :=
  s.updGroup r.group fun g => g.updPath r.path f
/-- Apply an update to each of the lanes `ls` of a group, in the order given. -/
def State.onLanes (s : State) (k : Nat) (ls : List Nat) (f : Nat → Lane → Lane) : State :=
  s.updGroup k fun g => ls.foldl (fun g l => g.updLane l (f l)) g

/-- The non-empty entries of a path table, ascending. -/
def Group.entries (g : Group) : Tbl Path := g.paths.filter fun e => e.2.state != .empty
/-- The live lanes of a group: the union of the masks of its entries (R29). -/
def Group.live (g : Group) : BitVec 32 := g.entries.foldl (fun m e => m ||| e.2.mask) 0#32
/-- The lowest-numbered EMPTY entry (R29). -/
def Group.emptyEntry (g : Group) : Nat :=
  ((List.range 32).find? fun i => (g.path i).state == .empty).getD 31
/-- Keys of the groups of a team, handlers apart. -/
def State.teamGroups (s : State) (t : Nat) : List Nat :=
  (s.groups.filter fun e => e.2.used && e.2.team == t && !e.2.isHandler).map (·.1)
/-- Keys of all groups of a context, handlers among them. -/
def State.ctxGroups (s : State) (c : Nat) : List Nat :=
  (s.groups.filter fun e => e.2.used && e.2.ctx == c).map (·.1)

/-! Registers (R6, R58). A write clears the register's poison bit or sets it to what the data carry (R191). -/

/-- Vector register `r` of a lane. -/
def Lane.reg (ln : Lane) (r : Nat) : Word := tget 0#32 ln.v r
/-- Write a vector register. -/
def Lane.setReg (ln : Lane) (r : Nat) (x : Word) (poison : Bool := false) : Lane :=
  { ln with v := tput ln.v r x, vPoison := setBit ln.vPoison r poison, vWritten := setBit ln.vWritten r true }
/-- An even-odd pair of vector registers (R4). -/
def Lane.pair (ln : Lane) (r : Nat) : DWord := dword (ln.reg r) (ln.reg (r + 1))
/-- Write an even-odd pair. -/
def Lane.setPair (ln : Lane) (r : Nat) (x : DWord) : Lane := (ln.setReg r (loWord x)).setReg (r + 1) (hiWord x)
/-- Lane predicate `n`; p0 is constantly true (R6). -/
def Lane.pred (ln : Lane) (n : Nat) : Bool := n == 0 || bit ln.p n
/-- Write a lane predicate; p0 keeps its value. -/
def Lane.setPred (ln : Lane) (n : Nat) (b : Bool) (poison : Bool := false) : Lane :=
  if n = 0 then ln else { ln with p := setBit ln.p n b, pPoison := setBit ln.pPoison n poison }
/-- Uniform register `n`. -/
def Group.sreg (g : Group) (n : Nat) : Word := tget 0#32 g.s n
/-- Write a uniform register. -/
def Group.setSreg (g : Group) (n : Nat) (x : Word) (poison : Bool := false) : Group :=
  { g with s := tput g.s n x, sPoison := setBit g.sPoison n poison }
/-- An even-odd pair of uniform registers (R4). -/
def Group.spair (g : Group) (n : Nat) : DWord := dword (g.sreg n) (g.sreg (n + 1))
/-- Write an even-odd pair of uniform registers. -/
def Group.setSpair (g : Group) (n : Nat) (x : DWord) : Group := (g.setSreg n (loWord x)).setSreg (n + 1) (hiWord x)
/-- Uniform predicate `n`; q0 is constantly true (R62). -/
def Group.qpred (g : Group) (n : Nat) : Bool := n == 0 || bit g.q n
/-- Write a uniform predicate; q0 keeps its value. -/
def Group.setQ (g : Group) (n : Nat) (b : Bool) : Group := if n = 0 then g else { g with q := setBit g.q n b }

/-! The mode register (R65). -/

/-- GUARD: the guard predicate. -/
def mGuard (m : Word) : Nat := fld m 2 0
/-- GNEG: the guard is inverted. -/
def mGneg (m : Word) : Bool := bit m 3
/-- ETYPE (R66). -/
def mEtype (m : Word) : Nat := fld m 8 4
/-- RND (R91). -/
def mRnd (m : Word) : Nat := fld m 11 9
/-- SAT (R94). -/
def mSat (m : Word) : Bool := bit m 12
/-- FTZ (R94). -/
def mFtz (m : Word) : Bool := bit m 13
/-- LIVE: live sub-elements of packed types. -/
def mLive (m : Word) : Nat := fld m 15 14
/-- MORD: memory order. -/
def mMord (m : Word) : Nat := fld m 18 16
/-- MSCOPE (R134). -/
def mScope (m : Word) : Nat := fld m 21 19
/-- SRKEY: key slot of stochastic rounding. -/
def mSrkey (m : Word) : Nat := fld m 25 22
/-- A value MODE may hold: no reserved bit and no reserved code (R65, R66). -/
def modeLegal (m : Word) : Bool :=
  fld m 31 26 == 0 && mScope m ≤ 4 && mMord m ≤ 4 && mLive m != 0 && mRnd m ≤ 5 && mEtype m ≤ 10
/-- MODE of the paths that a launch creates (R65). -/
def launchMode : Word := 0xC000#32

/-- The guard holds in a lane (R65). -/
def Path.active (p : Path) (ln : Lane) : Bool := ln.pred (mGuard p.mode) != mGneg p.mode
/-- The guard predicate is pending in a lane (R65). -/
def Path.guardPending (p : Path) (ln : Lane) : Bool := bit ln.pPend (mGuard p.mode)
/-- The guard predicate is poisoned in a lane (R191). -/
def Path.guardPoisoned (p : Path) (ln : Lane) : Bool := bit ln.pPoison (mGuard p.mode)
/-- Lanes of a path in which a guarded instruction is active. -/
def Group.activeLanes (g : Group) (p : Path) : List Nat :=
  (lanesOf p.mask).filter fun l => !p.guardPending (g.lane l) && p.active (g.lane l)

/-! Where a path stands (R47 to R53). -/

/-- NINS of a clause header: instruction words minus one (R48). -/
def hNins (h : Word) : Nat := fld h 27 24
/-- NLIT: literal words. -/
def hNlit (h : Word) : Nat := fld h 23 22
/-- WAIT mask. -/
def hWait (h : Word) : Nat := fld h 11 0
/-- The flag SETA names, where it is valid. -/
def hSeta (h : Word) : Option Nat := if bit h 12 then some (fld h 16 13) else none
/-- The flag SETB names, where it is valid. -/
def hSetb (h : Word) : Option Nat := if bit h 17 then some (fld h 21 18) else none
/-- The clause a path is issuing; a clause of one word where none has been checked. -/
def Path.cl (p : Path) : Clause := p.clause.getD { header := 0x80000000#32, words := [], lits := [] }
/-- Address of the clause that follows (R47). -/
def Path.following (p : Path) : DWord := p.clhdr + BitVec.ofNat 64 (4 * (2 + hNins p.cl.header + hNlit p.cl.header))
/-- PC is at the last instruction word of the clause. -/
def Path.atLast (p : Path) : Bool := p.pc == p.clhdr + BitVec.ofNat 64 (4 * (1 + hNins p.cl.header))
/-- The path moves to a clause header, which is checked when it next issues (R50, R53). -/
def Path.goto (p : Path) (a : DWord) : Path := { p with pc := a, clhdr := a, clause := none }
/-- The path goes on behind the word at PC (R51). -/
def Path.advance (p : Path) : Path := if p.atLast then p.goto p.following else { p with pc := p.pc + 4 }
/-- The age of a path that enters READY: the clock, less being older (R172). A path has at most 31 splits, each of which may count a
side one clock older. -/
def readyAge (now : Nat) : Nat := now + 32
/-- The path is READY from now on; its age is the clock at which it entered READY (R172). -/
def Path.ready (p : Path) (now : Nat) : Path :=
  { p with state := .ready, clause := if p.recheck then none else p.clause, recheck := false, warg := 0, wait := .nothing,
           held := 0, retry := false, wants := [], freezer := .nobody, mgmtHeld := false, dbgHeld := false, before := .empty,
           age := readyAge now,
           promoted := false, waited := 0 }
/-- A parked path goes on behind the instruction at which it waited. -/
def Path.release (p : Path) (now : Nat) : Path := (p.advance).ready now
/-- The path parks in `st` for `w`. A path that is being stepped stays STEPPING: it waits in place for a flag, and at a
barrier its step is complete (R293). A path that a reverse step re-executes parks as any other (R205). -/
def Path.park (p : Path) (st : PState) (w : Wait) (arg : Nat := 0) : Path :=
  if p.state = .stepping ∧ p.freezer ≠ .rewind then
    { p with wait := match w with | .monitor ls => .monitor ls | w => if st = .flagwait then w else .nothing }
  else { p with state := st, wait := w, warg := BitVec.ofNat 4 arg, freezer := .nobody }

/-! Events that the device owes itself. -/

/-- Append an event to the agenda, unless it stands there. -/
def State.post (s : State) (i : Instr) (a : Args := {}) : State :=
  if s.agenda.contains ⟨i, a⟩ then s else { s with agenda := s.agenda ++ [⟨i, a⟩] }

/-! Taking a stop. The A960 never redirects the path that faults (R173): its lanes freeze and a handler is spawned. -/

/-- A lane that stops at an instruction, its cause and its fault address (R174, R180). -/
structure Stop where
  lane  : Nat
  cause : Cause
  addr  : DWord := 0
  deriving DecidableEq, Repr

/-- Code of a cause (R174). -/
def Cause.code : Cause → Nat
  | .illegalInstruction => 1 | .illegalOperand => 2 | .illegalMode => 3 | .clauseFormat => 4 | .hazard => 5
  | .uniformHint => 6 | .misaligned => 7 | .pageNotPresent => 8 | .permission => 9 | .invalidAddress => 10
  | .deadStrong => 11 | .poison => 12 | .trap => 13 | .breakpoint => 14 | .watchpoint => 15 | .step => 16
  | .noProgress => 17 | .logFull => 18 | .handlerFault => 19

/-- Code of a lane that may have stopped; 0 is no fault. -/
def causeCode : Option Cause → Nat
  | none => 0
  | some c => c.code

/-- Causes whose address a lane keeps for FRD class 8 (R180). -/
def Cause.hasAddress : Cause → Bool
  | .misaligned | .pageNotPresent | .permission | .invalidAddress | .deadStrong | .watchpoint => true
  | _ => false

/-- Record the cause and fault address of a lane that stops. -/
def Lane.stopped (ln : Lane) (st : Stop) : Lane :=
  { ln with cause := some st.cause, faultAddr := if st.cause.hasAddress then st.addr else 0 }

/-- Freeze the stopping lanes of entry `i` (R34, R176): in place where they are all its lanes, else in the lowest EMPTY
entry, which copies PC, CLHDR and MODE. Answers the group and the FROZEN entry. The reuse latch is dropped (R189). What is stepped stays
in the reach of the capability that stepped it. -/
def Group.freeze (g : Group) (i : Nat) (stops : List Stop) (who : Freezer) (tcode : BitVec 8) (now : Nat) : Group × Nat :=
  let p := g.path i
  let m := maskOf (stops.map (·.lane))
  let g := { (stops.foldl (fun g st => g.updLane st.lane fun ln => ln.stopped st) g) with latch := none }
  let frozen := { p with mask := m, state := .frozen, freezer := who, warg := 0, tcode := tcode, before := p.state,
                         since := if p.state = .stepping then p.since else now, rung := 0, mgmtHeld := false, dbgHeld := false,
                         held := 0, retry := false, wants := [], wait := match p.wait with | .monitor ls => .monitor ls | _ => .nothing }
  if m = p.mask then (g.setPath i frozen, i)
  else
    let e := g.emptyEntry
    ((g.setPath i { p with mask := p.mask &&& ~~~m }).setPath e frozen, e)

/-- TAKING A STOP: the lanes freeze, and the stop is sent on its way (R177) unless the entry was being stepped, in which
case whoever steps it reads the cause (R181, R209). -/
def State.stop (s : State) (r : PathRef) (stops : List Stop) (tcode : BitVec 8 := 0) : State :=
  let p := s.path r
  let who := if p.state = .stepping && p.freezer == .debugger then Freezer.debugger else .stop
  let (g, e) := (s.group r.group).freeze r.path stops who tcode s.clock
  let s := s.setGroup r.group g
  if p.state = .stepping && (p.freezer == .debugger || p.freezer == .stop) then s
  else s.post .handlerSpawn { a := r.group, b := e }

/-- The pending queue of the group's core holds its 32 stops, those on their way to it among them (R183). -/
def State.pendingFull (s : State) (k : Nat) : Bool :=
  let q := (s.core (coreOf k)).pending
  let coming := s.agenda.filter fun e => e.what == .handlerSpawn && coreOf e.args.a == coreOf k && !q.contains (e.args.a, e.args.b)
  q.length + coming.length ≥ 32

/-- The path does not issue, and no lane of it changes; `why` is the reason of R213. -/
def State.hold (s : State) (r : PathRef) (why : Nat) : State :=
  s.updPath r fun p => { p with held := BitVec.ofNat 5 why, retry := false, wants := [] }

/-! Freezing and resuming that is no stop: by the management core, the debugger, a rewind, or a rung of the ladder. -/

/-- A path that a reverse step re-executes (R205): STEPPING, and no step of a handler or a debugger. -/
def Path.replaying (p : Path) : Bool := p.state == .stepping && p.freezer == .rewind

/-- Freeze a path where it stands. One that is frozen is held by the management core or the debugger as well. -/
def Path.suspend (p : Path) (who : Freezer) (now : Nat) : Path :=
  match p.state with
  | .empty => p
  | .frozen => { p with mgmtHeld := p.mgmtHeld || (who == .management && p.freezer != .management),
                        dbgHeld := p.dbgHeld || (who == .debugger && p.freezer != .debugger) }
  | st => { p with state := .frozen, freezer := who, since := if st = .stepping then p.since else now, rung := 0, mgmtHeld := false, dbgHeld := false,
                   held := 0, retry := false, wants := [], before := if p.replaying then .ready else st,
                   stepper := if st = .stepping then p.freezer else .nobody }

/-- The path returns to the state it held; at REGANG it executes the REGANG again (R35), one that had still to issue checks its clause
again (R53), and one in MWAIT wakes (R310). -/
def Path.returned (p : Path) (now : Nat) : Path :=
  if p.before = .ready ∨ p.before = .regang then { p.ready now with clause := none }
  else { p with state := p.before, recheck := true, freezer := p.stepper, before := .empty, stepper := .nobody,
                clause := if p.before = .stepping ∧ p.wait = .nothing then none else p.clause,
                wait := match p.wait with | .monitor _ => .monitor [] | w => w }

/-- One holder lets the path go: it returns, or another that holds it too keeps it frozen. -/
def Path.unsuspend (p : Path) (who : Freezer) (now : Nat) : Path :=
  if p.state ≠ .frozen ∨ p.freezer ≠ who then { p with mgmtHeld := p.mgmtHeld && who != .management, dbgHeld := p.dbgHeld && who != .debugger }
  else if p.mgmtHeld then { p with freezer := .management, mgmtHeld := false }
  else if p.dbgHeld then { p with freezer := .debugger, dbgHeld := false }
  else p.returned now

/-- Change every path of a group. -/
def Group.mapPaths (g : Group) (f : Path → Path) : Group := { g with paths := g.paths.map fun e => (e.1, f e.2) }

/-- Change every path of some groups. -/
def State.mapPaths (s : State) (ks : List Nat) (f : Path → Path) : State :=
  ks.foldl (fun s k => s.updGroup k fun g => g.mapPaths f) s

/-- Freeze groups. -/
def State.suspend (s : State) (ks : List Nat) (who : Freezer) : State := s.mapPaths ks (·.suspend who s.clock)
/-- Return groups to what they did. -/
def State.unsuspend (s : State) (ks : List Nat) (who : Freezer) : State := s.mapPaths ks (·.unsuspend who s.clock)

/-- A frozen path that resumes re-executes the stopped instruction from its checks (R53), so the clause is checked afresh; a path parked
in MWAIT wakes (R310). The management core and the debugger keep what they hold. -/
def Path.resumed (p : Path) (now : Nat) : Path :=
  let q := match p.wait with | .monitor _ => p.advance | _ => p
  let ready := { (q.ready now) with clause := none, tcode := 0 }
  let kept := if p.mgmtHeld then ready.suspend .management now else ready
  if p.dbgHeld then kept.suspend .debugger now else kept

/-- FRESUME of the lanes `m` of a frozen entry (R181): the entry becomes READY where they are all its lanes; else they
take the lowest EMPTY entry, and the rest stay FROZEN. -/
def Group.resume (g : Group) (i : Nat) (m : BitVec 32) (now : Nat) : Group :=
  let p := g.path i
  let n := p.mask &&& m
  let g := (lanesOf n).foldl (fun g l => g.updLane l fun ln => { ln with cause := none, faultAddr := 0 }) g
  let ready := { p.resumed now with mask := n }
  if n = 0 then g
  else if n = p.mask then g.setPath i ready
  else (g.setPath i { p with mask := p.mask &&& ~~~n }).setPath g.emptyEntry ready

/-- Lanes leave the group's live lanes, as by EXIT (R287). -/
def Group.exitLanes (g : Group) (m : BitVec 32) : Group :=
  { g with paths := g.paths.map fun e =>
      let rest := e.2.mask &&& ~~~m
      if e.2.state = .empty then e else if rest = 0 then (e.1, {}) else (e.1, { e.2 with mask := rest }) }

/-! What a capability still reaches. -/

/-- The path is in the reach of a capability given at a clock: frozen by then, and not the debugger's (R179). -/
def Path.heldSince (p : Path) (given : Nat) : Bool := p.freezer != .debugger && decide (p.since ≤ given)

/-- FROZEN lanes of a group that a capability given at a clock reaches; lanes that have resumed and frozen anew are another's. -/
def Group.frozenLanes (g : Group) (given : Nat) : BitVec 32 :=
  g.entries.foldl (fun m e => if e.2.state = .frozen ∧ e.2.heldSince given then m ||| e.2.mask else m) 0#32

/-- Those lanes, and those that a handler is stepping. -/
def Group.heldLanes (g : Group) (given : Nat) : BitVec 32 :=
  g.entries.foldl (fun m e => if e.2.state = .stepping ∧ e.2.freezer = .stop ∧ e.2.heldSince given then m ||| e.2.mask else m)
    (g.frozenLanes given)

/-- The group of a capability still stands in its slot. -/
def State.holdsGroup (s : State) (h : HCap) : Bool := (s.group h.group).used && (s.group h.group).placed == h.gen

/-- VALID (R179, R292): it falls once every lane of MASK has been resumed or killed. -/
def State.capValid (s : State) (h : HCap) : Bool :=
  h.mask == 0 || (s.holdsGroup h && (s.group h.group).heldLanes h.given &&& h.mask != 0)

/-! One word issues. -/

/-- RCNT counts an issue in each lane (R197), and the team's progress counter clears (R45). -/
def State.retire (s : State) (k : Nat) (ls : List Nat) : State :=
  let g := s.group k
  let s := s.onLanes k ls fun _ ln => { ln with rcnt := if ln.rcnt = 0xFFFFFFFF then ln.rcnt else ln.rcnt + 1 }
  if g.isHandler then s else s.updTeam g.team fun t => { t with idle := 0 }

/-- The common end of a word (R34, R56): lanes that stop freeze; where some lane goes on, the effect is taken if the word
issues, RCNT counts, and the path moves behind the word (or as `after` says). While the pending queue is full, a word that would stop does not
issue and changes nothing (R183). -/
def conclude (r : PathRef) (stops : List Stop) (issues : Bool) (eff : State → State) (s : State)
    (after : Path → Path := Path.advance) (tcode : BitVec 8 := 0) : State :=
  let p := s.path r
  let bad := maskOf (stops.map (·.lane))
  if !stops.isEmpty && s.pendingFull r.group then s.hold r 17
  else if bad = p.mask then s.stop r stops tcode
  else
    let s := if stops.isEmpty then s else s.stop r stops tcode
    let s := if issues then (eff s).retire r.group (lanesOf (p.mask &&& ~~~bad)) else s
    s.updPath r after

/-- A word executes only with a path issuing it. -/
def issuing (s : State) (f : PathRef → Group → Path → State) : Res :=
  match s.cur with
  | none => .fault .noIssuingPath
  | some r =>
    let g := s.group r.group
    if g.used && (g.path r.path).mask != 0 then .next (f r g (g.path r.path)) else .fault .noIssuingPath

/-- The registers a word reads and writes in a lane. -/
structure Uses where
  vr : List Nat := []
  vw : List Nat := []
  pr : List Nat := []
  pw : List Nat := []
  sr : List Nat := []
  sw : List Nat := []
  deriving DecidableEq, Repr

/-- Two sets of uses together. -/
def Uses.and (a b : Uses) : Uses :=
  ⟨a.vr ++ b.vr, a.vw ++ b.vw, a.pr ++ b.pr, a.pw ++ b.pw, a.sr ++ b.sr, a.sw ++ b.sw⟩

/-- HAZARD (R58): a register that is read or written has its pending bit set. -/
def Uses.hazard (u : Uses) (g : Group) (ln : Lane) : Bool :=
  (u.vr ++ u.vw).any (bit ln.vPend ·) || (u.pr ++ u.pw).any (bit ln.pPend ·) || (u.sr ++ u.sw).any (bit g.sPend ·)

/-- POISON (R191): a register that is read is poisoned. -/
def Uses.poison (u : Uses) (g : Group) (ln : Lane) : Bool :=
  u.vr.any (bit ln.vPoison ·) || u.pr.any (bit ln.pPoison ·) || u.sr.any (bit g.sPoison ·)

/-- The checks of a word: its own fields, its mode, its registers, and what the registers hold. -/
structure Checks where
  /-- every field is of its kind and in its limits (step 2 of R64) -/
  field : Bool
  /-- ETYPE and MORD are those the instruction takes (step 3) -/
  mode  : Bool := true
  /-- steps 4 and 5 -/
  uses  : Uses := {}
  /-- step 6 and the instruction's own cause, in a lane -/
  late  : Nat → Lane → Option Cause := fun _ _ => none

/-- The first cause that applies in a lane (R64). -/
def Checks.cause (c : Checks) (g : Group) (l : Nat) (ln : Lane) : Option Cause :=
  if !c.field then some .illegalOperand
  else if !c.mode then some .illegalMode
  else if c.uses.hazard g ln then some .hazard
  else if c.uses.poison g ln then some .poison
  else c.late l ln

/-- The cause in a lane of a guarded word, which reads the guard predicate beside its registers: a lane whose guard predicate is
pending takes a cause of the first three steps, else HAZARD (R65), and one whose guard predicate is poisoned POISON (R191). -/
def Checks.guardedCause (c : Checks) (g : Group) (p : Path) (l : Nat) : Option Cause :=
  ({ c with uses := { c.uses with pr := mGuard p.mode :: c.uses.pr } } : Checks).cause g l (g.lane l)

/-- The lanes to which a guarded word applies (R64, R65). -/
def Group.applied (g : Group) (p : Path) : List Nat :=
  (lanesOf p.mask).filter fun l => p.guardPending (g.lane l) || p.active (g.lane l)

/-- A guarded word: each lane it applies to takes its first cause or has the effect. -/
def guardedOp (chk : Group → Path → Checks) (eff : PathRef → Group → Path → List Nat → State → State) (s : State) :
    Res :=
  issuing s fun r g p =>
    let c := chk g p
    let applied := g.applied p
    let stops := applied.filterMap fun l => (c.guardedCause g p l).map fun x => { lane := l, cause := x }
    let ok := applied.filter fun l => (c.guardedCause g p l).isNone
    conclude r stops (applied.isEmpty || !ok.isEmpty) (eff r g p ok) s

/-- A guarded word whose effect is a change of each active lane by itself. -/
def laneOp (chk : Group → Path → Checks) (f : Group → Path → Nat → Lane → Lane) (s : State) : Res :=
  guardedOp chk (fun r g p ls s => s.onLanes r.group ls (f g p)) s

/-- A word that acts once for its path: its cause strikes every lane (R64). -/
def uniformOp (chk : Group → Path → Checks) (eff : PathRef → Group → Path → State → State) (s : State) : Res :=
  issuing s fun r g p =>
    let stops := match (chk g p).cause g 0 {} with
      | some x => (lanesOf p.mask).map fun l => { lane := l, cause := x }
      | none => []
    conclude r stops true (eff r g p) s

/-- A word that acts once for its path and whose effect is a change of its group alone. -/
def groupOp (chk : Group → Path → Checks) (f : Group → Path → Group) (s : State) : Res :=
  uniformOp chk (fun r g p s => s.setGroup r.group (f g p)) s

/-- Every lane of the path stops with one cause. -/
def State.stopAll (s : State) (r : PathRef) (p : Path) (c : Cause) (addr : DWord := 0) (tcode : BitVec 8 := 0) : State :=
  if s.pendingFull r.group then s.hold r 17
  else s.stop r ((lanesOf p.mask).map fun l => { lane := l, cause := c, addr := addr }) tcode

/-- A control transfer or a wait: the checks strike every lane; else `move` says where the path goes, and the word has
retired. -/
def controlOp (chk : Group → Path → Checks) (move : PathRef → Group → Path → State → State) (s : State) : Res :=
  issuing s fun r g p =>
    match (chk g p).cause g 0 {} with
    | some x => s.stopAll r p x
    | none => (move r g p s).retire r.group (lanesOf p.mask)

/-- The number of clocks in `n` steps of a count on a core (log 2). -/
def clocks (core : Nat) : Nat → Nat
  | 0 => 0
  | n + 1 => clocks core n + 1 + Config.freeCycles core n

/-- cycles_resident (R188): what the team has been resident on all its cores. -/
def Team.cyclesResident (t : Team) : Nat := t.resided + clocks t.core t.resident

/-- The team stands on a core anew; its count goes on from where it stood. -/
def Team.rehomed (t : Team) (core slot : Nat) : Team :=
  { t with core := core, slot := slot, resided := t.cyclesResident, resident := 0 }

/-- A choice among `n` things that the spec leaves to the device; the only one where there is one (log 5). -/
def State.choose (s : State) (place n : Nat) : Nat := if n ≤ 1 then 0 else Config.freeChoice s.free place % n

/-- The elements of a list in an order that the device chooses (log 6). -/
def pickOrder {α : Type} (free : Nat) : Nat → List α → List α
  | 0, xs => xs
  | _, [] => []
  | _, [x] => [x]
  | n + 1, xs =>
    let i := Config.freeChoice free n % xs.length
    match xs[i]? with
    | some x => x :: pickOrder free n (xs.eraseIdx i)
    | none => xs

end Sys2Proof.Machine
end

