-- ==== Sys2Proof/Machine/Operands.lean ====
section
/-! DEFINITION. Operand fields (R62), K-form values (R63), the sub-elements of a register (R86), and the addresses that
loads and stores form (R304). -/

namespace Sys2Proof.Machine

/-- What stands in the B position: a register (register form), or an immediate or literal selector (K form). -/
inductive Opnd where
  | reg (x : BitVec 8)
  | k (x : BitVec 8)
  deriving DecidableEq, Repr

/-! Kinds of R62, on a field's value. -/

/-- A vector register below the window. -/
def isV (g : Group) (x : BitVec 8) : Bool := x.toNat < 0x80 && x.toNat < g.window
/-- A run of `n` vector registers, base a multiple of `al`, inside the window. -/
def isRun (g : Group) (x : BitVec 8) (n al : Nat) : Bool :=
  x.toNat < 0x80 && x.toNat % al == 0 && x.toNat + n ≤ g.window
/-- A vector pair. -/
def isVPair (g : Group) (x : BitVec 8) : Bool := isRun g x 2 2
/-- A uniform register. -/
def isS (x : BitVec 8) : Bool := x.toNat ≥ 0x80
/-- A uniform pair. -/
def isSPair (x : BitVec 8) : Bool := x.toNat ≥ 0x80 && x.toNat % 2 == 0
/-- The number of a uniform register. -/
def sNum (x : BitVec 8) : Nat := x.toNat - 0x80
/-- A vector or uniform register. -/
def isReg (g : Group) (x : BitVec 8) : Bool := isS x || isV g x
/-- A vector or uniform pair. -/
def isRegPair (g : Group) (x : BitVec 8) : Bool := isSPair x || isVPair g x
/-- A lane or uniform predicate in a whole field. -/
def isPred (x : BitVec 8) : Bool := x.toNat ≤ 7
/-- A predicate that may be written: 1 to 7. -/
def isPredDest (x : BitVec 8) : Bool := x.toNat ≤ 7 && x.toNat != 0
/-- A wait flag. -/
def isFlag (x : BitVec 8) : Bool := x.toNat ≤ 11
/-- A tile register. -/
def isTile (x : BitVec 8) : Bool := x.toNat ≤ 15
/-- A K selector: an immediate, or a literal below NLIT. -/
def isK (p : Path) (x : BitVec 8) : Bool := x.toNat < 0x80 || x.toNat - 0x80 < hNlit p.cl.header

/-! Uses. -/

/-- Registers `x` to `x + n − 1`, vector or uniform, read. -/
def readsRun (x : BitVec 8) (n : Nat) : Uses :=
  if isS x then { sr := (List.range n).map (sNum x + ·) } else { vr := (List.range n).map (x.toNat + ·) }
/-- Registers `x` to `x + n − 1`, vector or uniform, written. -/
def writesRun (x : BitVec 8) (n : Nat) : Uses :=
  if isS x then { sw := (List.range n).map (sNum x + ·) } else { vw := (List.range n).map (x.toNat + ·) }

/-! Element types (R66, R86). -/

/-- Width of one element. -/
def eWidth (e : Nat) : Nat :=
  match e with
  | 0 | 1 | 8 => 32
  | 2 | 3 => 64
  | 4 | 5 | 9 | 10 => 16
  | _ => 8
/-- Elements of one operand. -/
def eCount (e : Nat) : Nat := match e with | 4 | 5 | 9 | 10 => 2 | 6 | 7 => 4 | _ => 1
/-- An integer type. -/
def eInt (e : Nat) : Bool := e ≤ 7
/-- A signed type. -/
def eSigned (e : Nat) : Bool := e == 0 || e == 2 || e == 4 || e == 6
/-- An unsigned integer type: n32, n64, n16x2, n8x4. -/
def eUnsigned (e : Nat) : Bool := e == 1 || e == 3 || e == 5 || e == 7
/-- A floating-point type. -/
def eFloat (e : Nat) : Bool := e == 8 || e == 9 || e == 10
/-- A 64-bit type. -/
def eWide (e : Nat) : Bool := e == 2 || e == 3
/-- Sub-element h is live (R65, R86). -/
def eLive (e live h : Nat) : Bool :=
  match eCount e with
  | 2 => (live / 2 ^ h) % 2 == 1
  | 4 => (live / 2 ^ (h / 2)) % 2 == 1
  | _ => true
/-- Registers of one operand. -/
def eRegs (e : Nat) : Nat := if eWide e then 2 else 1

/-- Element h of a register image. -/
def elemOf (e h : Nat) (x : DWord) : Nat := x.toNat / 2 ^ (eWidth e * h) % 2 ^ eWidth e
/-- The register image with element h replaced. -/
def putElem (e h : Nat) (x : DWord) (y : Nat) : DWord :=
  let w := eWidth e
  BitVec.ofNat 64 (x.toNat - elemOf e h x * 2 ^ (w * h) + y % 2 ^ w * 2 ^ (w * h))
/-- An n-bit number read as two's complement. -/
def signedOf (n x : Nat) : Int := if x % 2 ^ n < 2 ^ (n - 1) then (x % 2 ^ n : Nat) else (x % 2 ^ n : Nat) - 2 ^ n
/-- An integer as n bits of two's complement. -/
def wrapTo (n : Nat) (x : Int) : Nat := (x % 2 ^ n).toNat
/-- An element as the integer it stands for. -/
def elemInt (e x : Nat) : Int := if eSigned e then signedOf (eWidth e) x else x
/-- The range of an integer type. -/
def eMin (e : Nat) : Int := if eSigned e then -(2 ^ (eWidth e - 1)) else 0
/-- The largest value of an integer type. -/
def eMax (e : Nat) : Int := if eSigned e then 2 ^ (eWidth e - 1) - 1 else 2 ^ eWidth e - 1
/-- An exact integer result brought into a type: clamped under SAT, else wrapped (R94). -/
def intoType (e : Nat) (sat : Bool) (x : Int) : Nat :=
  wrapTo (eWidth e) (if sat then max (eMin e) (min (eMax e) x) else x)

/-! K-form values (R63). -/

/-- The immediate, −64 to 63. -/
def immOf (x : BitVec 8) : Int := signedOf 7 x.toNat
/-- The literal word a selector names. -/
def litOf (p : Path) (x : BitVec 8) : Word := wordAt p.cl.lits (x.toNat - 0x80)
/-- A small integer as a binary floating-point number with `eb` exponent bits and `fb` fraction bits; every value from
−64 to 63 is exact in every element format. -/
def smallFloat (eb fb : Nat) (i : Int) : Nat :=
  let n := i.natAbs
  if n = 0 then 0
  else
    let l := Nat.log2 n
    (if i < 0 then 2 ^ (eb + fb) else 0) + (l + 2 ^ (eb - 1) - 1) * 2 ^ fb + (n - 2 ^ l) * 2 ^ fb / 2 ^ l
/-- One element of an immediate. -/
def immElem (e : Nat) (i : Int) : Nat :=
  match e with
  | 8 => smallFloat 8 23 i
  | 9 => smallFloat 5 10 i
  | 10 => smallFloat 8 7 i
  | _ => wrapTo (eWidth e) i
/-- A K operand of a vector instruction under an ETYPE, as a register image. -/
def kImage (e : Nat) (p : Path) (x : BitVec 8) : DWord :=
  if x.toNat < 0x80 then
    (List.range (eCount e)).foldl (fun a h => putElem e h a (immElem e (immOf x))) 0
  else if eWide e then (litOf p x).signExtend 64 else (litOf p x).setWidth 64
/-- A K operand as a 32-bit integer. -/
def kWord (p : Path) (x : BitVec 8) : Word := if x.toNat < 0x80 then BitVec.ofInt 32 (immOf x) else litOf p x
/-- A K operand as a 64-bit integer. -/
def kDword (p : Path) (x : BitVec 8) : DWord :=
  if x.toNat < 0x80 then BitVec.ofInt 64 (immOf x) else (litOf p x).signExtend 64

/-! The B operand. -/

/-- The B operand of a vector instruction is of its kind under an ETYPE. -/
def Opnd.okV (o : Opnd) (e : Nat) (g : Group) (p : Path) : Bool :=
  match o with
  | .reg x => if eWide e then isRegPair g x else isReg g x
  | .k x => isK p x
/-- Registers the B operand reads. -/
def Opnd.uses (o : Opnd) (n : Nat) : Uses := match o with | .reg x => readsRun x n | .k _ => {}
/-- The register image of the B operand in a lane. -/
def Opnd.image (o : Opnd) (e : Nat) (g : Group) (p : Path) (ln : Lane) : DWord :=
  match o with
  | .k x => kImage e p x
  | .reg x =>
    if eWide e then (if isS x then g.spair (sNum x) else ln.pair x.toNat)
    else ((if isS x then g.sreg (sNum x) else ln.reg x.toNat) : Word).setWidth 64
/-- The B operand of a uniform instruction is of its kind. -/
def Opnd.okS (o : Opnd) (p : Path) : Bool := match o with | .reg x => isS x | .k x => isK p x
/-- The B operand of SADD64 is of its kind. -/
def Opnd.okS64 (o : Opnd) (p : Path) : Bool := match o with | .reg x => isSPair x | .k x => isK p x
/-- The 32-bit value of a uniform B operand. -/
def Opnd.word (o : Opnd) (g : Group) (p : Path) : Word := match o with | .reg x => g.sreg (sNum x) | .k x => kWord p x
/-- The 64-bit value of a uniform B operand. -/
def Opnd.dword (o : Opnd) (g : Group) (p : Path) : DWord :=
  match o with | .reg x => g.spair (sNum x) | .k x => kDword p x

/-- A vector register, or an even pair under a 64-bit type. -/
def isVE (e : Nat) (g : Group) (x : BitVec 8) : Bool := if eWide e then isVPair g x else isV g x
/-- Image of a vector register or pair. -/
def Lane.image (ln : Lane) (e r : Nat) : DWord := if eWide e then ln.pair r else (ln.reg r).setWidth 64
/-- Write the image of a vector register or pair. -/
def Lane.setImage (ln : Lane) (e r : Nat) (x : DWord) : Lane :=
  if eWide e then ln.setPair r x else ln.setReg r (loWord x)

/-! Addresses. -/

/-- The address a lane of a load or store forms: base pair plus signed offset (R304). -/
def laneAddr (g : Group) (p : Path) (ln : Lane) (a : BitVec 8) (b : Opnd) : DWord :=
  ln.pair a.toNat + (b.word g p).signExtend 64
/-- The address a uniform load or store forms (R330). -/
def uniformAddr (g : Group) (p : Path) (a : BitVec 8) (b : Opnd) : DWord :=
  g.spair (sNum a) + (b.word g p).signExtend 64
/-- The offset a scratchpad access forms (R305). -/
def padOffset (g : Group) (p : Path) (ln : Lane) (a : BitVec 8) (b : Opnd) : Nat :=
  (ln.reg a.toNat + b.word g p).toNat

end Sys2Proof.Machine
end

