-- ==== Sys2Proof/Machine/Flags.lean ====
section
/-! DEFINITION. Flags: the sticky exception flags of a lane (R95), and the wait flags with the long-latency operations
they count (R54 to R59). -/

namespace Sys2Proof.Machine

/-! FPSTAT bits (R95). -/

/-- Sticky flags raised by one operation. -/
structure FFlags where
  nv : Bool := false
  dz : Bool := false
  of : Bool := false
  uf : Bool := false
  nx : Bool := false
  deriving DecidableEq, Repr

/-- Flags of two operations together. -/
def FFlags.or (a b : FFlags) : FFlags := ⟨a.nv || b.nv, a.dz || b.dz, a.of || b.of, a.uf || b.uf, a.nx || b.nx⟩
/-- The bits of R95. -/
def FFlags.bits (f : FFlags) : BitVec 5 :=
  BitVec.ofNat 5 (f.nv.toNat + 2 * f.dz.toNat + 4 * f.of.toNat + 8 * f.uf.toNat + 16 * f.nx.toNat)
/-- Set sticky flags in a lane: a flag stays set until software writes it. -/
def Lane.raise (ln : Lane) (f : FFlags) : Lane := { ln with fpstat := ln.fpstat ||| f.bits }

/-! Classes of R55. -/

/-- The instruction that the opcode of a word names, reserved bits or not: what decides its class and its place. -/
def nominal : Instr → Instr
  | .nonzeroReservedField w => decodeWord (w &&& 0xFF000000#32)
  | i => i

/-- Class of an instruction. -/
inductive OpClass where
  | short | returning | nonReturning
  deriving DecidableEq, Repr

/-- An atomic is result-returning with a vector destination; any D but 0xFF else is out of its kind (R54). -/
def atomicClass (d : BitVec 8) : OpClass := if d.toNat < 0x80 then .returning else .nonReturning

/-- The class that counts on SETA or SETB; every other instruction is short (R55). -/
def classOf : Instr → OpClass
  | .ld8 .. | .ld8K .. | .lds8 .. | .lds8K .. | .ld16 .. | .ld16K .. | .lds16 .. | .lds16K .. | .ld32 .. | .ld32K ..
  | .ld64 .. | .ld64K .. | .ld128 .. | .ld128K .. | .sld32 .. | .sld32K .. | .sld64 .. | .sld64K .. | .ldl32 ..
  | .ldl32K .. | .ldl64 .. | .ldl64K .. | .ldl128 .. | .ldl128K .. | .kvx .. | .sample .. | .specacc .. | .mtopk ..
  | .hnew .. | .hupg .. | .vpublish .. | .ticket .. | .redeem .. | .tkquery .. => .returning
  | .st8 .. | .st8K .. | .st16 .. | .st16K .. | .st32 .. | .st32K .. | .st64 .. | .st64K .. | .st128 .. | .st128K ..
  | .sst32 .. | .sst32K .. | .sst64 .. | .sst64K .. | .stl32 .. | .stl32K .. | .stl64 .. | .stl64K .. | .stl128 ..
  | .stl128K .. | .msadd .. | .msmax .. | .msmin .. | .copy .. | .fence .. | .pref .. | .hfree .. | .hrel .. | .hprio ..
  | .mma .. | .mmah .. | .mdist .. | .tzero .. | .tld .. | .tst .. | .trowmax .. | .texpsub .. | .tscale ..
  | .tlbinv .. | .mappg .. | .launch .. | .markdone => .nonReturning
  | .atadd d .. | .atand d .. | .atcas d .. | .atfadd d .. | .atmax d .. | .atmin d .. | .ator d .. | .atxchg d ..
  | .atxor d .. => atomicClass d
  | _ => .short

/-- The control-transfer instructions (R48). -/
def isControl : Instr → Bool
  | .bra .. | .brp .. | .brpn .. | .brq .. | .call .. | .calli .. | .ret | .jmpi .. | .exit | .yieldc .. | .regang ..
  | .compact => true
  | _ => false

/-- Instructions whose engine reads follow every event that the path issued earlier (R132). -/
def isEngine : Instr → Bool
  | .copy .. | .mma .. | .mmah .. | .mdist .. | .mtopk .. | .tzero .. | .tld .. | .tst .. | .trowmax .. | .texpsub ..
  | .tscale .. | .sample .. | .specacc .. | .kvx .. | .ticket .. | .redeem .. | .launch .. => true
  | _ => false

/-- Instructions that stand only in a clause of their own (R49). -/
def standsAlone : Instr → Bool
  | .regang .. | .compact => true
  | _ => false

/-- The instructions that the guard does not apply to (R273, R295, R320, R338); SRD and SWR decide for themselves. -/
def unguarded : Instr → Bool
  | .bra .. | .brp .. | .brpn .. | .brq .. | .call .. | .calli .. | .ret | .jmpi .. | .exit | .yieldc .. | .regang ..
  | .compact | .waitf .. | .setmode .. | .setmodeK .. | .nop | .binit .. | .bexpect .. | .barrive .. | .bwait ..
  | .copy .. | .csync | .tsync | .nbar .. | .escalate | .fence .. | .frd .. | .fwr .. | .fresume .. | .fkill ..
  | .fstep .. | .hfree .. | .hnew .. | .hprio .. | .hrel .. | .hupg .. | .launch .. | .logctlEnable ..
  | .logctlDisable .. | .logctlPolicy .. | .logctlTrim .. | .mappg .. | .markdone | .mdist .. | .mma .. | .mmah ..
  | .mtopk .. | .redeem .. | .regfree .. | .regrow .. | .rewind .. | .rngkey .. | .sadd .. | .ssub .. | .smul ..
  | .smulh .. | .sand .. | .sor .. | .sxor .. | .sshl .. | .sshr .. | .ssra .. | .smin .. | .smax .. | .scmp ..
  | .scmpK .. | .ssel .. | .smov .. | .sadd64 .. | .sbfe .. | .spopc .. | .smovK .. | .sselK .. | .sample .. | .specacc ..
  | .sld32 .. | .sld64 .. | .sst32 .. | .sst64 .. | .texpsub .. | .tld .. | .trowmax .. | .tscale .. | .tst ..
  | .tzero .. | .ticket .. | .tkquery .. | .tlbinv .. | .vpublish .. | .window .. | .swr .. => true
  | _ => false

/-- The flag on which a class counts in a clause. -/
def flagOf (c : OpClass) (h : Word) : Option Nat :=
  match c with
  | .short => none
  | .returning => hSeta h
  | .nonReturning => hSetb h

/-! Operations. -/

/-- Count on a wait flag. -/
def Group.flag (g : Group) (n : Nat) : BitVec 6 := tget 0#6 g.w n
/-- Write a wait flag. -/
def Group.setFlag (g : Group) (n : Nat) (x : BitVec 6) : Group := { g with w := tput g.w n x }

/-- Set or clear the pending bit of a register that an operation writes. -/
def Group.pend (g : Group) (d : Dest) (b : Bool) : Group :=
  match d with
  | .vreg l r _ _ => g.updLane l fun ln => { ln with vPend := setBit ln.vPend r b }
  | .pred l r _ _ => g.updLane l fun ln => { ln with pPend := setBit ln.pPend r b }
  | .sreg r _ _ => { g with sPend := setBit g.sPend r b }

/-- A register write lands: value, poison, and the pending bit clears (R58). -/
def Group.land (g : Group) (d : Dest) : Group :=
  (match d with
   | .vreg l r x po => g.updLane l fun ln => ln.setReg r x po
   | .pred l r b po => g.updLane l fun ln => ln.setPred r b po
   | .sreg r x po => g.setSreg r x po).pend d false

/-- Two register writes name one register. -/
def Dest.same : Dest → Dest → Bool
  | .vreg l r .., .vreg l' r' .. => l == l' && r == r'
  | .pred l r .., .pred l' r' .. => l == l' && r == r'
  | .sreg r .., .sreg r' .. => r == r'
  | _, _ => false

/-- Operations of a group forget a register that a later write owns (R59, R291). -/
def State.disown (s : State) (k : Nat) (ds : List Dest) : State :=
  let gen := (s.group k).placed
  { s with ops := s.ops.map fun o =>
      if o.group = k ∧ o.gen = gen then { o with dests := o.dests.filter fun d => !ds.any d.same } else o }

/-- Issue of a long-latency operation (R56): its flag rises, its destinations become pending, and it is in flight. A
newer load owns p7 (R59). -/
def State.issueOp (s : State) (r : PathRef) (flag : Option Nat) (dests : List Dest) (tiles : List (Nat × Nat) := [])
    (work : Work := .nothing) (lane : Nat := 0) (matrix : Nat := 0) : State :=
  let s := s.disown r.group (dests.filter fun d => match d with | .pred .. => true | _ => false)
  let g := s.group r.group
  let g := dests.foldl (fun g d => g.pend d true) g
  let g := match flag with | some w => g.setFlag w (g.flag w + 1) | none => g
  { s.setGroup r.group g with
    ops := s.ops ++ [{ id := s.nextOp, group := r.group, gen := g.placed, flag := flag, dests := dests, tiles := tiles,
                       work := work, team := g.team, gid := if g.isHandler then partOf r.group else g.gid,
                       hnd := g.isHandler, lane := lane, lanes := (g.path r.path).mask, since := s.clock,
                       matrix := matrix }],
    nextOp := s.nextOp + 1 }

/-- Two operations count on one flag of one group. -/
def Op.sameFlag (a b : Op) : Bool := a.group == b.group && a.gen == b.gen && a.flag == b.flag && a.flag.isSome

/-- The flag of an operation falls by every completed operation that has no incomplete one before it on that flag; an
operation that completed out of order is held back in the count (R56). -/
def State.countDown (s : State) (o : Op) : State :=
  match o.flag with
  | none => { s with ops := s.ops.filter fun x => x.id != o.id }
  | some w =>
    let gone := ((s.ops.filter (·.sameFlag o)).takeWhile (·.done)).map (·.id)
    let s : State := { s with ops := s.ops.filter fun x => !gone.contains x.id }
    if (s.group o.group).placed = o.gen then
      s.updGroup o.group fun g => g.setFlag w (g.flag w - BitVec.ofNat 6 gone.length)
    else s

/-- An operation has nothing left to do before it completes. -/
def Work.done : Work → Bool
  | .nothing => true
  | .copy us => us.isEmpty
  | .memorySide us => us.isEmpty
  | .packets _ is => is.isEmpty
  | .destroy .. | .fence .. | .markdone | .invalidate .. => false

/-- Completion (R56): the registers land, the tiles it holds are free, and the flag is counted down. An operation whose
group has gone still completes. -/
def State.complete (s : State) (id : Nat) : State :=
  match s.ops.find? (·.id == id) with
  | none => s
  | some o =>
    if o.done || !o.work.done then s
    else
      let s := if (s.group o.group).used ∧ (s.group o.group).placed = o.gen then
          s.updGroup o.group fun g => o.dests.foldl Group.land g else s
      let s : State := o.tiles.foldl (fun (s : State) e => s.updTeam e.1 fun t => { t with tF := setBit t.tF e.2 false }) s
      let s : State := { s with ops := s.ops.map fun x => if x.id = id then { x with done := true, dests := [], tiles := [] } else x }
      s.countDown o

/-- A long-latency word with nothing to do issues, counts, and completes at once (R56). -/
def State.issueEmpty (s : State) (r : PathRef) (flag : Option Nat) : State :=
  (s.issueOp r flag []).complete s.nextOp

/-- The flag that a word of class `c` counts on in the clause of the path. -/
def Path.flagFor (p : Path) (c : OpClass) : Option Nat := flagOf c p.cl.header

end Sys2Proof.Machine
end

