-- ==== Sys2Proof/Machine/Float.lean ====
section
/-! DEFINITION. Numbers: exact values, rounding into f32, f16 and BF16 (R86, R87, R91, R92, R94, R95), the binary8 family
(R88 to R90, R97), exact arithmetic, and the correctly rounded functions of R289.

A value is exact: sign, magnitude m × 2^e. A function whose result is irrational is computed to 512 bits and carries a
last bit below them that stands for the rest, so that every rounding of it is the rounding of the exact result (log 10). -/

namespace Sys2Proof.Machine

/-- An exact value, an infinity or a NaN. -/
inductive FV where
  | nan (signalling : Bool)
  | inf (neg : Bool)
  /-- (−1)^neg × m × 2^e; m = 0 is a signed zero -/
  | fin (neg : Bool) (m : Nat) (e : Int)
  deriving DecidableEq, Repr

/-- A floating-point format: width, precision, exponents of the smallest normal and of the largest value (R86). -/
structure Fmt where
  width : Nat
  p     : Nat
  emin  : Int
  emax  : Int
  deriving DecidableEq, Repr

/-- binary32 -/
def fmt32 : Fmt := ⟨32, 24, -126, 127⟩
/-- binary16 -/
def fmt16 : Fmt := ⟨16, 11, -14, 15⟩
/-- BF16: binary32 with precision 8 -/
def fmtB16 : Fmt := ⟨16, 8, -126, 127⟩
/-- Format of a floating-point ETYPE. -/
def fmtOf (e : Nat) : Fmt := match e with | 9 => fmt16 | 10 => fmtB16 | _ => fmt32

/-- The value is a NaN. -/
def FV.isNan : FV → Bool | .nan _ => true | _ => false
/-- The value is a signalling NaN, which raises NV where it is an operand (R87). -/
def FV.isSnan : FV → Bool | .nan s => s | _ => false
/-- The value is a zero. -/
def FV.isZero : FV → Bool | .fin _ 0 _ => true | _ => false
/-- The value is negative, zeros and infinities by their sign. -/
def FV.isNeg : FV → Bool | .nan _ => false | .inf s => s | .fin s _ _ => s
/-- The value with its sign inverted. -/
def FV.neg : FV → FV | .nan s => .nan s | .inf s => .inf !s | .fin s m e => .fin (!s) m e
/-- An integer as an exact value. -/
def FV.ofInt (i : Int) : FV := .fin (i < 0) i.natAbs 0

/-- Bits of a magnitude. -/
def bitLen (m : Nat) : Nat := if m = 0 then 0 else Nat.log2 m + 1

/-- Round m × 2^e to a multiple of 2^q by RND; the multiple and whether it is inexact (R91, R92). -/
def roundAt (neg : Bool) (m : Nat) (e q : Int) (rnd r16 : Nat) : Nat × Bool :=
  if e ≥ q then (m * 2 ^ (e - q).toNat, false)
  else
    let u := 2 ^ (q - e).toNat
    let k := m / u
    let rem := m % u
    if rem = 0 then (k, false)
    else
      let up := match rnd with
        | 0 => decide (2 * rem > u) || (decide (2 * rem = u) && k % 2 == 1)
        | 1 => false
        | 2 => neg
        | 3 => !neg
        | 4 => decide (2 * rem ≥ u)
        | _ => decide (rem * 65536 + r16 * u ≥ 65536 * u)
      (if up then k + 1 else k, true)

/-- Exponent of the leading bit of m × 2^e. -/
def leadExp (m : Nat) (e : Int) : Int := e + bitLen m - 1

/-- An overflow under RND goes to the largest finite value (R91). -/
def overflowToMax (neg : Bool) (rnd : Nat) : Bool := rnd == 1 || (rnd == 2 && !neg) || (rnd == 3 && neg)

/-- Tiny after rounding: below the smallest normal when rounded with an unbounded exponent range (R95, as IEEE 754 has
it). -/
def tinyAfter (p : Nat) (emin : Int) (neg : Bool) (m : Nat) (e : Int) (rnd r16 : Nat) : Bool :=
  let q := leadExp m e - p + 1
  decide (leadExp (roundAt neg m e q rnd r16).1 q < emin)

/-- The fields below the sign of k × 2^q in a format of precision p with smallest normal exponent emin. -/
def packMag (p : Nat) (emin : Int) (k : Nat) (q : Int) : Nat :=
  let l := leadExp k q
  if l < emin then k * 2 ^ (q - (emin - p + 1)).toNat
  else
    let sig := if bitLen k ≤ p then k * 2 ^ (p - bitLen k) else k / 2 ^ (bitLen k - p)
    (l - emin + 1).toNat * 2 ^ (p - 1) + (sig - 2 ^ (p - 1))

/-- Bits of the infinity of a format, sign apart. -/
def Fmt.infBits (f : Fmt) : Nat := (2 ^ (f.width - f.p) - 1) * 2 ^ (f.p - 1)
/-- Bits of the largest finite value. -/
def Fmt.maxBits (f : Fmt) : Nat := f.infBits - 1
/-- The canonical NaN (R87). -/
def Fmt.nanBits (f : Fmt) : Nat := f.infBits + 2 ^ (f.p - 2)

/-- Read a value; under FTZ a subnormal is a zero of its sign (R94). -/
def Fmt.read (f : Fmt) (ftz : Bool) (x : Nat) : FV :=
  let t := f.p - 1
  let w := f.width - f.p
  let neg := x / 2 ^ (f.width - 1) % 2 == 1
  let e := x / 2 ^ t % 2 ^ w
  let m := x % 2 ^ t
  if e = 2 ^ w - 1 then (if m = 0 then .inf neg else .nan (m < 2 ^ (t - 1)))
  else if e = 0 then .fin neg (if ftz then 0 else m) (f.emin - t)
  else .fin neg (m + 2 ^ t) (f.emin + e - 1 - t)

/-- Bring an exact result into a format (R91, R92, R94, R95). -/
def Fmt.write (f : Fmt) (rnd r16 : Nat) (ftz sat : Bool) (v : FV) : Nat × FFlags :=
  match v with
  | .nan _ => (f.nanBits, {})
  | .inf s => (s.toNat * 2 ^ (f.width - 1) + (if sat then f.maxBits else f.infBits), {})
  | .fin s 0 _ => (s.toNat * 2 ^ (f.width - 1), {})
  | .fin s m e =>
    let sign := s.toNat * 2 ^ (f.width - 1)
    let q := max (leadExp m e - f.p + 1) (f.emin - f.p + 1)
    let r := roundAt s m e q rnd r16
    if r.1 ≠ 0 ∧ leadExp r.1 q > f.emax then
      (sign + (if sat || overflowToMax s rnd then f.maxBits else f.infBits), { of := true, nx := true })
    else
      let uf := r.2 && tinyAfter f.p f.emin s m e rnd r16
      if r.1 = 0 then (sign, { uf := uf, nx := r.2 })
      else if ftz && decide (leadExp r.1 q < f.emin) then (sign, { uf := true, nx := true })
      else (sign + packMag f.p f.emin r.1 q, { uf := uf, nx := r.2 })

/-- round_f32(x, RNE): subnormals kept, overflow to infinity, NaN canonical. -/
def f32 (v : FV) : Word := BitVec.ofNat 32 (fmt32.write 0 0 false false v).1
/-- The exact value of an f32 register image, subnormals kept. -/
def val32 (x : Word) : FV := fmt32.read false x.toNat

/-! Exact arithmetic. Each answers the value and whether the operation is invalid. -/

/-- m × 2^e as an integer count of 2^q, q ≤ e. -/
def scaled (neg : Bool) (m : Nat) (e q : Int) : Int :=
  let k : Int := (m * 2 ^ (e - q).toNat : Nat)
  if neg then -k else k

/-- a + b; a zero sum of unlike signs is −0 under RDN and +0 otherwise. -/
def FV.add (rnd : Nat) (a b : FV) : FV × Bool :=
  match a, b with
  | .nan _, _ => (.nan false, false)
  | _, .nan _ => (.nan false, false)
  | .inf s, .inf t => if s = t then (.inf s, false) else (.nan false, true)
  | .inf s, _ => (.inf s, false)
  | _, .inf t => (.inf t, false)
  | .fin s m e, .fin t n f =>
    let q := min e f
    let sum := scaled s m e q + scaled t n f q
    if sum = 0 then (.fin (if s = t then s else rnd == 2) 0 0, false) else (.fin (sum < 0) sum.natAbs q, false)

/-- a × b -/
def FV.mul (a b : FV) : FV × Bool :=
  match a, b with
  | .nan _, _ => (.nan false, false)
  | _, .nan _ => (.nan false, false)
  | .inf s, .inf t => (.inf (s != t), false)
  | .inf s, .fin t n _ => if n = 0 then (.nan false, true) else (.inf (s != t), false)
  | .fin s m _, .inf t => if m = 0 then (.nan false, true) else (.inf (s != t), false)
  | .fin s m e, .fin t n f => (.fin (s != t) (m * n) (e + f), false)

/-- a × b + d, exactly; 0 × ∞ is invalid whatever d is (R289). -/
def FV.fma (rnd : Nat) (a b d : FV) : FV × Bool :=
  let ab := a.mul b
  let r := ab.1.add rnd d
  (r.1, ab.2 || r.2)

/-- A value that lies strictly between m × 2^e and (m + 1) × 2^e, close enough for every rounding of it. -/
def FV.between (neg : Bool) (m : Nat) (e : Int) : FV := .fin neg (4 * m + 1) (e - 2)
/-- m × 2^e, or just above it where there is a remainder. -/
def FV.trunc (neg : Bool) (m : Nat) (e : Int) (rest : Bool) : FV := if rest then .between neg m e else .fin neg m e

/-- a / b with b finite and nonzero. -/
def FV.quot (a b : FV) : FV :=
  match a, b with
  | .fin s m e, .fin t n f =>
    let k := bitLen n + 96
    .trunc (s != t) (m * 2 ^ k / n) (e - f - k) (m * 2 ^ k % n != 0)
  | .inf s, .fin t _ _ => .inf (s != t)
  | _, _ => .nan false

/-- The bits of a square root, from bit i down. -/
def sqrtBits (n : Nat) : Nat → Nat → Nat
  | 0, r => r
  | i + 1, r => let c := r + 2 ^ i; sqrtBits n i (if c * c ≤ n then c else r)
/-- Whole square root. -/
def sqrtNat (n : Nat) : Nat := sqrtBits n (bitLen n / 2 + 1) 0

/-- √(m × 2^e), m nonzero. -/
def rootOf (m : Nat) (e : Int) : FV :=
  let e2 := e - e % 2
  let n := m * 2 ^ (e % 2).toNat * 2 ^ 192
  let r := sqrtNat n
  .trunc false r (e2 / 2 - 96) (r * r != n)

/-- 1 / √(m × 2^e), m nonzero. -/
def invRootOf (m : Nat) (e : Int) : FV :=
  let mm := m * 2 ^ (e % 2).toNat
  let k := bitLen mm + 192
  let n := 2 ^ (2 * k) / mm
  let r := sqrtNat n
  .trunc false r (-((e - e % 2) / 2) - k) (r * r * mm != 2 ^ (2 * k))

/-! Functions to 512 bits. -/

/-- 2^512 -/
def one512 : Nat := 2 ^ 512
/-- ln 2 × 2^512 -/
def ln2c : Nat := 0xB17217F7D1CF79ABC9E3B39803F2F6AF40F343267298B62D8A0D175B8BAAFA2BE7B876206DEBAC98559552FB4AFA1B10ED2EAE35C138214427573B291169B825
/-- log₂ e × 2^512 -/
def log2ec : Nat := 0x171547652B82FE1777D0FFDA0D23A7D11D6AEF551BAD2B4B1164A2CD9A342648FBC3887EEAA2ED9AC49B25EEB82D7C167D52173CC1895213F897F5E06A7BE7366
/-- π/2 × 2^640 -/
def halfPic : Nat := 0x1921FB54442D18469898CC51701B839A252049C1114CF98E804177D4C76273644A29410F31C6809BBDF2A33679A748636605614DBE4BE286E9FC26ADADAA3848BC90B6AECC4BCFD8DE89885D34C6FDAD6

/-- Σ x^i / i! from a term on: exponential of x × 2^−512, x < 2^512. -/
def expTerms (x : Nat) : Nat → Nat → Nat → Nat → Nat
  | 0, _, _, acc => acc
  | n + 1, i, t, acc => let t := t * x / one512 / i; expTerms x n (i + 1) t (acc + t)
/-- 2^f × 2^512 for f = x × 2^−512 below 1. -/
def pow2Frac (x : Nat) : Nat := expTerms (x * ln2c / one512) 110 1 one512 one512

/-- Whole and fractional part of a finite value, the fraction in 2^−512; the whole part is clipped to ±8192. -/
def splitFix (neg : Bool) (m : Nat) (e : Int) : Int × Nat :=
  if leadExp m e > 13 then (if neg then -8192 else 8192, 0)
  else
    let k := if e ≥ -512 then m * 2 ^ (e + 512).toNat else m / 2 ^ (-512 - e).toNat
    let x : Int := if neg then -(k : Int) else k
    (max (-8192) (min 8192 (x / (one512 : Int))), (x % (one512 : Int)).toNat)

/-- 2^a. -/
def FV.exp2 : FV → FV
  | .nan _ => .nan false
  | .inf s => if s then .fin false 0 0 else .inf false
  | .fin _ 0 _ => .fin false 1 0
  | .fin s m e =>
    let r := splitFix s m e
    if r.2 = 0 ∧ r.1.natAbs < 8192 then .fin false 1 r.1 else .between false (pow2Frac r.2) (r.1 - 512)

/-- Σ z^(2i+1) / (2i+1) × 2^512, with z2 = z². -/
def atanhTerms (z2 : Nat) : Nat → Nat → Nat → Nat → Nat
  | 0, _, _, acc => acc
  | n + 1, i, t, acc => let t := t * z2 / one512; atanhTerms z2 n (i + 2) t (acc + t / i)
/-- log₂ of a positive value. -/
def log2Of (m : Nat) (e : Int) : FV :=
  let l := bitLen m - 1
  let whole := e + l
  if m = 2 ^ l then FV.ofInt whole
  else
    let y := m * one512 / 2 ^ l
    let z := (y - one512) * one512 / (y + one512)
    let ln := 2 * atanhTerms (z * z / one512) 170 3 z z
    let v := whole * (one512 : Int) + (ln * log2ec / one512 : Nat)
    .between (v < 0) v.natAbs (-512)

/-- Alternating terms of sine or cosine: x2 = x², each term over i(i+1). -/
def trigTerms (x2 : Nat) : Nat → Nat → Nat → Bool → Int → Int
  | 0, _, _, _, acc => acc
  | n + 1, i, t, minus, acc =>
    let t := t * x2 / one512 / (i * (i + 1))
    trigTerms x2 n (i + 2) t (!minus) (if minus then acc - t else acc + t)
/-- Sine × 2^512 of x × 2^−512, x at most π/2. -/
def sinFix (x : Nat) : Int := trigTerms (x * x / one512) 70 2 x true x
/-- Cosine of a reduced argument. -/
def cosFix (x : Nat) : Int := trigTerms (x * x / one512) 70 1 one512 true one512

/-- Sine or cosine of a nonzero finite value in radians: reduction by π/2, then the series. -/
def FV.trig (cos neg : Bool) (m : Nat) (e : Int) : FV :=
  let x := if e ≥ -640 then m * 2 ^ (e + 640).toNat else m / 2 ^ (-640 - e).toNat
  let n := x / halfPic
  let r := x % halfPic / 2 ^ 128
  let v := match (n + (if cos then 1 else 0)) % 4 with
    | 0 => sinFix r
    | 1 => cosFix r
    | 2 => -(sinFix r)
    | _ => -(cosFix r)
  .between ((v < 0) != (neg && !cos)) (v.natAbs - 1) (-512)

/-- e^|x| for x = m × 2^e as (n, f): 2^n × f × 2^−512. -/
def expAbs (m : Nat) (e : Int) : Nat × Nat :=
  let k := if e ≥ -512 then m * 2 ^ (e + 512).toNat else m / 2 ^ (-512 - e).toNat
  let y := k * log2ec / one512
  (y / one512, pow2Frac (y % one512))

/-- tanh of a nonzero finite value. -/
def FV.tanh (neg : Bool) (m : Nat) (e : Int) : FV :=
  if leadExp m e ≥ 8 then .between neg (one512 - 1) (-512)
  else
    let r := expAbs (2 * m) e
    let a := r.2 * 2 ^ r.1
    .between neg ((a - one512) * one512 / (a + one512)) (-512)

/-- 1 / (1 + e^−x) of a nonzero finite value. -/
def FV.sigm (neg : Bool) (m : Nat) (e : Int) : FV :=
  if leadExp m e ≥ 8 then (if neg then .between false 1 (-4096) else .between false (one512 - 1) (-512))
  else
    let r := expAbs m e
    let a := r.2 * 2 ^ r.1
    .between false ((if neg then one512 else a) * 2 ^ 1200 / (a + one512)) (-1200)

/-! Integers and binary8. -/

/-- A finite value rounded to an integer by RND, and whether it is inexact (R96). -/
def FV.toInt (rnd r16 : Nat) (neg : Bool) (m : Nat) (e : Int) : Int × Bool :=
  let r := roundAt neg m e 0 rnd r16
  (if neg then -(r.1 : Int) else r.1, r.2)

/-- Float to integer (R96): clamped to the target's range; NaN gives 0. -/
def intoInt (et rnd r16 : Nat) (v : FV) : Nat × FFlags :=
  let w := eWidth et
  match v with
  | .nan _ => (0, { nv := true })
  | .inf s => (wrapTo w (if s then eMin et else eMax et), { nv := true })
  | .fin s m e =>
    let r := FV.toInt rnd r16 s m e
    if r.1 < eMin et then (wrapTo w (eMin et), { nv := true })
    else if r.1 > eMax et then (wrapTo w (eMax et), { nv := true })
    else (wrapTo w r.1, { nx := r.2 })

/-- A binary8 format (R88, R90). -/
structure B8 where
  p   : Nat
  sgn : Bool
  inf : Bool
  ovf : Nat
  deriving DecidableEq, Repr

/-- The binary8 format that a code names; none where it is reserved or no binary8 code (R90). -/
def b8Of (c : Nat) : Option B8 :=
  if c / 128 % 2 = 1 ∧ c / 16 % 8 ≠ 0 ∧ c % 4 ≠ 3 then some ⟨c / 16 % 8, c / 8 % 2 == 1, c / 4 % 2 == 1, c % 4⟩ else none

/-- Exponent of the smallest normal: 1 − bias (R88). -/
def B8.emin (f : B8) : Int := 1 - (2 ^ ((if f.sgn then 8 - f.p else 9 - f.p) - 1) : Nat)
/-- The code of NaN. -/
def B8.nanCode (f : B8) : Nat := if f.sgn then 0x80 else 0xFF
/-- The largest finite code. -/
def B8.maxCode (f : B8) : Nat := (if f.sgn then 0x7F else 0xFE) - f.inf.toNat

/-- Value of a binary8 code (R88). -/
def B8.read (f : B8) (c : Nat) : FV :=
  let t := f.p - 1
  if c = f.nanCode then .nan false
  else
    let neg := f.sgn && c / 128 % 2 == 1
    let mag := if f.sgn then c % 128 else c
    if f.inf && mag == f.maxCode + 1 then .inf neg
    else if mag / 2 ^ t = 0 then .fin neg (mag % 2 ^ t) (f.emin - t)
    else .fin neg (mag % 2 ^ t + 2 ^ t) (f.emin + (mag / 2 ^ t : Nat) - 1 - t)

/-- Infinity where the format has it, else NaN. -/
def B8.infCode (f : B8) (neg : Bool) : Nat := if f.inf then f.maxCode + 1 + (if neg then 0x80 else 0) else f.nanCode

/-- Magnitude k × 2^q exceeds the largest finite value. -/
def B8.exceeds (f : B8) (k : Nat) (q : Int) : Bool :=
  match f.read f.maxCode with
  | .fin _ m e => decide (scaled false k q (min q e) > scaled false m e (min q e))
  | _ => false

/-- Conversion into binary8 (R97): SAT and FTZ are not read. -/
def B8.write (f : B8) (rnd r16 : Nat) (v : FV) : Nat × FFlags :=
  match v with
  | .nan _ => (f.nanCode, {})
  | .fin _ 0 _ => (0, {})
  | .inf s =>
    if s && !f.sgn then (if f.ovf = 0 then 0 else f.nanCode, { nv := true })
    else if f.ovf = 0 then (f.maxCode + (if s then 0x80 else 0), {})
    else (f.infCode s, {})
  | .fin s m e =>
    let q := max (leadExp m e - f.p + 1) (f.emin - f.p + 1)
    let r := roundAt s m e q rnd r16
    if r.1 = 0 then (0, { uf := true, nx := true })
    else if s && !f.sgn then (if f.ovf = 0 then 0 else f.nanCode, { nv := true })
    else if f.exceeds r.1 q then
      (if f.ovf < 2 || overflowToMax s rnd then f.maxCode + (if s then 0x80 else 0) else f.infCode s,
       { of := true, nx := true })
    else
      ((if s then 0x80 else 0) + packMag f.p f.emin r.1 q,
       { uf := r.2 && tinyAfter f.p f.emin s m e rnd r16, nx := r.2 })

/-- The scale that a b8p1n code stands for (R89). -/
def scaleOf (c : Nat) : FV := B8.read ⟨1, false, false, 0⟩ c

/-! Comparison. -/

/-- a < b for values that are no NaN; −0 equals +0. -/
def FV.lt (a b : FV) : Bool :=
  match a, b with
  | .inf s, .inf t => s && !t
  | .inf s, .fin .. => s
  | .fin .., .inf t => !t
  | .fin s m e, .fin t n f => decide (scaled s m e (min e f) < scaled t n f (min e f))
  | _, _ => false
/-- a = b for values that are no NaN. -/
def FV.eq (a b : FV) : Bool := !a.isNan && !b.isNan && !a.lt b && !b.lt a
/-- minimumNumber (R289): −0 is below +0. -/
def FV.minNum (a b : FV) : FV :=
  if a.isNan then (if b.isNan then .nan false else b)
  else if b.isNan then a
  else if a.lt b then a else if b.lt a then b else if a.isNeg then a else b
/-- maximumNumber (R289). -/
def FV.maxNum (a b : FV) : FV :=
  if a.isNan then (if b.isNan then .nan false else b)
  else if b.isNan then a
  else if a.lt b then b else if b.lt a then a else if a.isNeg then b else a

/-! Operations of R289. -/

/-- The two-operand and three-operand operations. -/
inductive FOp where
  | add | sub | mul | fma | min | max
  deriving DecidableEq, Repr

/-- Exact result and invalidity of an operation on values. -/
def FOp.exact (o : FOp) (rnd : Nat) (a b d : FV) : FV × Bool :=
  match o with
  | .add => a.add rnd b
  | .sub => a.add rnd b.neg
  | .mul => a.mul b
  | .fma => a.fma rnd b d
  | .min => (a.minNum b, false)
  | .max => (a.maxNum b, false)

/-- One element of a floating-point operation, rounded once, with its flags (R87, R289). -/
def FOp.elem (o : FOp) (f : Fmt) (rnd r16 : Nat) (ftz sat : Bool) (a b d : Nat) : Nat × FFlags :=
  let x := f.read ftz a
  let y := f.read ftz b
  let z := f.read ftz d
  let r := o.exact rnd x y z
  let snan := x.isSnan || y.isSnan || (o == .fma && z.isSnan)
  let w := f.write rnd r16 ftz sat r.1
  (w.1, w.2.or { nv := r.2 || snan })

/-- The one-operand operations. -/
inductive UOp where
  | rcp | rsq | sqrt | exp2 | log2 | sin | cos | tanh | sigm
  deriving DecidableEq, Repr

/-- Exact result of a one-operand operation, with NV and DZ (R289). -/
def UOp.exact (o : UOp) (v : FV) : FV × Bool × Bool :=
  match v with
  | .nan _ => (.nan false, false, false)
  | .inf s =>
    match o with
    | .rcp => (.fin s 0 0, false, false)
    | .rsq => if s then (.nan false, true, false) else (.fin false 0 0, false, false)
    | .sqrt | .log2 => if s then (.nan false, true, false) else (.inf false, false, false)
    | .exp2 => ((FV.inf s).exp2, false, false)
    | .sin | .cos => (.nan false, true, false)
    | .tanh => (.fin s 1 0, false, false)
    | .sigm => (.fin false (if s then 0 else 1) 0, false, false)
  | .fin s m e =>
    if m = 0 then
      match o with
      | .rcp | .rsq => (.inf s, false, true)
      | .sqrt | .sin | .tanh => (.fin s 0 0, false, false)
      | .exp2 | .cos => (.fin false 1 0, false, false)
      | .log2 => (.inf true, false, true)
      | .sigm => (.fin false 1 (-1), false, false)
    else
      match o with
      | .rcp => (FV.quot (.fin false 1 0) (.fin s m e), false, false)
      | .rsq => if s then (.nan false, true, false) else (invRootOf m e, false, false)
      | .sqrt => if s then (.nan false, true, false) else (rootOf m e, false, false)
      | .exp2 => ((FV.fin s m e).exp2, false, false)
      | .log2 => if s then (.nan false, true, false) else (log2Of m e, false, false)
      | .sin => (FV.trig false s m e, false, false)
      | .cos => (FV.trig true s m e, false, false)
      | .tanh => (FV.tanh s m e, false, false)
      | .sigm => (FV.sigm s m e, false, false)

/-- One element of a one-operand operation. -/
def UOp.elem (o : UOp) (f : Fmt) (rnd r16 : Nat) (ftz sat : Bool) (a : Nat) : Nat × FFlags :=
  let x := f.read ftz a
  let r := o.exact x
  let w := f.write rnd r16 ftz sat r.1
  (w.1, w.2.or { nv := r.2.1 || x.isSnan, dz := r.2.2 })

/-- FCMP of one element (R290): the condition, and NV. -/
def fcmpElem (f : Fmt) (ftz : Bool) (cond a b : Nat) : Bool × FFlags :=
  let x := f.read ftz a
  let y := f.read ftz b
  let un := x.isNan || y.isNan
  let snan := x.isSnan || y.isSnan
  let ordered := cond == 2 || cond == 3 || cond == 4 || cond == 5
  let r := match cond with
    | 0 => x.eq y
    | 1 => un || !x.eq y
    | 2 => !un && x.lt y
    | 3 => !un && !y.lt x
    | 4 => !un && y.lt x
    | 5 => !un && !x.lt y
    | 6 => un
    | _ => !un
  (r, { nv := snan || (ordered && un) })

/-! Random bits (R100 to R104). -/

/-- Round constants (R102). -/
def roundK : List DWord :=
  [0x9E3779B97F4A7C15#64, 0xBB67AE8584CAA73B#64, 0x3C6EF372FE94F82B#64, 0xA54FF53A5F1D36F1#64, 0x510E527FADE682D1#64,
   0x9B05688C2B3E6C1F#64]

/-- The generator (R101): high and low half of the output. -/
def gen (seed : DWord) (stream : Word) (counter : DWord) : DWord × DWord :=
  roundK.foldl (fun hl k =>
    let a := hl.2 ^^^ (seed ^^^ k)
    let b := a + (a <<< 24)
    (b, hl.1 ^^^ b.rotateLeft 28)) (stream.setWidth 64, counter)

/-- The 128 bits of a draw as a number. -/
def genNat (seed : DWord) (stream : Word) (counter : Nat) : Nat :=
  let r := gen seed stream (BitVec.ofNat 64 counter)
  r.1.toNat * 2 ^ 64 + r.2.toNat

/-- SEED of a key slot. -/
def Group.seedOf (g : Group) (k : Nat) : DWord := tget 0#64 g.seed k
/-- STREAM of a key slot. -/
def Group.streamOf (g : Group) (k : Nat) : Word := tget 0#32 g.stream k

/-- draw_bits (R104). -/
def Group.drawBits (g : Group) (slot e width : Nat) : Nat :=
  let n := 128 / width
  genNat (g.seedOf slot) (g.streamOf slot) (e / n) / 2 ^ (width * (e % n)) % 2 ^ width

/-- Sixteen bits for element h of s that a lane rounds (R92); read only under stochastic rounding. -/
def Group.srBits (g : Group) (p : Path) (ln : Lane) (s h : Nat) : Nat :=
  if mRnd p.mode = 5 then g.drawBits (mSrkey p.mode) (ln.sridx.toNat * s + h) 16 else 0

end Sys2Proof.Machine
end

