-- ==== Sys2Proof/Machine/Memory.lean ====
section
/-! DEFINITION. Memory: bytes wherever they lie, page tables and translations (R107 to R118), the undo log's appends
(R194 to R201, R356), the pool, objects and their destruction (R122 to R131). -/

namespace Sys2Proof.Machine

/-! Bytes. -/

/-- Bytes of a 64 KiB page. -/
def pageSize : Nat := 65536
/-- Device frames: 768 GiB of them (R18). -/
def deviceFrames : Nat := 12582912
/-- A device frame that the start stage makes usable (R261). -/
def State.frameUsable (s : State) (f : Nat) : Bool := f < deviceFrames && (s.host.stage ≥ 2 || f % 12 ≤ 2)

/-- The place `i` bytes further. -/
def Loc.plus : Loc → Nat → Loc
  | .dev pa, i => .dev (pa + i)
  | .host pa, i => .host (pa + i)
  | .pad t o, i => .pad t (o + i)
  | .acc t o, i => .acc t (o + i)
  | .lost, _ => .lost
  | .gone, _ => .gone

/-- Element (row, col) of a tile by its index row × 48 + col; a tile with V = 0 reads +0.0 (R216). -/
def Team.elem (t : Team) (k i : Nat) : Word := if bit t.tV k then tget 0#32 t.el (k * 6144 + i) else 0
/-- A tile is about to be written in part: V and D are set, and elements that were not valid read +0.0 (R217). -/
def Team.touchTile (t : Team) (k : Nat) : Team :=
  { t with el := if bit t.tV k then t.el else t.el.filter fun e => e.1 / 6144 != k,
           tV := setBit t.tV k true, tD := setBit t.tD k true }
/-- Write one element of a valid tile. -/
def Team.setElem (t : Team) (k i : Nat) (x : Word) : Team := { t with el := tset 0#32 t.el (k * 6144 + i) x }
/-- Running maximum of a row; −∞ at start (R216). -/
def Team.maxOf (t : Team) (k row : Nat) : Word := tget 0xFF800000#32 t.rowMax (k * 128 + row)
/-- Running sum of a row; +0.0 at start. -/
def Team.sumOf (t : Team) (k row : Nat) : Word := tget 0#32 t.rowSum (k * 128 + row)
/-- Write a running maximum. -/
def Team.setMax (t : Team) (k row : Nat) (x : Word) : Team := { t with rowMax := tset 0xFF800000#32 t.rowMax (k * 128 + row) x }
/-- Write a running sum. -/
def Team.setSum (t : Team) (k row : Nat) (x : Word) : Team := { t with rowSum := tset 0#32 t.rowSum (k * 128 + row) x }

/-- Word of the accumulator window at a 4-byte slot (R121). -/
def Team.accWord (t : Team) (off : Nat) : Word :=
  if off < 393216 then t.elem (off / 24576) (off % 24576 / 4)
  else
    let k := (off - 393216) / 1024
    let row := (off - 393216) % 1024 / 8
    if off / 4 % 2 = 0 then t.maxOf k row else t.sumOf k row
/-- Write a word of the accumulator window; a store sets V and D of the tile, whether it writes an element or row state
(R121, R217). -/
def Team.setAccWord (t : Team) (off : Nat) (x : Word) : Team :=
  if off < 393216 then (t.touchTile (off / 24576)).setElem (off / 24576) (off % 24576 / 4) x
  else
    let k := (off - 393216) / 1024
    let row := (off - 393216) % 1024 / 8
    let t := t.touchTile k
    if off / 4 % 2 = 0 then t.setMax k row x else t.setSum k row x
/-- Tile of an offset of the accumulator window. -/
def accTile (off : Nat) : Nat := if off < 393216 then off / 24576 else (off - 393216) / 1024

/-- Byte `i` of a word. -/
def byteOf (x : Word) (i : Nat) : Byte := x.extractLsb' (8 * i) 8
/-- A word with byte `i` replaced. -/
def putByte (x : Word) (i : Nat) (b : Byte) : Word :=
  (x &&& ~~~(0xFF#32 <<< (8 * i))) ||| (b.setWidth 32 <<< (8 * i))

/-- Read one byte. -/
def State.byteAt (s : State) : Loc → Byte
  | .dev pa => tget unwritten s.mem pa
  | .host pa => tget unwritten s.hmem pa
  | .pad t o => tget 0 (s.team t).pad o
  | .acc t o => byteOf ((s.team t).accWord (o - o % 4)) (o % 4)
  | .lost => 0
  | .gone => 0

/-- Poison of one byte (R191). -/
def State.poisonAt (s : State) : Loc → Bool
  | .dev pa => tget false s.memPoison pa
  | .pad t o => tget false (s.team t).padPoison o
  | .acc t o => if o < 393216 then bit (s.team t).tP (accTile o) else bit (s.team t).rowP (accTile o)
  | _ => false

/-- The `n` bytes from `a` and the `m` bytes from `b` have one in common. -/
def Loc.meets (a : Loc) (n : Nat) (b : Loc) (m : Nat) : Bool :=
  match a, b with
  | .dev x, .dev y | .host x, .host y => decide (x < y + m) && decide (y < x + n)
  | .pad t x, .pad u y | .acc t x, .acc u y => t == u && decide (x < y + m) && decide (y < x + n)
  | _, _ => false

/-- What stood in `n` bytes before an earlier write is no longer seen by any path. -/
def State.reveal (s : State) (l : Loc) (n : Nat) : State :=
  { s with shadows := s.shadows.filter fun x => !x.loc.meets x.old.length l n }

/-- Write one byte, with the poison that the writer carries; a plain write clears the mark (R191). -/
def State.setByte (s : State) (l : Loc) (b : Byte) (poison : Bool := false) : State :=
  let s := s.reveal l 1
  match l with
  | .dev pa => { s with mem := tset unwritten s.mem pa b, memPoison := tset false s.memPoison pa poison }
  | .host pa => { s with hmem := tset unwritten s.hmem pa b }
  | .pad t o => s.updTeam t fun x => { x with pad := tset 0 x.pad o b, padPoison := tset false x.padPoison o poison }
  | .acc t o => s.updTeam t fun x =>
      let x := x.setAccWord (o - o % 4) (putByte (x.accWord (o - o % 4)) (o % 4) b)
      if poison then { x with tP := setBit x.tP (accTile o) true } else x
  | .lost => s
  | .gone => s

/-- The n bytes from a place upward. -/
def State.bytesAt (s : State) (l : Loc) (n : Nat) : List Byte := (List.range n).map fun i => s.byteAt (l.plus i)
/-- Some of the n bytes from a place upward is poisoned. -/
def State.poisoned (s : State) (l : Loc) (n : Nat) : Bool := (List.range n).any fun i => s.poisonAt (l.plus i)
/-- Write bytes from a place upward. -/
def State.setBytes (s : State) (l : Loc) (bs : List Byte) (poison : Bool := false) : State :=
  match bs with
  | [] => s
  | b :: bs => (s.setByte l b poison).setBytes (l.plus 1) bs poison
/-- The number that n bytes hold, little-endian (R4). -/
def State.numAt (s : State) (l : Loc) (n : Nat) : Nat := natOfBytes (s.bytesAt l n)
/-- A 64-bit entry of device memory. -/
def State.entryAt (s : State) (pa : Nat) : DWord := BitVec.ofNat 64 (s.numAt (.dev pa) 8)
/-- Write a 64-bit entry of device memory. -/
def State.setEntry (s : State) (pa : Nat) (x : DWord) : State := s.setBytes (.dev pa) (bytesOfNat 8 x.toNat)

/-- Copy `n` bytes of device memory with their poison, as one write. -/
def State.copyDev (s : State) (src dst n : Nat) : State :=
  let move {α : Type} (m : Tbl α) (put : Tbl α → Nat → α → Tbl α) : Tbl α :=
    (m.filter fun e => src ≤ e.1 && e.1 < src + n).foldl (fun t e => put t (dst + (e.1 - src)) e.2)
      (m.filter fun e => !(dst ≤ e.1 && e.1 < dst + n))
  { s.reveal (.dev dst) n with mem := move s.mem (tset unwritten), memPoison := move s.memPoison (tset false) }

/-- Zero `n` bytes of device memory. -/
def State.zeroDev (s : State) (pa n : Nat) : State :=
  { s.reveal (.dev pa) n with
    mem := s.mem.filter (fun e => !(pa ≤ e.1 && e.1 < pa + n)),
    memPoison := s.memPoison.filter (fun e => !(pa ≤ e.1 && e.1 < pa + n)) }

/-- Copy `n` bytes of host memory into device memory, as one write. -/
def State.copyHost (s : State) (src dst n : Nat) : State :=
  let t := s.zeroDev dst n
  { t with mem := (s.hmem.filter fun e => src ≤ e.1 && e.1 < src + n).foldl (fun m e => tset unwritten m (dst + (e.1 - src)) e.2) t.mem }

/-! Page table (R107 to R110). -/

/-- Entry bits of R109. -/
def leafV (e : DWord) : Bool := bit e 0
def leafLeaf (e : DWord) : Bool := bit e 1
def leafW (e : DWord) : Bool := bit e 2
def leafX (e : DWord) : Bool := bit e 3
def leafUser (e : DWord) : Bool := bit e 4
def leafA (e : DWord) : Bool := bit e 5
def leafD (e : DWord) : Bool := bit e 6
def leafG (e : DWord) : Bool := bit e 7
def leafDraft (e : DWord) : Bool := bit e 13
def leafHost (e : DWord) : Bool := bit e 14
def leafCw (e : DWord) : Bool := bit e 15
/-- FRAME of an entry. -/
def leafFrame (e : DWord) : Nat := fld e 51 16

/-- Where a walk ends. -/
inductive Walk where
  /-- a leaf: its entry, the address of the entry, a large page -/
  | leaf (e : DWord) (slot : Nat) (large : Bool)
  /-- an entry with V = 0 at a level's address, with the levels below it still absent -/
  | absent (slot levels : Nat)
  /-- an entry that R108 calls malformed -/
  | bad
  deriving DecidableEq, Repr

/-- One level of the walk for each shift left: 42, 29, 16 (R107, R108). -/
def State.walkLevels (s : State) (va : Nat) : List Nat → Nat → Walk
  | [], _ => .bad
  | sh :: rest, frame =>
    if !s.frameUsable frame then .bad
    else
      let slot := frame * pageSize + 8 * (va / 2 ^ sh % 8192)
      let e := s.entryAt slot
      if !leafV e then .absent slot rest.length
      else if fld e 63 52 != 0 then .bad
      else if leafLeaf e then
        if sh = 42 then .bad
        else if sh = 29 && leafFrame e % 8192 != 0 then .bad
        else if !leafHost e && !s.frameUsable (leafFrame e + if sh = 29 then va / pageSize % 8192 else 0) then .bad
        else .leaf e slot (sh == 29)
      else if fld e 15 2 != 0 then .bad
      else s.walkLevels va rest (leafFrame e)

/-- The walk of a context's page table (R107). -/
def State.walk (s : State) (ctx : Nat) (va : DWord) : Walk :=
  s.walkLevels va.toNat [42, 29, 16] (s.ctx ctx).ptroot.toNat

/-- A translation covers an address of a context (R117); a G leaf is shared by every context. -/
def Xlat.covers (x : Xlat) (ctx : Nat) (va : DWord) : Bool :=
  (x.ctx == ctx || leafG x.leaf) && (if x.large then x.page / 8192 == fld va 54 29 else x.page == fld va 54 16)
/-- The physical address under a translation. -/
def Xlat.phys (x : Xlat) (va : DWord) : Nat :=
  if x.large then leafFrame x.leaf * pageSize + fld va 28 0 else leafFrame x.leaf * pageSize + fld va 15 0

/-- Who accesses: a path's lane, an engine for it, or the distributor and the management core for a context. -/
structure Agent where
  ctx   : Nat
  /-- a handler thread, or privileged hardware -/
  priv  : Bool := false
  core  : Option Nat := none
  /-- group key and lane whose last-page register is used -/
  lane  : Option (Nat × Nat) := none
  /-- team whose cluster's windows are reachable -/
  team  : Option Nat := none
  deriving DecidableEq, Repr

/-- The agent that a lane of a group is; no lane for a uniform or engine access. -/
def Group.agent (g : Group) (k : Nat) (lane : Option Nat) : Agent :=
  { ctx := g.ctx, priv := g.isHandler, core := some (coreOf k), lane := lane.map fun l => (k, l),
    team := if g.isHandler then none else some g.team }

/-- A translation is entered into a core's TLB and its die's; entries for the same page are replaced. -/
def State.fillTlb (s : State) (core : Nat) (x : Xlat) : State :=
  let put (t : List Xlat) := x :: t.filter fun y => !(y.slot == x.slot && y.ctx == x.ctx && y.page == x.page)
  let s := s.updCore core fun c => { c with tlb := put c.tlb }
  { s with dieTlb := tput s.dieTlb (core / 24) (put (tget [] s.dieTlb (core / 24))) }

/-- The translation is entered in every register that serves the agent. -/
def State.learn (s : State) (ag : Agent) (x : Xlat) : State :=
  let s := match ag.core with | some c => s.fillTlb c x | none => s
  match ag.lane with
  | some (k, l) => s.onLanes k [l] fun _ ln => { ln with lastPage := some x }
  | none => s

/-- What an agent finds for an address: last-page register, core TLB, die TLB (R117). -/
def State.cached (s : State) (ag : Agent) (va : DWord) : Option Xlat :=
  let last := ag.lane.bind fun e => ((s.group e.1).lane e.2).lastPage
  let core := match ag.core with
    | some c => ((s.core c).tlb ++ tget [] s.dieTlb (c / 24)).find? (·.covers ag.ctx va)
    | none => none
  match last with
  | some x => if x.covers ag.ctx va then some x else core
  | none => core

/-- Translation of an ordinary address (R117): a cached one, else the walk, which sets A (R110). -/
def State.translate (s : State) (ag : Agent) (va : DWord) : State × Option Xlat :=
  match s.cached ag va with
  | some x => (s.learn ag x, some x)
  | none =>
    match s.walk ag.ctx va with
    | .leaf e slot large =>
      let e' := e ||| 0x20#64
      let s := if leafA e then s else s.setEntry slot e'
      let x : Xlat := { ctx := ag.ctx, page := fld va 54 16, leaf := e', slot := slot, large := large }
      (s.learn ag x, some x)
    | _ => (s, none)

/-- A page range of a context, or all of it, is dropped from every TLB and last-page register (R118, R342). -/
def State.invalidate (s : State) (ctx : Nat) (range : Option (Nat × Nat)) (global : Bool) : State :=
  let hit (x : Xlat) : Bool :=
    (if leafG x.leaf then global else x.ctx == ctx) &&
    (match range with
     | none => true
     | some (p, n) =>
       let first := if x.large then x.page / 8192 * 8192 else x.page
       let count := if x.large then 8192 else 1
       decide (first < p + n) && decide (p < first + count))
  let keep (t : List Xlat) := t.filter fun x => !hit x
  { s with
    cores := s.cores.map fun e => (e.1, { e.2 with tlb := keep e.2.tlb }),
    dieTlb := s.dieTlb.map fun e => (e.1, keep e.2),
    groups := s.groups.map fun e => (e.1, { e.2 with lanes := e.2.lanes.map fun l =>
      (l.1, { l.2 with lastPage := match l.2.lastPage with
                | some x => if hit x then none else some x
                | none => none }) }) }

/-! The caches (R14, R16, R17, R112). They hold lines of memory whose bytes are those of memory itself: every access to a line goes
through its one home slice, and what an L1 or a write on its way keeps from a path is said by the shadows (log 58). -/

/-- The die and the slice that are a line's home (R17); a host line's die is 0 (R113). -/
def homeOf (host : Bool) (line : Nat) : Nat × Nat :=
  let pa := line * 128
  (if host then 0 else pa / pageSize % 12 / 3, ((pa / 256 % 32) ^^^ (pa / 65536 % 32)) % 24)

/-- Two lines stand in one set of one slice. -/
def Line.peer (x : Line) (host : Bool) (line : Nat) : Bool :=
  homeOf x.host x.line == homeOf host line && Config.l2Set x.line % 2048 == Config.l2Set line % 2048

/-- The line among some of a set that a fill replaces: the least recently used that is not retain, and of retain lines where there
is no other (R112). -/
def victimOf (xs : List Line) : Option Line :=
  match (xs.filter fun x => !x.retain).getLast? with
  | some x => some x
  | none => xs.getLast?

/-- An access reaches a line's home slice: a line held anywhere in it is found; else the policy CP fills it into a way of the
partition WAYP (R16, R112), the lower where both are free (DESIGN CHOICE, log 58). -/
def State.l2Access (s : State) (host : Bool) (line cp wayp : Nat) : State :=
  match s.l2.find? fun x => x.host == host && x.line == line with
  | some x => { s with l2 := x :: s.l2.filter (· != x) }
  | none =>
    if cp = 3 then s
    else
      let mine := s.l2.filter fun x => x.peer host line && x.way / 2 == wayp
      let new (way : Nat) (old : List Line) : State :=
        let x : Line := { host := host, line := line, way := way, retain := cp == 2 }
        { s with l2 := if cp = 1 then old ++ [x] else x :: old }
      match [2 * wayp, 2 * wayp + 1].find? fun w => !mine.any (·.way == w), victimOf mine with
      | some w, _ => new w s.l2
      | none, some v => new v.way (s.l2.filter (· != v))
      | none, none => s

/-- Lines of an L1 (R14). -/
def l1Lines : Nat := 1024

/-- A load goes through its core's L1, which holds lines of pages with CP 0 or 2; a miss goes to the home slice (R14, R112). -/
def State.cachedRead (s : State) (core : Nat) (host : Bool) (line cp wayp : Nat) : State :=
  let key := line * 2 + host.toNat
  if (s.core core).l1.contains key then
    s.updCore core fun c => { c with l1 := key :: c.l1.filter (· != key) }
  else
    let s := s.l2Access host line cp wayp
    if cp = 0 ∨ cp = 2 then s.updCore core fun c => { c with l1 := (key :: c.l1).take l1Lines } else s

/-- A store writes through, and its core's L1 drops the line (R112). -/
def State.cachedWrite (s : State) (core : Option Nat) (host : Bool) (line cp wayp : Nat) : State :=
  let s := match core with
    | some c => s.updCore c fun x => { x with l1 := x.l1.filter (· != line * 2 + host.toNat) }
    | none => s
  s.l2Access host line cp wayp

/-- The home slice's copy of a device line is invalidated (R19). -/
def State.l2Drop (s : State) (line : Nat) : State := { s with l2 := s.l2.filter fun x => x.host || x.line != line }

/-- A core's L1 is discarded (R152). -/
def State.l1Discard (s : State) (core : Nat) : State := s.updCore core fun c => { c with l1 := [] }

/-! The undo log. -/

/-- Who writes a log entry (R194). -/
structure Writer where
  ctx    : Nat
  tid    : Nat := 0
  hnd    : Bool := false
  gid    : Nat := 0
  lane   : Nat := 0
  window : Word := 0xFFFFFFFF
  deriving DecidableEq, Repr

/-- The writer that a lane of a group is; a handler writes for its team. -/
def State.writer (s : State) (k lane : Nat) : Writer :=
  let g := s.group k
  let t := s.team g.team
  { ctx := g.ctx, tid := t.tid, hnd := g.isHandler, gid := if g.isHandler then partOf k else g.gid, lane := lane,
    window := t.logwin }

/-- The writer for whom an operation in flight writes. -/
def State.opWriter (s : State) (o : Op) : Writer :=
  { ctx := o.team / 4194304, tid := o.team % 4194304, hnd := o.hnd, gid := o.gid, lane := o.lane,
    window := (s.team o.team).logwin }

/-- The log of the context takes entries. -/
def Ctx.logging (c : Ctx) : Bool := c.logEn && !c.logStop
/-- Entries of the ring (R197). -/
def Ctx.slots (c : Ctx) : Nat := 2 ^ fld c.logcfg 4 0

/-- The entry records a write that a rewind can undo. -/
def LogEntry.isWrite (e : LogEntry) : Bool := e.kind == 1 || e.kind == 2 || e.kind == 3
/-- The reason of an IRREV entry. -/
def LogEntry.reason (e : LogEntry) : Nat := if e.kind = 4 then natOfBytes (e.old.take 1) else 0
/-- The entry covers bytes of device memory or scratchpad (R195). -/
def LogEntry.covers (e : LogEntry) : Bool := e.isWrite || e.reason == 1

/-- An entry dirties its page, or opens its window (R199, R206). -/
def Ctx.noted (c : Ctx) (e : LogEntry) : Ctx :=
  let page := e.addr / pageSize
  { c with opened := if e.kind = 5 then tput c.opened e.window.toNat e.seq else c.opened,
           dirtied := if e.covers && e.space == 0
             then c.dirtied.filter (fun x => !(x.1 == page && x.2.1 == e.tid && x.2.2.1 == e.lane)) ++ [(page, e.tid, e.lane, e.seq)]
             else c.dirtied }

/-- An entry with its sequence number. -/
def Ctx.append (c : Ctx) (e : LogEntry) : Ctx :=
  let e := { e with seq := c.seq + 1 }
  { c.noted e with ring := c.ring ++ [e], seq := c.seq + 1 }

/-- The 96 bytes of an entry (R194). -/
def LogEntry.bytes (e : LogEntry) : List Byte :=
  let addr := if e.space = 1 then e.padTeam % 4194304 * 2 ^ 30 + e.addr else e.addr
  bytesOfNat 8 (addr + 16 * e.space + e.kind) ++ bytesOfNat 4 e.window.toNat ++
  bytesOfNat 4 (e.tid * 1024 + e.hnd.toNat * 512 + e.group * 32 + e.lane) ++ bytesOfNat 8 e.bmask.toNat ++
  bytesOfNat 8 e.seq ++ e.old ++ List.replicate (64 - e.old.length) 0

/-- Address of an entry in the ring of a context: one slot after another, from a slot that the spec does not name (log 5). -/
def Ctx.ringAddr (c : Ctx) (e : LogEntry) : Nat :=
  c.logbase.toNat * pageSize + 96 * ((e.seq + Config.ringStart c.logbase.toNat) % c.slots)

/-- Entries stand in the ring's memory as the Graver writes them: in no log, and no event (R196, R194). -/
def State.inscribe (s : State) (c : Ctx) (es : List LogEntry) : State :=
  es.foldl (fun (s : State) e => s.setBytes (.dev (c.ringAddr e)) e.bytes) s

/-- An update of a context that appends entries, which stand in the ring's memory from then on. -/
def State.updLog (s : State) (ctx : Nat) (f : Ctx → Ctx) : State :=
  let c := f (s.ctx ctx)
  (s.updCtx ctx f).inscribe c (c.ring.filter fun e => e.seq > (s.ctx ctx).seq)

/-- Entries that the units of a copy append: one for the destination, one for the barrier object (R196, R240). -/
def unitEntries (us : List CopyUnit) : Nat := us.foldl (fun n u => n + 1 + u.bar.isSome.toNat) 0

/-- Context of an operation. -/
def Op.ctx (o : Op) : Nat := o.team / 4194304

/-- Entries reserved for detached work not yet performed (R196). -/
def State.reserved (s : State) (ctx : Nat) : Nat :=
  s.ops.foldl (fun n o =>
    if o.ctx = ctx then
      match o.work with | .copy us => n + unitEntries us | _ => n
    else n) 0

/-- DROP-OLDEST: drop up to the second-oldest OPEN entry, exclusive; all where only one remains (R201). -/
def dropOldest (ring : List LogEntry) : List LogEntry :=
  let behind := (ring.dropWhile (·.kind != 5)).drop 1
  behind.dropWhile (·.kind != 5)

/-- Drop until `need` entries fit in `room` slots. -/
def dropUntil (room need : Nat) : Nat → List LogEntry → List LogEntry
  | 0, ring => ring
  | n + 1, ring => if ring.length + need ≤ room then ring else dropUntil room need n (dropOldest ring)

/-- STOP: a STOP entry if room remains in the slots that the reservation may use, and logging stops (R201). -/
def Ctx.stopLog (room : Nat) (c : Ctx) : Ctx :=
  { (if c.ring.length < room then c.append { kind := 8 } else c) with logStop := true }

/-- A reservation of `n` entries (R201, R356); none is LOG-FULL. `quiet` is an append made for no instruction, which
never stops anything. -/
def State.reserve (s : State) (ctx n : Nat) (hnd quiet : Bool := false) : Option State :=
  let c := s.ctx ctx
  if !c.logging || n = 0 then some s
  else
    let room := c.slots - s.reserved ctx - (if hnd then 0 else 64)
    if c.ring.length + n ≤ room then some s
    else
      let dropped := dropUntil room n (c.ring.length + 1) c.ring
      let drop := if dropped.length + n ≤ room then s.updCtx ctx (fun c => { c with ring := dropped })
                  else s.updLog ctx (Ctx.stopLog room)
      match fld c.logcfg 31 30 with
      | 0 => if quiet then some drop else none
      | 1 => some drop
      | _ => some (s.updLog ctx (Ctx.stopLog room))

/-- A mask of the bytes [o, o + n) of a 64-byte chunk. -/
def byteMask (o n : Nat) : DWord := BitVec.ofNat 64 ((2 ^ n - 1) * 2 ^ o)

/-- The entry of a write of n bytes at a place, which lies in one chunk (R194, R195). -/
def State.writeEntry (s : State) (w : Writer) (kind : Nat) (l : Loc) (n : Nat) : LogEntry :=
  let base : LogEntry := { kind := kind, window := w.window, tid := w.tid, hnd := w.hnd, group := w.gid, lane := w.lane }
  match l with
  | .dev pa => { base with addr := pa - pa % 64, bmask := byteMask (pa % 64) n, old := s.bytesAt (.dev (pa - pa % 64)) 64 }
  | .pad t o => { base with space := 1, padTeam := t, addr := o - o % 64, bmask := byteMask (o % 64) n,
                            old := s.bytesAt (.pad t (o - o % 64)) 64 }
  | .host pa => { base with kind := 4, addr := pa - pa % 64, bmask := byteMask (pa % 64) n, old := bytesOfNat 64 2 }
  | _ => base

/-- Entries that a write to a place takes: none for accumulator memory and lost frames (R196). -/
def Loc.logs : Loc → Bool
  | .dev _ | .pad .. | .host _ => true
  | _ => false

/-- The entry that a write appends as it is performed (R196). -/
def State.logWrite (s : State) (w : Writer) (kind : Nat) (l : Loc) (n : Nat) : State :=
  if (s.ctx w.ctx).logging && l.logs then s.updLog w.ctx fun c => c.append (s.writeEntry w kind l n) else s

/-- The entry of an irreversible effect (R195). -/
def State.logIrrev (s : State) (w : Writer) (reason : Nat) (addr : Nat := 0) (bmask : DWord := 0) : State :=
  if (s.ctx w.ctx).logging then
    s.updLog w.ctx fun c => c.append { kind := 4, window := w.window, tid := w.tid, hnd := w.hnd, group := w.gid,
                                       lane := w.lane, addr := addr, bmask := bmask, old := bytesOfNat 64 reason }
  else s

/-- A logged write of bytes: the entry and the write are one indivisible step (R196). -/
def State.store (s : State) (w : Writer) (kind : Nat) (l : Loc) (bs : List Byte) (poison : Bool := false) : State :=
  (s.logWrite w kind l bs.length).setBytes l bs poison

/-- The team publishes (R203). -/
def State.publish (s : State) (team : Nat) : State :=
  s.updTeam team fun t => { t with pubseq := (s.ctx t.ctx).seq, published := true }

/-- The context publishes at system scope (R203). -/
def State.publishSys (s : State) (ctx : Nat) : State := s.updCtx ctx fun c => { c with sysPub := c.seq }

/-- Two teams share a cluster: one grid, one rectangle of it (R27). -/
def Team.sameCluster (a b : Team) : Bool :=
  a.ctx == b.ctx && a.grid == b.grid && a.z == b.z && a.x / a.cw == b.x / b.cw && a.y / a.ch == b.y / b.ch

/-- An operation of team `a` at a scope includes the lanes of team `b` (R134). -/
def State.includesTeam (s : State) (scope a b : Nat) : Bool :=
  match scope with
  | 0 | 1 => a == b
  | 2 => (s.team a).sameCluster (s.team b)
  | _ => true

/-- A release by a team at a scope, on a line where it is a write (R203, R137). -/
def State.release (s : State) (k : Nat) (scope : Nat) (line : Option Nat) : State :=
  let g := s.group k
  if g.isHandler then (if scope ≥ 4 then s.publishSys g.ctx else s)
  else
    let s := if scope ≥ 2 then s.publish g.team else s
    let s := if scope ≥ 4 then s.publishSys g.ctx else s
    match line with
    | some n => if (scope = 1 || scope = 2) && !s.released.contains (n, g.team)
                then { s with released := s.released ++ [(n, g.team)] } else s
    | none => s

/-- A remote acquire promotes the release of every team that the home slice recorded on the line (R137, R203). -/
def State.promote (s : State) (k line : Nat) : State :=
  let me := (s.group k).team
  s.released.foldl (fun s e => if e.1 = line && e.2 != me then s.publish e.2 else s) s

/-! What a path sees of writes in progress (R135, R141). Memory holds the latest write at each location. Until the operation that
makes a write has completed, a path that nothing orders behind it may still read the bytes that stood there before. -/

/-- How shadows name a path. -/
def State.seer (s : State) (r : PathRef) : Nat × Nat × Nat := (r.group, (s.group r.group).placed, r.path)

/-- The shadows of writes that a path has not seen. -/
def State.behind (s : State) (r : PathRef) : List Shadow := s.shadows.filter (·.unseen.contains (s.seer r))

/-- Those of them whose old bytes the path reads in this step, which is the device's choice (log 3). -/
def State.stale (s : State) (r : PathRef) : List Shadow :=
  (s.behind r).filter fun x => Config.freeChoice s.free (4096 + x.id) % 2 == 1

/-- Names of those shadows. -/
def State.staleIds (s : State) (r : PathRef) : List Nat := (s.stale r).map (·.id)

/-- The state whose memory is what a path reads in this step. -/
def State.view (s : State) (r : PathRef) : State := (s.stale r).foldl (fun (t : State) x => t.setBytes x.loc x.old) s

/-- A path has seen some of the writes. -/
def State.see (s : State) (r : PathRef) (which : Shadow → Bool) : State :=
  { s with shadows := s.shadows.map fun x => if which x then { x with unseen := x.unseen.filter (· != s.seer r) } else x }

/-- A path has seen what it, or its engine for it, reads of some regions, but for the writes whose old bytes it reads (R132, R144). -/
def State.saw (s : State) (r : PathRef) (regions : List (Loc × Nat)) (stale : List Nat := []) : State :=
  s.see r fun x => !stale.contains x.id && regions.any fun e => x.loc.meets x.old.length e.1 e.2

/-- The paths of the groups that `which` picks, as shadows name them. -/
def State.seers (s : State) (which : Nat → Group → Bool) : List (Nat × Nat × Nat) :=
  (s.groups.filter fun e => e.2.used && which e.1 e.2).flatMap fun e => e.2.entries.map fun p => (e.1, e.2.placed, p.1)

/-- One of some paths has seen a write. -/
def Shadow.seenBy (x : Shadow) (es : List (Nat × Nat × Nat)) : Bool := es.any fun e => !x.unseen.contains e

/-- Some paths have each seen what one of them has seen (R138). -/
def State.mergeSeen (s : State) (es : List (Nat × Nat × Nat)) : State :=
  { s with shadows := s.shadows.map fun x => if x.seenBy es then { x with unseen := x.unseen.filter (!es.contains ·) } else x }

/-- A path is ordered behind every attached event so far, and behind what any other path has seen. -/
def State.seeAll (s : State) (r : PathRef) : State :=
  let others := (s.seers fun _ _ => true).filter (· != s.seer r)
  s.see r fun x => !x.detached || x.seenBy others

/-- A wait for flags is over: the path goes on behind what the operations counted have read, which the paths of its group have seen
(R142). -/
def State.seeGroup (s : State) (r : PathRef) : State :=
  let es := s.seers fun k _ => k == r.group
  s.see r (·.seenBy es)

/-- A WAITF of a group is over: the later events of all its paths go behind what the operations counted have read (R142). -/
def State.seeFlag (s : State) (k : Nat) : State := s.mergeSeen (s.seers fun x _ => x == k)

/-- The paths that hold lanes of an operation's have seen the writes at `n` bytes from a place, which the operation reads: its later
events follow (R132, R144). -/
def State.sawFor (s : State) (o : Op) (l : Loc) (n : Nat) : State :=
  let g := s.group o.group
  let es := if g.placed = o.gen then
    (g.entries.filter fun e => e.2.mask &&& o.lanes != 0).map fun e => (o.group, g.placed, e.1) else []
  { s with shadows := s.shadows.map fun x =>
      if x.loc.meets x.old.length l n then { x with unseen := x.unseen.filter (!es.contains ·) } else x }

/-- An operation of a path includes another path's (R134). -/
def State.includes (s : State) (scope k t k' t' : Nat) : Bool := if scope = 0 then k == k' else s.includesTeam scope t t'

/-- A path is ordered behind the attached events of the parties that a scope includes, and behind what these have seen (R135, R139,
log 3). A handler belongs to no team: every scope includes it, and its own include all (log 3). -/
def State.seeWithin (s : State) (r : PathRef) (scope : Nat) : State :=
  let g := s.group r.group
  let near (k t : Nat) : Bool := g.isHandler || (s.group k).isHandler || s.includes scope r.group g.team k t
  let others := (s.seers fun k h => near k h.team).filter (· != s.seer r)
  s.see r fun x => x.seenBy others || (!x.detached && s.ops.any fun o => o.id == x.op && (o.hnd || near o.group o.team))

/-- The releases with which an acquire of a path synchronises: those whose writes it reads from, or that a release sequence carries
on; for a remote acquire every release of the location that its scope includes (R136, R137). A handler is in every scope, and its own
include all (log 3). -/
def State.releasesRead (s : State) (r : PathRef) (m : Word) (n : Nat) (locs : List Loc) (stale : List Nat) : List Rel :=
  let g := s.group r.group
  s.rels.filter fun y =>
    locs.any (fun l => y.loc.meets y.bytes l n) && !stale.contains y.own && (mMord m == 4 || !y.cut) &&
    (g.isHandler || y.group ≥ handlerKey 0 0 || (s.includes (mScope m) r.group g.team y.group y.team &&
      (mMord m == 4 || s.includes y.scope y.group y.team r.group g.team)))

/-- MORD has an acquire part (R135). -/
def acquires (m : Word) : Bool := mMord m == 1 || mMord m == 3 || mMord m == 4
/-- MORD has a release part. -/
def releases (m : Word) : Bool := mMord m == 2 || mMord m == 3

/-- The order parts of reads of `n` bytes by a path (R135 to R137, R152): it has seen the writes that it reads, and with an acquire
what their releases order; an acquire at cluster scope or wider discards its core's L1. `stale` names the shadows whose old bytes it
reads. -/
def State.readBy (s : State) (r : PathRef) (m : Word) (n : Nat) (locs : List Loc) (stale : List Nat := []) : State :=
  let known := if acquires m then (s.releasesRead r m n locs stale).flatMap (·.knows) else []
  let t := s.see r fun x => known.contains x.id || (!stale.contains x.id && locs.any fun l => x.loc.meets x.old.length l n)
  let t := if acquires m && (mMord m == 4 || mScope m ≥ 2) then t.l1Discard (coreOf r.group) else t
  if mMord m = 4 then
    locs.foldl (fun t l => match l with | .dev pa => t.promote r.group (pa / 128) | _ => t) t
  else t

/-- The paths for which a write is not performed at once: those that can read before an event orders them behind it. A path that
is frozen, or that is parked at a merge or a regrouping, goes on only behind what was issued before; so does one parked at a barrier,
but for detached events (R138). -/
def Path.lags (p : Path) (detached : Bool) : Bool :=
  match p.state with
  | .empty | .frozen | .regang => false
  | .barwait => (match p.wait with | .monitor _ => true | .compact => false | _ => detached)
  | _ => true

/-- The paths that may lag behind a write. -/
def State.lagging (s : State) (detached : Bool) : List (Nat × Nat × Nat) :=
  (s.groups.filter fun e => e.2.used).flatMap fun e => (e.2.paths.filter fun p => p.2.lags detached).map fun p =>
    (e.1, e.2.placed, p.1)

/-- Elements of a list, each once. -/
def distinct {α : Type} [BEq α] (xs : List α) : List α := xs.foldl (fun l x => if l.contains x then l else l ++ [x]) []

/-- The writes that an operation about to be issued by a path has made at some places, from the state before them: paths other than
its own may lag behind them, and its own behind a detached one. -/
def State.castFrom (s : State) (before : State) (r : PathRef) (detached : Bool) (n : Nat) (locs : List Loc)
    (kind : Nat := 2) : State :=
  let lag := (s.lagging detached).filter fun e => detached || e != s.seer r
  let new := ((distinct locs).zipIdx).filterMap fun e =>
    let old := before.bytesAt e.1 n
    if lag.isEmpty || before.poisoned e.1 n || old == s.bytesAt e.1 n then none
    else some ({ id := s.nextShadow + e.2, op := s.nextOp, kind := kind, loc := e.1, old := old, detached := detached, unseen := lag } : Shadow)
  { s with shadows := s.shadows ++ new, nextShadow := s.nextShadow + (distinct locs).length }

/-- The release of a write at some places, after `castFrom`: it orders what its path has seen (R136). `own` names the first of the
shadows of the writes. -/
def State.recordRelease (s : State) (r : PathRef) (scope n : Nat) (locs : List Loc) (own : Nat) : State :=
  let g := s.group r.group
  let knows := (s.shadows.filter fun x => !x.unseen.contains (s.seer r)).map (·.id)
  if knows.isEmpty then s
  else { s with rels := s.rels ++ ((distinct locs).zipIdx).map fun e =>
    { loc := e.1, bytes := n, group := r.group, team := g.team, scope := scope, own := own + e.2, knows := knows } }

/-- A write that is no atomic pair ends the release sequences of its location (R136). -/
def State.cutReleases (s : State) (n : Nat) (locs : List Loc) : State :=
  { s with rels := s.rels.map fun y => if locs.any (fun l => y.loc.meets y.bytes l n) then { y with cut := true } else y }


/-- The 128-byte line of device memory at which a release is recorded. -/
def Loc.devLine : Loc → Option Nat
  | .dev pa => some (pa / 128)
  | _ => none

/-- A release of a path at a scope by writes at some places (R137, R203). -/
def State.releaseLines (s : State) (k scope : Nat) (locs : List Loc) : State :=
  locs.foldl (fun s l => s.release k scope l.devLine) s

/-- The first write of `n` bytes that a path issues after a release fence, at some places, is a release at the fence's scope (R135,
R136); `own` is as for `recordRelease`. -/
def State.releaseFence (s : State) (r : PathRef) (n : Nat) (locs : List Loc) (own : Nat) : State :=
  match (s.path r).relFence with
  | some sc =>
    if locs.isEmpty then s
    else ((s.recordRelease r sc n locs own).releaseLines r.group sc locs).updPath r fun p => { p with relFence := none }
  | none => s

/-- The same for writes of which no shadow is kept. -/
def State.spendFence (s : State) (r : PathRef) (n : Nat) (locs : List Loc) : State :=
  { s.releaseFence r n locs s.nextShadow with nextShadow := s.nextShadow + (distinct locs).length }

/-- Armed 128-byte lines of an access: device lines, host lines and scratchpad lines apart. -/
def Loc.line : Loc → Option Nat
  | .dev pa => some (pa / 128 * 3)
  | .host pa => some (pa / 128 * 3 + 1)
  | .pad t o => some ((t * 4096 + o / 128) * 3 + 2)
  | _ => none

/-- A write to a line wakes the monitors armed on it: the paths are due to wake (R153). -/
def State.touch (s : State) (l : Loc) : State :=
  match l.line with
  | none => s
  | some n =>
    let hit (p : Path) : Bool := match p.wait with | .monitor ls => ls.contains n | _ => false
    if s.groups.any fun e => e.2.paths.any fun p => hit p.2 then
      { s with groups := s.groups.map fun e => (e.1, { e.2 with paths := e.2.paths.map fun p =>
          (p.1, if hit p.2 then { p.2 with wait := .monitor [] } else p.2) }) }
    else s

/-- The order parts of the writes of `n` bytes that a path has made at some places: what may lag behind them, their releases (R135),
and monitors (R153). -/
def State.wrote (s before : State) (r : PathRef) (m : Word) (atomic detached : Bool) (n : Nat) (locs : List Loc) (kind : Nat := 2) :
    State :=
  let t := s.castFrom before r detached n locs kind
  let t := if atomic then { t with shadows := t.shadows.map fun x => { x with pair := x.pair || decide (x.id ≥ s.nextShadow) } }
    else t.cutReleases n locs
  let t := if releases m then (t.recordRelease r (mScope m) n locs s.nextShadow).releaseLines r.group (mScope m) locs else t
  (locs.foldl State.touch t).releaseFence r n locs s.nextShadow

/-- Writes are performed as their operations complete and as the paths they were kept from have come behind them (R138, R142, R147);
a write that is now performed wakes the monitors armed on its lines (R153). -/
def State.pruneShadows (s : State) : State :=
  let att := s.lagging false
  let det := s.lagging true
  let left (x : Shadow) : List (Nat × Nat × Nat) :=
    if s.ops.any (fun o => o.id == x.op && !o.done) then x.unseen.filter fun e => (if x.detached then det else att).contains e else []
  let (gone, xs) := (s.shadows.map fun x => { x with unseen := left x }).partition (·.unseen.isEmpty)
  let t := gone.foldl (fun (t : State) x => (t.touch x.loc).touch (x.loc.plus (x.old.length - 1))) s
  { t with shadows := xs, rels := s.rels.filter fun y => y.knows.any fun i => xs.any (·.id == i) }

/-- A store of `n` bytes at one place may come in coherence order before a plain write in progress there that its path has not seen
(R144, R147): that write, where the device so chooses (log 3). A release comes last, and so does a store that is logged. -/
def State.under (s : State) (r : PathRef) (m : Word) (n : Nat) : List Loc → Option Nat
  | [l] =>
    if releases m || (s.path r).relFence.isSome || (s.ctx (s.group r.group).ctx).logging then none
    else ((s.behind r).find? fun x =>
      x.loc == l && x.old.length == n && !x.pair && Config.freeChoice s.free (8192 + x.id) % 2 == 1).map (·.id)
  | _ => none

/-- The store comes before that write: what paths read that have not seen the other is its bytes, and the location keeps the other's. -/
def State.layUnder (s : State) (id : Nat) (bs : List Byte) : State :=
  { s with shadows := s.shadows.map fun x => if x.id = id then { x with old := bs } else x }

/-- Where a place that an operation reached stands as it is performed: in a frame that has been lost since, nowhere (R114). -/
def State.nowAt (s : State) (l : Loc) : Loc :=
  match l with
  | .dev pa => if tget false s.lost (pa / pageSize) then .lost else l
  | _ => l

/-! Pool and objects. -/

/-- Free frames of the pool (R126). -/
def State.poolFree (s : State) : Nat := s.pool.foldl (fun n e => n + e.2) 0

/-- One frame leaves the pool; its lost mark clears (R114). -/
def State.takeFrame (s : State) : Option (State × Nat) :=
  match s.pool with
  | [] => none
  | (f, n) :: rest =>
    some ({ s with pool := if n ≤ 1 then rest else (f + 1, n - 1) :: rest, lost := terase s.lost f }, f)

/-- A frame leaves the pool zeroed. -/
def State.takeZeroFrame (s : State) : Option (State × Nat) :=
  match s.takeFrame with
  | some (s, f) => some (s.zeroDev (f * pageSize) pageSize, f)
  | none => none

/-- A frame returns to the pool. -/
def State.giveFrame (s : State) (f : Nat) : State := { s with pool := s.pool ++ [(f, 1)] }

/-- An entry of the object table (R123). -/
structure Obj where
  scount  : Nat := 0
  prio    : Nat := 8
  frozen  : Bool := false
  alive   : Bool := false
  gen     : Nat := 0
  base    : DWord := 0
  size    : Nat := 0
  version : Nat := 0
  birth   : Nat := 0
  deriving DecidableEq, Repr

/-- Address of an object-table entry. -/
def State.objAddr (s : State) (ctx index : Nat) : Nat := (s.ctx ctx).objtab.toNat * pageSize + 32 * index

/-- Read an object-table entry (R123); PRIO of one that nothing has written: DEDUCED, log 68. -/
def State.obj (s : State) (ctx index : Nat) : Obj :=
  let a := s.objAddr ctx index
  let life := s.entryAt a
  let w2 := s.entryAt (a + 16)
  { scount := fld life 63 32, prio := fld life 15 12, frozen := bit life 11, alive := bit life 8, gen := fld life 7 0,
    base := s.entryAt (a + 8), size := fld w2 37 0, version := s.numAt (.dev (a + 24)) 4,
    birth := fld w2 63 40 * 2 ^ 32 + s.numAt (.dev (a + 28)) 4 }

/-- Write an object-table entry. -/
def State.setObj (s : State) (ctx index : Nat) (o : Obj) : State :=
  let a := s.objAddr ctx index
  let life := o.scount * 2 ^ 32 + o.prio * 2 ^ 12 + o.frozen.toNat * 2 ^ 11 + o.alive.toNat * 2 ^ 8 + o.gen
  let w2 := o.birth / 2 ^ 32 % 2 ^ 24 * 2 ^ 40 + o.size
  (s.setBytes (.dev a) (bytesOfNat 8 life ++ bytesOfNat 8 o.base.toNat ++ bytesOfNat 8 w2 ++ bytesOfNat 4 o.version ++
    bytesOfNat 4 o.birth)).touch (.dev a)

/-- GEN, INDEX and OFFSET of an object address (R122). -/
def oaWeak (a : DWord) : Bool := bit a 61
def oaGen (a : DWord) : Nat := fld a 60 53
def oaIndex (a : DWord) : Nat := fld a 52 37
def oaOffset (a : DWord) : Nat := fld a 36 0
/-- An object address (R122). -/
def objectAddr (weak : Bool) (gen index offset : Nat) : DWord :=
  BitVec.ofNat 64 (2 ^ 62 + weak.toNat * 2 ^ 61 + gen % 256 * 2 ^ 53 + index * 2 ^ 37 + offset)
/-- The object that an address names is alive with its generation (R124). -/
def State.objAlive (s : State) (ctx : Nat) (a : DWord) : Bool :=
  let o := s.obj ctx (oaIndex a)
  o.alive && o.gen == oaGen a

/-- The pages of an object's range, as leaf addresses and entries. -/
def State.objLeaves (s : State) (ctx index : Nat) : List (Nat × DWord) :=
  match (s.ctx ctx).ranges.find? fun r => r.2.2 == index with
  | none => []
  | some (p, n, _) =>
    (List.range n).filterMap fun i =>
      match s.walk ctx (BitVec.ofNat 64 ((p + i) * pageSize)) with
      | .leaf e slot _ => some (slot, e)
      | _ => none

/-- Some object other than (ctx, index) maps the frame, through copy-on-write sharing (R129). -/
def State.frameShared (s : State) (ctx index frame : Nat) : Bool :=
  s.ctxs.any fun c => c.2.ranges.any fun r =>
    !(c.1 == ctx && r.2.2 == index) && (s.objLeaves c.1 r.2.2).any fun e => leafFrame e.2 == frame

/-- Detached work still to be performed touches a frame. -/
def State.frameBusy (s : State) (frame : Nat) : Bool :=
  let hit : Loc → Bool := fun l => match l with | .dev pa => pa / pageSize == frame | _ => false
  s.ops.any fun o =>
    match o.work with
    | .copy us => us.any fun u => hit u.src || hit u.dst
    | .memorySide us => us.any fun u => hit u.loc
    | _ => false
/-- A write to a frame is not yet performed for every path. -/
def State.frameWritten (s : State) (frame : Nat) : Bool :=
  s.shadows.any fun x => match x.loc with | .dev pa => pa / pageSize == frame | _ => false

/-- The destruction point (R129): ALIVE clears and GEN goes up, in one update of the life word. -/
def State.destroyPoint (s : State) (ctx index : Nat) : State :=
  let o := s.obj ctx index
  s.setObj ctx index { o with alive := false, gen := (o.gen + 1) % 256 }

/-- Steps 3 and 4 of a destruction: the pages are unmapped, frames no other object maps return to the pool, the range
returns to the region and the index is free (R122, R129). -/
def State.destroyRest (s : State) (ctx index : Nat) : State :=
  let leaves := s.objLeaves ctx index
  let range := ((s.ctx ctx).ranges.find? fun r => r.2.2 == index)
  let s := leaves.foldl (fun s e =>
    let shared := s.frameShared ctx index (leafFrame e.2)
    let s := s.setEntry e.1 0
    if shared || leafHost e.2 then s
    else
      let s := s.giveFrame (leafFrame e.2)
      match s.reserve ctx 1 false true with
      | some s => s.logIrrev { ctx := ctx } 5 (leafFrame e.2 * pageSize)
      | none => s) s
  let s := match range with | some (p, n, _) => s.invalidate ctx (some (p, n)) false | none => s
  s.updCtx ctx fun c => { c with ranges := c.ranges.filter (fun r => r.2.2 != index), freed := c.freed ++ [index] }

/-- Every access that saw the object alive has completed (step 2 of R129). -/
def State.objQuiet (s : State) (ctx index : Nat) : Bool :=
  (s.objLeaves ctx index).all fun e => !s.frameBusy (leafFrame e.2) && !s.frameWritten (leafFrame e.2)

/-- A whole destruction, or its destruction point where later steps must wait. -/
def State.destroy (s : State) (ctx index : Nat) : State :=
  let s := s.destroyPoint ctx index
  if s.objQuiet ctx index then s.destroyRest ctx index else s

/-- Candidates of reclaim: context, index, priority, birth (R127). -/
def State.candidates (s : State) : List (Nat × Nat × Nat × Nat) :=
  s.ctxs.foldl (fun l c => l ++ c.2.ranges.filterMap fun r =>
    let o := s.obj c.1 r.2.2
    if o.alive && o.scount == 0 && o.prio < 15 then some (c.1, r.2.2, o.prio, o.birth) else none) []

/-- The candidate with the lowest priority, and within it the lowest BIRTH. -/
def bestCandidate : List (Nat × Nat × Nat × Nat) → Option (Nat × Nat × Nat × Nat)
  | [] => none
  | c :: cs =>
    match bestCandidate cs with
    | none => some c
    | some b => if c.2.2.1 < b.2.2.1 || (c.2.2.1 == b.2.2.1 && c.2.2.2 ≤ b.2.2.2) then some c else some b

/-- An object is past its destruction point and its frames are still to come back (R129). -/
def State.dying (s : State) : Bool := s.ctxs.any fun c => c.2.ranges.any fun r => !(s.obj c.1 r.2.2).alive

/-- Coppice (R127): destroy one candidate after another until FREE reaches the high mark and `need`, or none remains. Where an access
to the candidate is still to complete, Coppice goes on once its frames are back. -/
def State.reclaimLoop (need : Nat) : Nat → State → State
  | 0, s => { s with coppice := if s.dying then some need else none }
  | n + 1, s =>
    if s.poolFree ≥ 16 * fld s.poolmark 31 16 && s.poolFree ≥ need then { s with coppice := none }
    else if s.dying then { s with coppice := some need }
    else match bestCandidate s.candidates with
      | none => { s with coppice := none }
      | some c => State.reclaimLoop need n (s.destroy c.1 c.2.1)
/-- Reclaim for `need` frames. -/
def State.reclaim (s : State) (need : Nat) : State := State.reclaimLoop need (s.candidates.length + 1) s

/-- The pool lacks frames that an allocation needs, and Coppice can still bring some (R127). -/
def State.mustWait (s : State) (need : Nat) : Bool := s.poolFree < need && (!s.candidates.isEmpty || s.dying)

/-- The word at hand waits at issue while Coppice brings the frames that its allocation needs (R127, R131). -/
def State.stall (s : State) (r : PathRef) (need : Nat) : State := (s.hold r 19).post .reclaim { a := need }

/-- The word at hand waits for copies on write; `t` is the state in which its issue has used up the pool: beside the frames that it used
it needs one more, for each try (R127, R131). -/
def State.stallCopies (s t : State) (r : PathRef) : State :=
  (s.stall r (s.poolFree - t.poolFree + 1)).updPath r fun p => { p with wants := t.lacks.drop s.lacks.length }

/-- Map one page: absent tables are taken zeroed from the pool and written first, then the leaf (R306). -/
def State.mapLeaf (s : State) (ctx : Nat) (va : DWord) (leaf : DWord) : Nat → State
  | 0 => s
  | n + 1 =>
    match s.walk ctx va with
    | .absent slot 0 => s.setEntry slot leaf
    | .absent slot _ =>
      match s.takeZeroFrame with
      | some (s, f) => (s.setEntry slot (BitVec.ofNat 64 (f * pageSize + 1))).mapLeaf ctx va leaf n
      | none => s
    | _ => s

/-- Tables that a page's mapping still needs. -/
def State.tablesNeeded (s : State) (ctx : Nat) (va : DWord) : Nat :=
  match s.walk ctx va with | .absent _ n => n | _ => 0

/-- A copy-on-write copy (R131): a fresh frame takes the page, the leaf is rewritten with that frame (a device frame, so HOST = 0),
CW = 0 and W = 1, and the old translation is invalidated. None where the pool holds no frame. Of a lost frame the raw bytes; the
old frame does not return to the pool (DEDUCED, log 31). -/
def State.copyOnWrite (s : State) (ctx : Nat) (x : Xlat) : Option (State × Xlat) :=
  if x.large then none
  else
    match s.takeFrame with
    | none => none
    | some (s, f) =>
      let from_ := leafFrame x.leaf * pageSize
      let s := if leafHost x.leaf then s.copyHost from_ (f * pageSize) pageSize else s.copyDev from_ (f * pageSize) pageSize
      let old := s.entryAt x.slot
      let leaf := (old &&& ~~~(0x000FFFFFFFFFC000#64)) ||| BitVec.ofNat 64 (f * pageSize) ||| 4#64
      let s := (s.setEntry x.slot leaf).invalidate ctx (some (x.page, 1)) (leafG x.leaf)
      some (s, { x with leaf := leaf })

/-! One access (R106). -/

/-- Kinds of access. -/
inductive Acc where
  | load | uload | store | atomic | ms | mwait | pref | engineRead | engineWrite | fetch
  /-- a read of the copy or the sampling engine, which takes no weak address (R282, R331) -/
  | strongRead
  deriving DecidableEq, Repr

/-- The access writes. -/
def Acc.writes : Acc → Bool
  | .store | .atomic | .ms | .engineWrite => true
  | _ => false

/-- The cluster's team on a core, for an on-chip map address (R120). -/
def State.clusterTeam (s : State) (team : Nat) (core : Nat) : Option Nat :=
  let me := s.team team
  ((s.teams.find? fun e => e.2.core == core && (e.2.stage == .started || e.2.stage == .placed) && e.2.sameCluster me)).map
    (·.1)

/-- An offset of a team's accumulator window lies in R121's ranges. -/
def accOffsetOk (tiles off n : Nat) : Bool :=
  n ≥ 4 && (off < 24576 * tiles || (off ≥ 393216 && off < 393216 + 1024 * tiles))

/-- An on-chip map access: space, alignment and permission steps (R120, R121, log 36). -/
def State.onChip (s : State) (ag : Agent) (kind : Acc) (n : Nat) (a : DWord) : Except Cause Loc :=
  let core := fld a 55 48
  let off := fld a 43 0
  if fld a 61 56 != 0 || core > 95 || fld a 47 44 > 1 then .error .invalidAddress
  else
    let mine := ag.team.bind fun t => s.clusterTeam t core
    let pad := fld a 47 44 == 0
    match mine with
    | none => if a.toNat % n != 0 then .error .misaligned else .error .permission
    | some t =>
      let bad := if pad then decide (off ≥ (s.team t).scratch) else !accOffsetOk (s.team t).tiles off (if kind = .strongRead then 4 else n)
      if bad then .error .invalidAddress
      else if a.toNat % n != 0 then .error .misaligned
      else match kind with
        | .ms | .fetch => .error .permission
        | .atomic | .mwait | .engineRead | .strongRead | .engineWrite => if pad then .ok (.pad t off) else .error .permission
        | _ => .ok (if pad then .pad t off else .acc t off)

/-- The lines that an access touches on its way to memory (R14, R16, R112); memory-side operations pass by the L2 (R19). -/
def State.throughCaches (s : State) (ag : Agent) (kind : Acc) (va : DWord) (x : Xlat) : State :=
  let (cp, wayp) := (fld x.leaf 9 8, fld x.leaf 12 10)
  let line := x.phys va / 128
  let host := leafHost x.leaf
  match kind, ag.core with
  | .ms, _ => s
  | .load, some c | .uload, some c => s.cachedRead c host line cp wayp
  | .store, c | .atomic, c => s.cachedWrite c host line cp wayp
  | _, _ => s.l2Access host line cp wayp

/-- Permission of a page (R111, R270) and, where it passes, D and the copy-on-write copy (R110, R131). -/
def State.throughPage (s : State) (ag : Agent) (kind : Acc) (va : DWord) (x : Xlat) : State × Except Cause Loc :=
  let e := x.leaf
  let sealedFrame := tget false s.sealed (x.phys va / pageSize)
  if !leafHost e && !s.frameUsable (x.phys va / pageSize) then (s, .error .pageNotPresent)
  else if !leafUser e && !ag.priv then (s, .error .permission)
  else if kind.writes && (!leafW e || (sealedFrame && !leafHost e)) then (s, .error .permission)
  else if kind = .fetch && !leafX e then (s, .error .permission)
  else if kind = .ms && leafHost e then (s, .error .permission)
  else if kind = .mwait && leafHost e && s.host.stage < 2 then (s, .error .permission)
  else
    let finish (s : State) (x : Xlat) : State × Except Cause Loc :=
      let s := if kind.writes && !leafD x.leaf then
          let x := { x with leaf := x.leaf ||| 0x40#64 }
          (s.setEntry x.slot (s.entryAt x.slot ||| 0x40#64)).learn ag x else s
      (s.throughCaches ag kind va x, .ok (if leafHost x.leaf then .host (x.phys va)
               else if tget false s.lost (x.phys va / pageSize) then .lost else .dev (x.phys va)))
    if kind.writes && leafCw e then
      match s.copyOnWrite ag.ctx x with
      | none => (if !x.large && s.mustWait 1 then { s with lacks := s.lacks ++ [(ag.ctx, x.page)] } else s, .error .pageNotPresent)
      | some (s, x) => finish (s.learn ag x) x
    else finish s x

/-- An ordinary access behind the alignment step. -/
def State.ordinary (s : State) (ag : Agent) (kind : Acc) (va : DWord) : State × Except Cause Loc :=
  match s.translate ag va with
  | (s, none) => (s, .error .pageNotPresent)
  | (s, some x) => s.throughPage ag kind va x

/-- An access of n bytes at an address, in the order of R106. -/
def State.access (s : State) (ag : Agent) (kind : Acc) (n : Nat) (a : DWord) : State × Except Cause Loc :=
  match fld a 63 62 with
  | 0 =>
    if fld a 61 55 != 0 then (s, .error .invalidAddress)
    else if a.toNat % n != 0 then (s, .error .misaligned)
    else s.ordinary ag kind a
  | 1 =>
    if a.toNat % n != 0 then (s, .error .misaligned)
    else
      let o := s.obj ag.ctx (oaIndex a)
      let weak := oaWeak a
      let denied := weak && (kind.writes || kind == .mwait || kind == .uload || kind == .strongRead)
      if !(o.alive && o.gen == oaGen a) then
        if weak then (if denied then (s, .error .permission) else (s, .ok .gone)) else (s, .error .deadStrong)
      else if oaOffset a ≥ o.size then (s, .error .invalidAddress)
      else
        let va := o.base + BitVec.ofNat 64 (oaOffset a)
        match s.translate ag va with
        | (s, none) => (s, .error .pageNotPresent)
        | (s, some x) =>
          if denied || (kind.writes && o.frozen) || kind == .fetch then (s, .error .permission)
          else s.throughPage ag kind va x
  | 2 => (s, s.onChip ag kind n a)
  | _ => (s, .error .invalidAddress)

/-! Watchpoints (R208, R209). -/

/-- A debug register's filters pass for a path and a lane. -/
def filtersPass (ctl tid mask : Word) (teamTid gid path lane : Nat) : Bool :=
  bit ctl 31 && (!bit ctl 30 || fld tid 21 0 == teamTid) && (!bit ctl 29 || fld ctl 27 24 == gid) &&
  (!bit ctl 28 || fld ctl 23 19 == path) && bit mask lane

/-- A watchpoint of the context matches an access of n bytes that a lane makes at an address it formed. -/
def State.watched (s : State) (r : PathRef) (lane : Nat) (a : DWord) (n : Nat) (writes reads : Bool) : Option Nat :=
  let g := s.group r.group
  let c := s.ctx g.ctx
  (List.range 16).find? fun i =>
    let ctl := tget 0#32 c.wpctl i
    let base := (tget 0#64 c.wpaddr i).toNat
    filtersPass ctl (tget 0#32 c.wptid i) (tget 0xFFFFFFFF#32 c.wpmask i) (s.team g.team).tid g.gid r.path lane &&
    ((fld ctl 18 17 % 2 == 1 && writes) || (fld ctl 18 17 / 2 == 1 && reads)) &&
    decide (a.toNat < base + 2 ^ fld ctl 16 12) && decide (base < a.toNat + n)

end Sys2Proof.Machine
end

