-- ==== Sys2Proof/Machine/LoadStore.lean ====
section
/-! DEFINITION. Loads and stores: vector (R304, R333 to R335), scratchpad (R305, R337), uniform (R329, R330), MWAIT (R310)
and PREF (R314), over one shared operation for guarded accesses and one for uniform ones. -/

namespace Sys2Proof.Machine

/-! Shared operations. -/

/-- Number of the 64-byte chunk of a device address. -/
def Loc.chunk : Loc → Nat
  | .dev pa => pa / 64
  | _ => 0

/-- The access reads, as a watchpoint sees it. -/
def Acc.reads (kind : Acc) : Bool := kind == .load || kind == .atomic || kind == .ms || kind == .mwait

/-- Number of the watchpoint that the first of these stops met (R210). -/
def State.watchIndex (s : State) (r : PathRef) (kind : Acc) (n : Nat) (stops : List Stop) : BitVec 8 :=
  match stops.find? (·.cause == .watchpoint) with
  | some st => BitVec.ofNat 8 ((s.watched r st.lane st.addr n kind.writes kind.reads).getD 0)
  | none => 0

/-- Addresses, watchpoints and log reservations of the lanes of one access, in ascending lane (R106, R117, R334): each write reserves an entry,
a memory-side issue one for each chunk (R309). -/
def State.resolveLanes (r : PathRef) (kind : Acc) (n : Nat) (addr : Nat → DWord) :
    List Nat → State → List Nat → State × List (Nat × Loc) × List Stop
  | [], s, _ => (s, [], [])
  | l :: ls, s, need =>
    let g := s.group r.group
    let a := addr l
    let (s, res) := s.access (g.agent r.group (some l)) kind n a
    let fail (c : Cause) :=
      let (s, ok, bad) := State.resolveLanes r kind n addr ls s need
      (s, ok, { lane := l, cause := c, addr := a : Stop } :: bad)
    match res with
    | .error c => fail c
    | .ok loc =>
      if (s.watched r l a n kind.writes kind.reads).isSome then fail .watchpoint
      else
        let need' := if kind.writes && loc.logs && !(kind == .ms && need.contains loc.chunk) then loc.chunk :: need else need
        match (if need' = need then some s else s.reserve g.ctx need'.length g.isHandler) with
        | none => fail .logFull
        | some s =>
          let (s, ok, bad) := State.resolveLanes r kind n addr ls s need'
          (s, (l, loc) :: ok, bad)

/-- Some location lies in a tile that is in flight: the access waits (R121). -/
def State.tileBusy (s : State) (locs : List (Nat × Loc)) : Bool :=
  locs.any fun e => match e.2 with
    | .acc t o => bit (s.team t).tF (accTile o)
    | _ => false

/-- The F bits of tile halves are set (R217). -/
def State.setF (s : State) (halves : List (Nat × Nat)) : State :=
  halves.foldl (fun s e => s.updTeam e.1 fun t => { t with tF := setBit t.tF e.2 true }) s

/-- The tile halves whose elements an access reads or writes. -/
def accTiles (locs : List Loc) : List (Nat × Nat) :=
  distinct (locs.filterMap fun l => match l with
    | .acc t o => if o < 393216 then some (t, accTile o) else none
    | _ => none)

/-- Issue of a load or a store: the tiles whose elements it touches are in flight until it completes (R217, R218). -/
def State.issueAccess (s : State) (r : PathRef) (flag : Option Nat) (dests : List Dest) (locs : List Loc) (lane : Nat) : State :=
  (s.setF (accTiles locs)).issueOp r flag dests (tiles := accTiles locs) (lane := lane)

/-- A guarded access: the checks of R64, then the steps of R106 lane by lane, then the effect on the lanes that pass. -/
def memOp (chk : Group → Path → Checks) (kind : Acc) (n : Path → Nat) (addr : Group → Path → Lane → DWord)
    (eff : PathRef → Group → Path → List (Nat × Loc) → State → State) (s : State)
    (after : State → List (Nat × Loc) → Path → Path := fun _ _ p => p.advance) : Res :=
  issuing s fun r g p =>
    let c := chk g p
    let applied := g.applied p
    let early := applied.filterMap fun l => (c.guardedCause g p l).map fun x => ({ lane := l, cause := x } : Stop)
    let ok := applied.filter fun l => (c.guardedCause g p l).isNone
    let (s', locs, late) := State.resolveLanes r kind (n p) (fun l => addr g p (g.lane l)) ok s []
    if s'.lacks ≠ s.lacks then s.stallCopies s' r
    else if s.tileBusy locs then s.hold r 5
    else conclude r (early ++ late) (applied.isEmpty || !locs.isEmpty) (eff r g p locs) s' (after s locs)
      (s.watchIndex r kind (n p) late)

/-- An access of the issuing team's own scratchpad (R119): offset, then alignment. -/
def padLoc (s : State) (g : Group) (n off : Nat) : Except Cause Loc :=
  if g.isHandler || off + n > (s.team g.team).scratch then .error .invalidAddress
  else if off % n != 0 then .error .misaligned
  else .ok (.pad g.team off)

/-- Offsets and log reservations of the lanes of a scratchpad access. -/
def State.padLanes (r : PathRef) (writes : Bool) (n : Nat) (off : Nat → Nat) :
    List Nat → State → Nat → State × List (Nat × Loc) × List Stop
  | [], s, _ => (s, [], [])
  | l :: ls, s, need =>
    let g := s.group r.group
    let fail (c : Cause) :=
      let (s, ok, bad) := State.padLanes r writes n off ls s need
      (s, ok, { lane := l, cause := c, addr := BitVec.ofNat 64 (off l) : Stop } :: bad)
    match padLoc s g n (off l) with
    | .error c => fail c
    | .ok loc =>
      let need' := if writes then need + 1 else need
      match (if writes then s.reserve g.ctx need' g.isHandler else some s) with
      | none => fail .logFull
      | some s =>
        let (s, ok, bad) := State.padLanes r writes n off ls s need'
        (s, (l, loc) :: ok, bad)

/-- A guarded access of the team's own scratchpad. -/
def padOp (chk : Group → Path → Checks) (writes : Bool) (n : Nat) (off : Group → Path → Lane → Nat)
    (eff : PathRef → Group → Path → List (Nat × Loc) → State → State) (s : State) : Res :=
  issuing s fun r g p =>
    let c := chk g p
    let applied := g.applied p
    let early := applied.filterMap fun l => (c.guardedCause g p l).map fun x => ({ lane := l, cause := x } : Stop)
    let ok := applied.filter fun l => (c.guardedCause g p l).isNone
    let (s', locs, late) := State.padLanes r writes n (fun l => off g p (g.lane l)) ok s 0
    conclude r (early ++ late) (applied.isEmpty || !locs.isEmpty) (eff r g p locs) s'

/-- Lowest lane of a path. -/
def Path.lowLane (p : Path) : Nat := ((lanesOf p.mask).head?).getD 0

/-- A uniform access: once per issue; a cause strikes every lane of the path (R330). -/
def uniformMem (chk : Group → Path → Checks) (kind : Acc) (n : Nat) (addr : Group → Path → DWord)
    (eff : PathRef → Group → Path → Loc → State → State) (s : State) : Res :=
  issuing s fun r g p =>
    match (chk g p).cause g 0 {} with
    | some x => s.stopAll r p x
    | none =>
      let a := addr g p
      let (s', res) := s.access (g.agent r.group none) kind n a
      if s'.lacks ≠ s.lacks then s.stallCopies s' r
      else match res with
      | .error x => s'.stopAll r p x a
      | .ok loc =>
        if s.tileBusy [(0, loc)] then s.hold r 5
        else if (s'.watched r p.lowLane a n kind.writes (!kind.writes)).isSome then
          s'.stopAll r p .watchpoint a (BitVec.ofNat 8 ((s'.watched r p.lowLane a n kind.writes (!kind.writes)).getD 0))
        else
          match (if kind.writes && loc.logs then s'.reserve g.ctx 1 g.isHandler else some s') with
          | none => s'.stopAll r p .logFull
          | some s' => conclude r [] true (eff r g p loc) s'

/-! Vector loads and stores. -/

/-- Registers of an access of n bytes. -/
def regsOf (n : Nat) : Nat := if n ≤ 4 then 1 else n / 4

/-- The words of a loaded value: zero- or sign-extended, or one per register (R304). -/
def loadWords (n : Nat) (sext : Bool) (x : Nat) : List Word :=
  if n ≤ 4 then [BitVec.ofInt 32 (if sext then signedOf (8 * n) x else (x : Int))]
  else (List.range (n / 4)).map fun i => BitVec.ofNat 32 (x / 2 ^ (32 * i))

/-- A loaded value is valid: the location is neither a gone object nor a lost frame (R114, R124). -/
def Loc.valid : Loc → Bool
  | .lost | .gone => false
  | _ => true

/-- What one lane's load lands in its registers: the run, and p7. -/
def loadDests (s : State) (n : Nat) (sext : Bool) (d : Nat) (l : Nat) (loc : Loc) : List Dest :=
  let po := s.poisoned loc n
  let ws := loadWords n sext (s.numAt loc n)
  ((List.range ws.length).map fun i => Dest.vreg l (d + i) (wordAt ws i) po) ++ [.pred l 7 loc.valid false]

/-- Issue of a vector load on the lanes that pass: values are read as the path sees memory (R141), registers become pending, the flag counts. -/
def loadEff (n : Nat) (sext : Bool) (d : BitVec 8) (r : PathRef) (_ : Group) (p : Path) (locs : List (Nat × Loc))
    (s : State) : State :=
  if locs.isEmpty then s.issueEmpty r (p.flagFor .returning)
  else
    let v := s.view r
    (s.readBy r p.mode n (locs.map (·.2)) (s.staleIds r)).issueAccess r (p.flagFor .returning)
      (locs.flatMap fun e => loadDests v n sext d.toNat e.1 e.2) (locs.map (·.2)) p.lowLane

/-- The field, hazard and mode checks of a vector load (R304). -/
def loadChecks (n : Nat) (d a : BitVec 8) (b : Opnd) (g : Group) (p : Path) : Checks :=
  { field := isRun g d (regsOf n) (regsOf n) && isVPair g a && b.okS p,
    uses := ((readsRun a 2).and (b.uses 1)).and (writesRun d (regsOf n)) }

/-- A vector load of n bytes. -/
def vload (n : Nat) (sext : Bool) (d a : BitVec 8) (b : Opnd) : State → Res :=
  fun s => memOp (loadChecks n d a b) .load (fun _ => n) (fun g p ln => laneAddr g p ln a b) (loadEff n sext d) s

/-- The bytes a lane stores: n bytes from the run at D. -/
def storeBytes (n : Nat) (d : Nat) (ln : Lane) : List Byte :=
  ((List.range (regsOf n)).flatMap fun i => bytesOfNat 4 (ln.reg (d + i)).toNat).take n

/-- Lane by lane in ascending virtual lane, each write with its log entry (R335). -/
def storeLanes (kind : Nat) (r : PathRef) (data : Nat → List Byte) (locs : List (Nat × Loc)) (s : State) : State :=
  locs.foldl (fun s e => s.store (s.writer r.group e.1) kind e.2 (data e.1)) s

/-- The memory that paths may still read behind the store of an issue: what stood before it, or before a later lane of it (R336). -/
def State.storeBefore (s : State) (r : PathRef) (data : Nat → List Byte) (locs : List (Nat × Loc)) : State :=
  storeLanes 1 r data (locs.take (s.choose 96 locs.length)) s

/-- Issue of a store on the lanes that pass, of a kind of R140. -/
def storeEff (kind : Nat) (data : Group → Nat → List Byte) (r : PathRef) (g : Group) (p : Path) (locs : List (Nat × Loc)) (s : State) :
    State :=
  if locs.isEmpty then s.issueEmpty r (p.flagFor .nonReturning)
  else
    let n := ((locs.head?).map fun e => (data g e.1).length).getD 0
    let flag := p.flagFor .nonReturning
    let places := locs.map (·.2)
    (match s.under r p.mode n places with
     | some id => s.layUnder id ((locs.head?).elim [] fun e => data g e.1)
     | none => (storeLanes 1 r (data g) locs s).wrote (s.storeBefore r (data g) locs) r p.mode false flag.isNone n places kind).issueAccess
      r flag [] places p.lowLane

/-- The checks of a vector store (R333, R335). -/
def storeChecks (n : Nat) (d a : BitVec 8) (b : Opnd) (g : Group) (p : Path) : Checks :=
  { field := isRun g d (regsOf n) (regsOf n) && isVPair g a && b.okS p,
    mode := mMord p.mode != 4,
    uses := ((readsRun a 2).and (b.uses 1)).and (readsRun d (regsOf n)) }

/-- A vector store of n bytes. -/
def vstore (n : Nat) (d a : BitVec 8) (b : Opnd) : State → Res :=
  fun s => memOp (storeChecks n d a b) .store (fun _ => n) (fun g p ln => laneAddr g p ln a b)
    (storeEff 2 fun g l => storeBytes n d.toNat (g.lane l)) s

/-- The checks of a scratchpad load. -/
def ldlChecks (n : Nat) (d a : BitVec 8) (b : Opnd) (g : Group) (p : Path) : Checks :=
  { field := isRun g d (regsOf n) (regsOf n) && isV g a && b.okS p,
    uses := ((readsRun a 1).and (b.uses 1)).and (writesRun d (regsOf n)) }

/-- A scratchpad load of n bytes (R305). -/
def ldl (n : Nat) (d a : BitVec 8) (b : Opnd) : State → Res :=
  fun s => padOp (ldlChecks n d a b) false n (fun g p ln => padOffset g p ln a b) (loadEff n false d) s

/-- The checks of a scratchpad store. -/
def stlChecks (n : Nat) (d a : BitVec 8) (b : Opnd) (g : Group) (p : Path) : Checks :=
  { field := isRun g d (regsOf n) (regsOf n) && isV g a && b.okS p,
    mode := mMord p.mode != 4,
    uses := ((readsRun a 1).and (b.uses 1)).and (readsRun d (regsOf n)) }

/-- A scratchpad store of n bytes (R337). -/
def stl (n : Nat) (d a : BitVec 8) (b : Opnd) : State → Res :=
  fun s => padOp (stlChecks n d a b) true n (fun g p ln => padOffset g p ln a b)
    (storeEff 16 fun g l => storeBytes n d.toNat (g.lane l)) s

/-! Uniform loads and stores. -/

/-- A uniform register, or an even pair for the 64-bit forms. -/
def isSRun (x : BitVec 8) (n : Nat) : Bool := if n = 8 then isSPair x else isS x

/-- The checks of a uniform load or store (R329, R330). -/
def uchecks (n : Nat) (store : Bool) (d a : BitVec 8) (b : Opnd) (_ : Group) (p : Path) : Checks :=
  { field := isSRun d n && isSPair a && b.okS p,
    mode := !store || mMord p.mode != 4,
    uses := ((readsRun a 2).and (b.uses 1)).and (if store then readsRun d (regsOf n) else writesRun d (regsOf n)) }

/-- A uniform load of n bytes. -/
def sload (n : Nat) (d a : BitVec 8) (b : Opnd) : State → Res :=
  fun s => uniformMem (uchecks n false d a b) .uload n (fun g p => uniformAddr g p a b) (fun r _ p loc s =>
    let v := s.view r
    let ws := loadWords n false (v.numAt loc n)
    (s.readBy r p.mode n [loc] (s.staleIds r)).issueAccess r (p.flagFor .returning)
      ((List.range ws.length).map fun i => Dest.sreg (sNum d + i) (wordAt ws i) (v.poisoned loc n)) [loc] p.lowLane) s

/-- The bytes a uniform store writes. -/
def sstoreBytes (n : Nat) (d : BitVec 8) (g : Group) : List Byte :=
  (List.range (regsOf n)).flatMap fun i => bytesOfNat 4 (g.sreg (sNum d + i)).toNat

/-- A uniform store of n bytes; a weak address is PERMISSION as for any write. -/
def sstore (n : Nat) (d a : BitVec 8) (b : Opnd) : State → Res :=
  fun s => uniformMem (uchecks n true d a b) .store n (fun g p => uniformAddr g p a b) (fun r g p loc s =>
    storeEff 2 (fun g _ => sstoreBytes n d g) r g p [(p.lowLane, loc)] s) s

/-! MWAIT and PREF. -/

/-- The line-monitoring read of each lane, and the park (R310, R153). -/
def mwaitOp (a b : BitVec 8) : State → Res :=
  fun s => memOp (fun g p => { field := isVPair g a && isS b, mode := mMord p.mode != 4,
                               uses := (readsRun a 2).and (readsRun b 1) })
    .mwait (fun _ => 4) (fun g p ln => laneAddr g p ln a (.reg b))
    (fun r _ p locs s => s.readBy r p.mode 4 (locs.map (·.2))) s
    (fun _ locs p => if locs.isEmpty then p.advance
                     else p.park .barwait (.monitor (locs.filterMap fun e => e.2.line)))

/-- PREF: lanes whose check fails are dropped; translation sets A, and a surviving lane's line is filled, into the L1 too with L1 = 1;
nothing else that a program sees changes. Poison never
stops it, so its sources and its guard predicate stand among the registers that only a hazard strikes (R314). -/
def prefOp (d a b : BitVec 8) : State → Res :=
  fun s => issuing s fun r g p =>
    let chk : Checks := { field := d.toNat ≤ 1 && isVPair g a && isS b,
                          uses := { vw := (readsRun a 2).vr, sw := (readsRun b 1).sr, pw := [mGuard p.mode] } }
    let applied := g.applied p
    let stops := applied.filterMap fun l => (chk.cause g l (g.lane l)).map fun x => ({ lane := l, cause := x } : Stop)
    let ok := applied.filter fun l => (chk.cause g l (g.lane l)).isNone
    let kind : Acc := if d = 1#8 then .load else .pref
    conclude r stops (applied.isEmpty || !ok.isEmpty) (fun s =>
      let s := ok.foldl (fun s l => (s.access ((s.group r.group).agent r.group (some l)) kind 1
        (laneAddr g p (g.lane l) a (.reg b))).1) s
      if ok.isEmpty then s.issueEmpty r (p.flagFor .nonReturning)
      else s.issueOp r (p.flagFor .nonReturning) [] (lane := p.lowLane)) s

/-! The instructions. -/

/-- LD8, register form (R304): 1 byte(s), zero-extended. -/
def execLd8 (d a b : BitVec 8) (s : State) : Res := vload 1 false d a (.reg b) s

/-- LD8, K form (R304). -/
def execLd8K (d a k : BitVec 8) (s : State) : Res := vload 1 false d a (.k k) s

/-- LDS8, register form (R304): 1 byte(s), sign-extended. -/
def execLds8 (d a b : BitVec 8) (s : State) : Res := vload 1 true d a (.reg b) s

/-- LDS8, K form (R304). -/
def execLds8K (d a k : BitVec 8) (s : State) : Res := vload 1 true d a (.k k) s

/-- LD16, register form (R304): 2 byte(s), zero-extended. -/
def execLd16 (d a b : BitVec 8) (s : State) : Res := vload 2 false d a (.reg b) s

/-- LD16, K form (R304). -/
def execLd16K (d a k : BitVec 8) (s : State) : Res := vload 2 false d a (.k k) s

/-- LDS16, register form (R304): 2 byte(s), sign-extended. -/
def execLds16 (d a b : BitVec 8) (s : State) : Res := vload 2 true d a (.reg b) s

/-- LDS16, K form (R304). -/
def execLds16K (d a k : BitVec 8) (s : State) : Res := vload 2 true d a (.k k) s

/-- LD32, register form (R304): 4 bytes. -/
def execLd32 (d a b : BitVec 8) (s : State) : Res := vload 4 false d a (.reg b) s

/-- LD32, K form (R304). -/
def execLd32K (d a k : BitVec 8) (s : State) : Res := vload 4 false d a (.k k) s

/-- LD64, register form (R304): 8 bytes. -/
def execLd64 (d a b : BitVec 8) (s : State) : Res := vload 8 false d a (.reg b) s

/-- LD64, K form (R304). -/
def execLd64K (d a k : BitVec 8) (s : State) : Res := vload 8 false d a (.k k) s

/-- LD128, register form (R304): 16 bytes. -/
def execLd128 (d a b : BitVec 8) (s : State) : Res := vload 16 false d a (.reg b) s

/-- LD128, K form (R304). -/
def execLd128K (d a k : BitVec 8) (s : State) : Res := vload 16 false d a (.k k) s

/-- ST8, register form (R333, R334): 1 byte(s). -/
def execSt8 (d a b : BitVec 8) (s : State) : Res := vstore 1 d a (.reg b) s

/-- ST8, K form (R333, R334). -/
def execSt8K (d a k : BitVec 8) (s : State) : Res := vstore 1 d a (.k k) s

/-- ST16, register form (R333, R334): 2 byte(s). -/
def execSt16 (d a b : BitVec 8) (s : State) : Res := vstore 2 d a (.reg b) s

/-- ST16, K form (R333, R334). -/
def execSt16K (d a k : BitVec 8) (s : State) : Res := vstore 2 d a (.k k) s

/-- ST32, register form (R333, R334): 4 byte(s). -/
def execSt32 (d a b : BitVec 8) (s : State) : Res := vstore 4 d a (.reg b) s

/-- ST32, K form (R333, R334). -/
def execSt32K (d a k : BitVec 8) (s : State) : Res := vstore 4 d a (.k k) s

/-- ST64, register form (R333, R334): 8 byte(s). -/
def execSt64 (d a b : BitVec 8) (s : State) : Res := vstore 8 d a (.reg b) s

/-- ST64, K form (R333, R334). -/
def execSt64K (d a k : BitVec 8) (s : State) : Res := vstore 8 d a (.k k) s

/-- ST128, register form (R333, R334): 16 byte(s). -/
def execSt128 (d a b : BitVec 8) (s : State) : Res := vstore 16 d a (.reg b) s

/-- ST128, K form (R333, R334). -/
def execSt128K (d a k : BitVec 8) (s : State) : Res := vstore 16 d a (.k k) s

/-- SLD32, register form (R330): 4 bytes, once for the path. -/
def execSld32 (d a b : BitVec 8) (s : State) : Res := sload 4 d a (.reg b) s

/-- SLD32, K form (R330). -/
def execSld32K (d a k : BitVec 8) (s : State) : Res := sload 4 d a (.k k) s

/-- SLD64, register form (R330): 8 bytes, once for the path. -/
def execSld64 (d a b : BitVec 8) (s : State) : Res := sload 8 d a (.reg b) s

/-- SLD64, K form (R330). -/
def execSld64K (d a k : BitVec 8) (s : State) : Res := sload 8 d a (.k k) s

/-- SST32, register form (R330): 4 bytes, once for the path. -/
def execSst32 (d a b : BitVec 8) (s : State) : Res := sstore 4 d a (.reg b) s

/-- SST32, K form (R330). -/
def execSst32K (d a k : BitVec 8) (s : State) : Res := sstore 4 d a (.k k) s

/-- SST64, register form (R330): 8 bytes, once for the path. -/
def execSst64 (d a b : BitVec 8) (s : State) : Res := sstore 8 d a (.reg b) s

/-- SST64, K form (R330). -/
def execSst64K (d a k : BitVec 8) (s : State) : Res := sstore 8 d a (.k k) s

/-- LDL32, register form (R305): 4 bytes of scratchpad. -/
def execLdl32 (d a b : BitVec 8) (s : State) : Res := ldl 4 d a (.reg b) s

/-- LDL32, K form (R305). -/
def execLdl32K (d a k : BitVec 8) (s : State) : Res := ldl 4 d a (.k k) s

/-- LDL64, register form (R305): 8 bytes of scratchpad. -/
def execLdl64 (d a b : BitVec 8) (s : State) : Res := ldl 8 d a (.reg b) s

/-- LDL64, K form (R305). -/
def execLdl64K (d a k : BitVec 8) (s : State) : Res := ldl 8 d a (.k k) s

/-- LDL128, register form (R305): 16 bytes of scratchpad. -/
def execLdl128 (d a b : BitVec 8) (s : State) : Res := ldl 16 d a (.reg b) s

/-- LDL128, K form (R305). -/
def execLdl128K (d a k : BitVec 8) (s : State) : Res := ldl 16 d a (.k k) s

/-- STL32, register form (R337): 4 bytes of scratchpad. -/
def execStl32 (d a b : BitVec 8) (s : State) : Res := stl 4 d a (.reg b) s

/-- STL32, K form (R337). -/
def execStl32K (d a k : BitVec 8) (s : State) : Res := stl 4 d a (.k k) s

/-- STL64, register form (R337): 8 bytes of scratchpad. -/
def execStl64 (d a b : BitVec 8) (s : State) : Res := stl 8 d a (.reg b) s

/-- STL64, K form (R337). -/
def execStl64K (d a k : BitVec 8) (s : State) : Res := stl 8 d a (.k k) s

/-- STL128, register form (R337): 16 bytes of scratchpad. -/
def execStl128 (d a b : BitVec 8) (s : State) : Res := stl 16 d a (.reg b) s

/-- STL128, K form (R337). -/
def execStl128K (d a k : BitVec 8) (s : State) : Res := stl 16 d a (.k k) s

/-- MWAIT (R310). -/
def execMwait (a b : BitVec 8) (s : State) : Res := mwaitOp a b s

/-- PREF (R314). -/
def execPref (l : BitVec 1) (a b : BitVec 8) (s : State) : Res := prefOp (l.setWidth 8) a b s

end Sys2Proof.Machine
end

