-- ==== Sys2Proof/Machine/Atomics.lean ====
section
/-! DEFINITION. Atomics (R274 to R276) and memory-side operations (R19, R149, R309). -/

namespace Sys2Proof.Machine

/-! Shared. -/

/-- Bytes of the ETYPE's element. -/
def opBytes (p : Path) : Nat := if eWide (mEtype p.mode) then 8 else 4

/-- Two of the places coincide. -/
def overlapping : List Loc → Bool
  | [] => false
  | l :: ls => ls.contains l || overlapping ls

/-- The lanes of one issue in the order in which their updates are performed (log 6). -/
def State.performOrder (s : State) (locs : List (Nat × Loc)) : List (Nat × Loc) :=
  if overlapping (locs.map (·.2)) then pickOrder s.free locs.length locs else locs

/-- The addition that ATFADD and MSADD make: RNE, subnormals kept, a NaN canonical. -/
def addRne (x y : Nat) : Nat := (f32 ((val32 (BitVec.ofNat 32 x)).add 0 (val32 (BitVec.ofNat 32 y))).1).toNat

/-! Atomics. -/

/-- The nine atomics. -/
inductive AtOp where
  | add | and | cas | fadd | max | min | or | xchg | xor
  deriving DecidableEq, Repr

/-- f(old, x, y); none writes nothing. -/
def AtOp.apply (o : AtOp) (e old x y : Nat) : Option Nat :=
  match o with
  | .add => some ((old + x) % 2 ^ eWidth e)
  | .and => some (old &&& x)
  | .or => some (old ||| x)
  | .xor => some (old ^^^ x)
  | .max => some (if elemInt e old < elemInt e x then x else old)
  | .min => some (if elemInt e x < elemInt e old then x else old)
  | .xchg => some x
  | .cas => if old = x then some y else none
  | .fadd => some (addRne old x)

/-- Registers of the B operand: ATCAS takes the compare and the new value. -/
def AtOp.bRegs (o : AtOp) (p : Path) : Nat := (opBytes p / 4) * (if o = .cas then 2 else 1)

/-- A run of `n` registers, vector or uniform, from a multiple of `n`. -/
def isOpRun (g : Group) (x : BitVec 8) (n : Nat) : Bool := if isS x then x.toNat % n == 0 else isRun g x n n

/-- The number held by `n` registers from `x` upward, vector or uniform. -/
def Group.opNum (g : Group) (ln : Lane) (x : BitVec 8) (n : Nat) : Nat :=
  natOfBytes ((List.range n).flatMap fun i => bytesOfNat 4
    (if isS x then g.sreg (sNum x + i) else ln.reg (x.toNat + i)).toNat)

/-- The checks of an atomic (R274, R276). -/
def atomicChecks (o : AtOp) (d a b : BitVec 8) (g : Group) (p : Path) : Checks :=
  let n := opBytes p / 4
  { field := (d = 0xFF#8 || isRun g d n n) && isVPair g a && isOpRun g b (o.bRegs p),
    mode := if o = .fadd then mEtype p.mode == 8 else mEtype p.mode ≤ 3,
    uses := ((readsRun a 2).and (readsRun b (o.bRegs p))).and (if d = 0xFF#8 then {} else writesRun d n) }

/-- One lane's atomic pair: the old value, whether it is poisoned, and whether it wrote. -/
def atomicLane (o : AtOp) (b : BitVec 8) (r : PathRef) (g : Group) (p : Path) (s : State) (l : Nat) (loc : Loc) :
    State × Nat × Bool × Bool :=
  let n := opBytes p
  let old := s.numAt loc n
  if s.poisoned loc n then (s, old, true, false)
  else
    let v := g.opNum (g.lane l) b (o.bRegs p)
    match o.apply (mEtype p.mode) old (v % 2 ^ (8 * n)) (v / 2 ^ (8 * n)) with
    | some x => (s.store (s.writer r.group l) 2 loc (bytesOfNat n x), old, false, true)
    | none => (s, old, false, false)

/-- The effect of an atomic on the lanes that pass. -/
def atomicEff (o : AtOp) (d b : BitVec 8) (r : PathRef) (g : Group) (p : Path) (locs : List (Nat × Loc)) (s : State) :
    State :=
  let flag := p.flagFor (atomicClass d)
  if locs.isEmpty then s.issueEmpty r flag
  else
    let order := s.performOrder locs
    let s : State := if order = locs then s else { s with free := s.free + 1 }
    let (t, dests, wrote) := order.foldl (fun (acc : State × List Dest × List Loc) e =>
      let (s, old, po, w) := atomicLane o b r g p acc.1 e.1 e.2
      (s, acc.2.1 ++ (List.range (opBytes p / 4)).map (fun i =>
        Dest.vreg e.1 (d.toNat + i) (BitVec.ofNat 32 (old / 2 ^ (32 * i))) po), if w then acc.2.2 ++ [e.2] else acc.2.2))
      (s, [], [])
    ((t.readBy r p.mode (opBytes p) (locs.map (·.2))).wrote s r p.mode true flag.isNone (opBytes p) wrote).issueOp r flag (if d = 0xFF#8 then [] else dests) (lane := p.lowLane)

/-- An atomic instruction. -/
def atomicOp (o : AtOp) (d a b : BitVec 8) : State → Res :=
  fun s => memOp (atomicChecks o d a b) .atomic opBytes (fun _ _ ln => ln.pair a.toNat) (atomicEff o d b) s

/-! Memory-side operations. -/

/-- The update that a memory-side operation makes at the home stack (R19, R309). -/
def msApply (kind e old x : Nat) : Nat :=
  if e = 8 then
    match kind with
    | 0 => addRne old x
    | 1 => (FOp.max.elem fmt32 0 0 false false old x 0).1
    | _ => (FOp.min.elem fmt32 0 0 false false old x 0).1
  else
    match kind with
    | 0 => (old + x) % 2 ^ eWidth e
    | 1 => if elemInt e old < elemInt e x then x else old
    | _ => if elemInt e x < elemInt e old then x else old

/-- The checks of a memory-side operation (R309). -/
def msChecks (a b : BitVec 8) (g : Group) (p : Path) : Checks :=
  let n := opBytes p / 4
  { field := isVPair g a && isOpRun g b n, mode := mEtype p.mode ≤ 3 || mEtype p.mode == 8,
    uses := (readsRun a 2).and (readsRun b n) }

/-- The log entries of an issue: IRREV, reason 1, one for each chunk (R309). -/
def State.logMs (s : State) (r : PathRef) (n : Nat) (locs : List (Nat × Loc)) : State :=
  let chunks := ((locs.filter fun e => e.2.logs).map fun e => e.2.chunk).eraseDups
  chunks.foldl (fun s c =>
    let here := locs.filter fun e => e.2.logs && e.2.chunk == c
    let lane := ((here.head?).map (·.1)).getD 0
    let mask := here.foldl (fun m e => match e.2 with | .dev pa => m ||| byteMask (pa % 64) n | _ => m) 0#64
    s.logIrrev (s.writer r.group lane) 1 (c * 64) mask) s

/-- Issue of a memory-side operation: its updates wait at their home stacks. -/
def msEff (kind : Nat) (b : BitVec 8) (r : PathRef) (g : Group) (p : Path) (locs : List (Nat × Loc)) (s : State) : State :=
  let flag := p.flagFor .nonReturning
  if locs.isEmpty then s.issueEmpty r flag
  else
    let n := opBytes p
    ((s.logMs r n locs).spendFence r n (locs.map (·.2))).issueOp r flag [] (lane := p.lowLane) (work := .memorySide (locs.map fun e =>
      { loc := e.2, kind := kind, etype := mEtype p.mode,
        val := BitVec.ofNat 64 (g.opNum (g.lane e.1) b (n / 4)), lane := e.1 }))

/-- A memory-side instruction. -/
def msOp (kind : Nat) (a b : BitVec 8) : State → Res :=
  fun s => memOp (msChecks a b) .ms opBytes (fun _ _ ln => ln.pair a.toNat) (msEff kind b) s

/-- One update is performed: the home slice's copy of the line is invalidated before it (R19); a poisoned element stays poisoned, one
in a lost frame, be it lost since its issue, is discarded (R114, R309). -/
def State.msPerform (s : State) (u : MsUpdate) : State :=
  let u := { u with loc := s.nowAt u.loc }
  let n := eWidth u.etype / 8
  let s := match u.loc.devLine with | some x => s.l2Drop x | none => s
  if s.poisoned u.loc n then s
  else
    (s.setBytes u.loc (bytesOfNat n (msApply u.kind u.etype (s.numAt u.loc n) (u.val.toNat % 2 ^ (8 * n))))).touch u.loc

/-- MEMORY_SIDE_APPLY: update `idx` of operation `op` is applied at its home stack, in one indivisible step (R19). -/
def execMemorySideApply (s : State) : Res :=
  match s.ops.find? (·.id == s.ev.a) with
  | none => .next s
  | some o =>
    match o.work with
    | .memorySide us =>
      match us[s.ev.b]? with
      | none => .next s
      | some u =>
        let idx := s.ev.b
        let s := s.msPerform u
        .next { s with ops := s.ops.map fun x =>
          if x.id = o.id then { x with work := .memorySide (us.eraseIdx idx) } else x }
    | _ => .next s

/-- ATADD (R275). -/
def execAtadd (d a b : BitVec 8) (s : State) : Res := atomicOp .add d a b s

/-- ATAND (R275). -/
def execAtand (d a b : BitVec 8) (s : State) : Res := atomicOp .and d a b s

/-- ATCAS (R275). -/
def execAtcas (d a b : BitVec 8) (s : State) : Res := atomicOp .cas d a b s

/-- ATFADD (R275). -/
def execAtfadd (d a b : BitVec 8) (s : State) : Res := atomicOp .fadd d a b s

/-- ATMAX (R275). -/
def execAtmax (d a b : BitVec 8) (s : State) : Res := atomicOp .max d a b s

/-- ATMIN (R275). -/
def execAtmin (d a b : BitVec 8) (s : State) : Res := atomicOp .min d a b s

/-- ATOR (R275). -/
def execAtor (d a b : BitVec 8) (s : State) : Res := atomicOp .or d a b s

/-- ATXCHG (R275). -/
def execAtxchg (d a b : BitVec 8) (s : State) : Res := atomicOp .xchg d a b s

/-- ATXOR (R275). -/
def execAtxor (d a b : BitVec 8) (s : State) : Res := atomicOp .xor d a b s

/-- MSADD (R309). -/
def execMsadd (a b : BitVec 8) (s : State) : Res := msOp 0 a b s

/-- MSMAX (R309). -/
def execMsmax (a b : BitVec 8) (s : State) : Res := msOp 1 a b s

/-- MSMIN (R309). -/
def execMsmin (a b : BitVec 8) (s : State) : Res := msOp 2 a b s

end Sys2Proof.Machine
end

