-- ==== Sys2Proof/Machine/Sha.lean ====
section
/-! DEFINITION. SHA-256, the page-hash engine's function (R20, R206, R246): the name alone stands in the spec, the function in FIPS
180-4. -/

namespace Sys2Proof.Machine

/-- `n` words written as one number, the first word highest. -/
def unpackWords (n x : Nat) : List Word := (List.range n).map fun i => BitVec.ofNat 32 (x / 2 ^ (32 * (n - 1 - i)))

/-- The 64 round constants, sixteen to a number. -/
def shaK : List Word :=
  [0x428a2f9871374491b5c0fbcfe9b5dba53956c25b59f111f1923f82a4ab1c5ed5d807aa9812835b01243185be550c7dc372be5d7480deb1fe9bdc06a7c19bf174,
   0xe49b69c1efbe47860fc19dc6240ca1cc2de92c6f4a7484aa5cb0a9dc76f988da983e5152a831c66db00327c8bf597fc7c6e00bf3d5a7914706ca635114292967,
   0x27b70a852e1b21384d2c6dfc53380d13650a7354766a0abb81c2c92e92722c85a2bfe8a1a81a664bc24b8b70c76c51a3d192e819d6990624f40e3585106aa070,
   0x19a4c1161e376c082748774c34b0bcb5391c0cb34ed8aa4a5b9cca4f682e6ff3748f82ee78a5636f84c878148cc7020890befffaa4506cebbef9a3f7c67178f2].flatMap (unpackWords 16)

/-- The initial hash value. -/
def shaInit : List Word := unpackWords 8 0x6a09e667bb67ae853c6ef372a54ff53a510e527f9b05688c1f83d9ab5be0cd19

/-- A number from bytes, the first highest. -/
def beNat (bs : List Byte) : Nat := bs.foldl (fun n b => 256 * n + b.toNat) 0

/-- A number as `n` bytes, the first highest. -/
def beBytes (n x : Nat) : List Byte := (List.range n).map fun i => BitVec.ofNat 8 (x / 256 ^ (n - 1 - i))

/-- Copies of a word turned right by each of some amounts, combined by exclusive or with `x0`. -/
def turned (x0 x : Word) (by_ : List Nat) : Word := by_.foldl (fun y n => y ^^^ x.rotateRight n) x0

/-- The message schedule, newest word first, extended `n` times: the words 16, 15, 7 and 2 back count. -/
def shaExpand : Nat → List Word → List Word
  | 0, w => w
  | n + 1, w =>
    let back (i : Nat) : Word := w.getD (i - 1) 0
    let low := turned (back 15 >>> 3) (back 15) [7, 18]
    let high := turned (back 2 >>> 10) (back 2) [17, 19]
    shaExpand n ((back 16 + low + back 7 + high) :: w)

/-- The working words of the compression. -/
structure ShaState where
  a : Word
  b : Word
  c : Word
  d : Word
  e : Word
  f : Word
  g : Word
  h : Word
  deriving DecidableEq, Repr

/-- The working words as a list, and back. -/
def ShaState.toList (x : ShaState) : List Word := [x.a, x.b, x.c, x.d, x.e, x.f, x.g, x.h]
def ShaState.ofList (w : List Word) : ShaState :=
  let at_ (i : Nat) : Word := w.getD i 0
  ⟨at_ 0, at_ 1, at_ 2, at_ 3, at_ 4, at_ 5, at_ 6, at_ 7⟩

/-- One round: the words move down, and two sums enter. -/
def ShaState.round (x : ShaState) (kw : Word) : ShaState :=
  let chosen := (x.e &&& x.f) ||| (~~~x.e &&& x.g)
  let most := (x.a &&& (x.b ||| x.c)) ||| (x.b &&& x.c)
  let first := x.h + turned 0 x.e [6, 11, 25] + chosen + kw
  { a := first + turned 0 x.a [2, 13, 22] + most, b := x.a, c := x.b, d := x.c, e := x.d + first, f := x.e, g := x.f, h := x.g }

/-- One block of 64 bytes. -/
def shaBlock (h : List Word) (bs : List Byte) : List Word :=
  let msg := (List.range 16).map fun i => BitVec.ofNat 32 (beNat ((bs.drop (4 * i)).take 4))
  let sched := (shaExpand 48 msg.reverse).reverse
  let last := (List.zipWith (· + ·) shaK sched).foldl ShaState.round (ShaState.ofList h)
  List.zipWith (· + ·) h last.toList

/-- `n` blocks in turn. -/
def shaBlocks : Nat → List Word → List Byte → List Word
  | 0, h, _ => h
  | n + 1, h, bs => shaBlocks n (shaBlock h (bs.take 64)) (bs.drop 64)

/-- SHA-256 of a message, in digest order: the message, a one bit, zeros, and the message's bits as 8 bytes fill whole blocks. -/
def sha256 (m : List Byte) : List Byte :=
  let blocks := (m.length + 72) / 64
  let fill := 64 * blocks - m.length - 9
  (shaBlocks blocks shaInit (m ++ 0x80#8 :: List.replicate fill 0#8 ++ beBytes 8 (8 * m.length))).flatMap fun w => beBytes 4 w.toNat

end Sys2Proof.Machine
end

