-- ==== Sys2Proof/Machine/Sync.lean ====
section
/-! DEFINITION. FENCE (R140), barrier objects (R241, R277, R278) and the arrival at TSYNC, CSYNC and the named barriers
(R283, R311, R345). How waits end stands in Release.lean. -/

namespace Sys2Proof.Machine

/-- A word that acts once for its path, with checks that read the state after those of its fields and registers. -/
def checkedOp (chk : Group → Path → Checks) (late : State → Group → Path → Option Cause)
    (eff : PathRef → Group → Path → State → State) (after : State → Group → Path → Path → Path) (s : State) : Res :=
  issuing s fun r g p =>
    match (chk g p).cause g 0 {} with
    | some x => s.stopAll r p x
    | none =>
      match late s g p with
      | some x => s.stopAll r p x
      | none => conclude r [] true (eff r g p) s (after s g p)

/-! Barrier objects. -/

/-- Bytes of scratchpad that a group's team has; a handler belongs to no team. -/
def State.scratchOf (s : State) (g : Group) : Nat := if g.isHandler then 0 else (s.team g.team).scratch

/-- The team at a position of the cluster of `team` (R27, R277). -/
def State.clusterPos (s : State) (team pos : Nat) : Option Nat :=
  ((s.teams.find? fun e => e.2.pos == pos && (e.2.stage == .started || e.2.stage == .placed) &&
    e.2.sameCluster (s.team team))).map (·.1)

/-- The object that a reference names: its team and offset; none where R277 or R241 rejects it. -/
def State.objectRef (s : State) (g : Group) (w : Word) : Option (Nat × Nat) :=
  let off := fld w 18 0
  if fld w 30 28 != 0 || fld w 23 19 != 0 || off % 16 != 0 then none
  else if bit w 31 then
    if g.isHandler || fld w 27 24 ≥ (s.team g.team).cw * (s.team g.team).ch then none
    else match s.clusterPos g.team (fld w 27 24) with
      | some t => if off + 16 ≤ (s.team t).scratch then some (t, off) else none
      | none => none
  else if fld w 27 24 != 0 || off + 16 > s.scratchOf g then none
  else some (g.team, off)

/-- Word i of an object: PHASE, EXPECT, ARRIVE, BYTES. -/
def State.objectWord (s : State) (team off i : Nat) : Word := BitVec.ofNat 32 (s.numAt (.pad team (off + 4 * i)) 4)

/-- The four words of an object. -/
structure Barrier where
  phase  : Word
  expect : Word
  arrive : Word
  bytes  : Word
  deriving DecidableEq, Repr

/-- Read an object. -/
def State.barrier (s : State) (team off : Nat) : Barrier :=
  ⟨s.objectWord team off 0, s.objectWord team off 1, s.objectWord team off 2, s.objectWord team off 3⟩

/-- The phase completes within the update that leaves nothing missing (R241). -/
def Barrier.settle (b : Barrier) : Barrier :=
  if b.arrive = 0 ∧ b.bytes = 0 then { b with phase := b.phase + 1, arrive := b.expect } else b

/-- The bytes of an object. -/
def Barrier.toBytes (b : Barrier) : List Byte := [b.phase, b.expect, b.arrive, b.bytes].flatMap fun w => bytesOfNat 4 w.toNat

/-- One indivisible update of an object, with its log entry. -/
def State.updBarrier (s : State) (w : Writer) (kind team off : Nat) (f : Barrier → Barrier) : State :=
  (s.store w kind (.pad team off) ((f (s.barrier team off)).settle).toBytes).touch (.pad team off)

/-- BINIT, BEXPECT and BARRIVE: the reference is checked, then the object, whose poison stops them (R191), an entry is reserved, and the
update is made once. -/
def barrierOp (chk : Group → Checks) (ref : BitVec 8) (ok : Group → Barrier → Bool) (f : Group → Barrier → Barrier)
    (publishes : Bool) : State → Res :=
  fun s => issuing s fun r g p =>
    match (chk g).cause g 0 {} with
    | some x => s.stopAll r p x
    | none =>
      let w := g.sreg (sNum ref)
      match s.objectRef g w with
      | none => s.stopAll r p .illegalOperand
      | some (t, off) =>
        if s.poisoned (.pad t off) 16 then s.stopAll r p .poison
        else if !ok g (s.barrier t off) then s.stopAll r p .illegalOperand
        else
          match s.reserve g.ctx 1 g.isHandler with
          | none => s.stopAll r p .logFull
          | some s => conclude r [] true (fun s =>
              let s := s.updBarrier (s.writer r.group p.lowLane) 2 t off (f g)
              if publishes && bit w 31 && !g.isHandler then s.publish g.team else s) s

/-- BINIT (R278): PHASE is unchanged. -/
def binitOp (a b : BitVec 8) : State → Res :=
  barrierOp (fun _ => { field := isS a && isS b, uses := (readsRun a 1).and (readsRun b 1) }) a
    (fun g _ => let n := (g.sreg (sNum b)).toNat; 1 ≤ n && n ≤ 0x7FFFFFFF)
    (fun g o => { o with expect := g.sreg (sNum b), arrive := g.sreg (sNum b), bytes := 0 }) false

/-- BEXPECT. -/
def bexpectOp (a b : BitVec 8) : State → Res :=
  barrierOp (fun _ => { field := isS a && isS b, uses := (readsRun a 1).and (readsRun b 1) }) a (fun _ _ => true)
    (fun g o => { o with bytes := o.bytes + g.sreg (sNum b) }) false

/-- BARRIVE; a remote one publishes (R203). -/
def barriveOp (a : BitVec 8) : State → Res :=
  barrierOp (fun _ => { field := isS a, uses := readsRun a 1 }) a (fun _ o => o.arrive != 0)
    (fun _ o => { o with arrive := o.arrive - 1 }) true

/-- BWAIT finds the phase that sB names complete. -/
def State.phaseOver (s : State) (g : Group) (a b : BitVec 8) : Bool :=
  match s.objectRef g (g.sreg (sNum a)) with
  | some (t, off) => s.objectWord t off 0 != g.sreg (sNum b)
  | none => false

/-- BWAIT: at once where the phase differs, else BARWAIT. The path goes on behind the events that the phase orders (R138); the model puts
it behind every attached one (log 3). -/
def bwaitOp (a b : BitVec 8) : State → Res :=
  checkedOp (fun _ _ => { field := isS a && isS b, uses := (readsRun a 1).and (readsRun b 1) })
    (fun s g _ => match s.objectRef g (g.sreg (sNum a)) with
      | some (t, off) => if s.poisoned (.pad t off) 16 then some .poison else none
      | none => some .illegalOperand)
    (fun r g _ s => if s.phaseOver g a b then s.seeAll r else s)
    (fun s g _ q =>
      match s.objectRef g (g.sreg (sNum a)) with
      | some (t, off) =>
        if s.objectWord t off 0 = g.sreg (sNum b) then q.park .barwait (.object t off (g.sreg (sNum b))) else q.advance
      | none => q)

/-! Barriers of the team and the cluster. -/

/-- TSYNC: the path arrives (R345). -/
def tsyncOp : State → Res :=
  controlOp (fun _ _ => { field := true }) (fun r _ _ s => s.updPath r fun q => q.park .barwait .tsync)

/-- CSYNC: the path arrives and the team publishes (R203, R283). -/
def csyncOp : State → Res :=
  controlOp (fun _ _ => { field := true }) (fun r g _ s =>
    let s := if g.isHandler then s else s.publish g.team
    s.updPath r fun q => q.park .barwait .csync)

/-- NBAR (R311): the first arrival of a phase fixes its mask. -/
def nbarOp (a b : BitVec 8) : State → Res :=
  checkedOp (fun _ _ => { field := isS a && isS b, uses := (readsRun a 1).and (readsRun b 1) })
    (fun s g _ =>
      let n := (g.sreg (sNum a)).toNat
      let m := g.sreg (sNum b)
      let fixed := tget 0#8 (s.team g.team).nbarMask n
      if n > 15 || m == 0 || fld m 31 8 != 0 || !bit m g.role.toNat || (fixed != 0 && !g.isHandler && fixed != m.setWidth 8)
      then some .illegalOperand else none)
    (fun _ g p s =>
      if g.isHandler || (p.state = .stepping && p.freezer != .rewind) then s
      else s.updTeam g.team fun t => { t with nbarMask := tput t.nbarMask (g.sreg (sNum a)).toNat ((g.sreg (sNum b)).setWidth 8) })
    (fun _ g _ q => q.park .barwait (.nbar (g.sreg (sNum a)).toNat) (g.sreg (sNum a)).toNat)

/-! FENCE. -/

/-- The kinds that a fence orders at its scope: memory-side operations at device scope or wider alone (R140). -/
def fenceKinds (k scope : Nat) : Nat := if scope < 3 then k - (k / 4 % 2) * 4 else k

/-- FENCE (R140): it completes when the earlier events of its kinds are performed at its scope; a release fence publishes by its
scope, and its first later write carries the release (R135, R203). Behind an acquire fence the path has seen
what the parties of its scope have made and seen (log 3), and an acquire at cluster scope or wider discards the L1 (R152). -/
def fenceOp (k : BitVec 5) : State → Res :=
  uniformOp (fun _ p => { field := k != 0, mode := mMord p.mode != 4 })
    (fun r _ p s =>
      let sc := mScope p.mode
      let s := if acquires p.mode then s.seeWithin r sc else s
      let s := if acquires p.mode && sc ≥ 2 then s.l1Discard (coreOf r.group) else s
      let s := s.issueOp r (p.flagFor .nonReturning) [] (work := .fence (fenceKinds k.toNat sc) sc) (lane := p.lowLane)
      if mMord p.mode = 2 ∨ mMord p.mode = 3 then
        (s.release r.group sc none).updPath r fun q => { q with relFence := some sc }
      else s)

/-- FENCE (R140). -/
def execFence (k : BitVec 5) (s : State) : Res := fenceOp k s

/-- BINIT (R278). -/
def execBinit (a b : BitVec 8) (s : State) : Res := binitOp a b s

/-- BEXPECT (R278). -/
def execBexpect (a b : BitVec 8) (s : State) : Res := bexpectOp a b s

/-- BARRIVE (R278). -/
def execBarrive (a : BitVec 8) (s : State) : Res := barriveOp a s

/-- BWAIT (R278). -/
def execBwait (a b : BitVec 8) (s : State) : Res := bwaitOp a b s

/-- TSYNC (R345). -/
def execTsync (s : State) : Res := tsyncOp s

/-- CSYNC (R283). -/
def execCsync (s : State) : Res := csyncOp s

/-- NBAR (R311). -/
def execNbar (a b : BitVec 8) (s : State) : Res := nbarOp a b s

end Sys2Proof.Machine
end

