-- ==== Sys2Proof/Machine/Log.lean ====
section
/-! DEFINITION. Windows of the undo log (R199, R200, R356), the snapshot that a window or a save cuts (R189, R199), and page
digests (R206). -/

namespace Sys2Proof.Machine

/-- The number that follows a window's: 0xFFFF_FFFE wraps to 1 (R199). -/
def windowAfter (n : Word) : Word := if n = 0xFFFFFFFE then 1 else n + 1

/-- An OPEN entry with the context's next number; `origin` is 1 WINDOW, 2 grid launch, 3 debugger command (R195). -/
def Ctx.openWindow (c : Ctx) (tid origin : Nat) : Ctx :=
  { c.append { kind := 5, window := c.nextWin, tid := tid, old := bytesOfNat 64 origin } with
    nextWin := windowAfter c.nextWin }

/-- SEQ of a window's OPEN entry, where the ring holds it (R202). -/
def Ctx.openSeq (c : Ctx) (n : Word) : Option Nat := (c.ring.find? fun e => e.kind == 5 && e.window == n).map (·.seq)

/-- The window of a grid launch: its number, or all ones where the log is off or stopped (R199, R356). -/
def State.openLaunch (s : State) (ctx : Nat) : State × Word :=
  let s := (s.reserve ctx 1 false true).getD s
  if (s.ctx ctx).logging then (s.updLog ctx (·.openWindow 0 2), (s.ctx ctx).nextWin) else (s, 0xFFFFFFFF)

/-! Snapshots. -/

/-- Valid tiles of a team. -/
def Team.validTiles (t : Team) : Nat := ((List.range t.tiles).filter fun k => bit t.tV k).length

/-- SNAP entries of a snapshot (R199). -/
def State.pieces (s : State) (team : Nat) : Nat :=
  let t := s.team team
  let groups := (s.teamGroups team).map fun k => (s.group k).window
  1 + groups.foldl (fun a n => a + 2 * n + n / 8 + 32) 0 + 16 * t.tiles + 384 * t.validTiles

/-- Deposits of a team in the Glade of its core. -/
def State.deposits (s : State) (team : Nat) : List Deposit :=
  (s.core (s.team team).core).glade.filter fun d => d.team == team

/-- A group as an image holds it: no reuse latch, last-page registers cleared (R189). -/
def Group.imaged (g : Group) : Group :=
  { g with latch := none, lanes := g.lanes.map fun e => (e.1, { e.2 with lastPage := none }) }

/-- The image of a team (R189, R199): its elements are held for valid tiles alone. -/
def State.image (s : State) (at_ team : Nat) : Image :=
  let t := s.team team
  { at_ := at_, key := team, glade := s.deposits team,
    team := { t with el := t.el.filter fun e => bit t.tV (e.1 / 6144) },
    groups := (s.groups.filter fun e => e.2.used && e.2.team == team && !e.2.isHandler).map fun e => (e.1, e.2.imaged) }

/-- The entries of a snapshot: pieces whose bytes only the device reads (R199). -/
def Ctx.appendPieces (c : Ctx) (free : Nat) (window : Word) (tid : Nat) : Nat → Ctx
  | 0 => c
  | n + 1 =>
    let c := c.appendPieces free window tid n
    c.append { kind := 6, window := window, tid := tid, addr := n * 64,
               old := (List.range 64).map fun i => Config.freeByte free (n * 64 + i) }

/-- The snapshot of a team under a window is appended and kept. -/
def State.snapshot (s : State) (team : Nat) (window : Word) : State :=
  let t := s.team team
  let n := s.pieces team
  let im := s.image window.toNat team
  let s := s.updLog t.ctx fun c => { c.appendPieces s.free window t.tid n with snaps := c.snaps ++ [im] }
  { s with free := s.free + 1 }

/-! Digests (R206). -/

/-- Pages of device memory dirtied after a sequence number, each with a team and a lane that did it. -/
def Ctx.writesSince (c : Ctx) (since : Nat) : List (Nat × Nat × Nat) :=
  (c.dirtied.filter fun x => x.2.2.2 > since).map fun x => (x.1, x.2.1, x.2.2.1)

/-- The DIGEST entry of a page (R195): its digest, and the only team and lanes that wrote it, where there is one. -/
def State.digestEntry (s : State) (ws : List (Nat × Nat × Nat)) (window : Word) (tid origin page : Nat) : LogEntry :=
  let mine := ws.filter fun x => x.1 == page
  let teams := distinct (mine.map fun x => x.2.1)
  let (only, lanes) : Nat × BitVec 32 := match teams with
    | [x] => (x, maskOf (mine.map fun y => y.2.2))
    | _ => (0, 0#32)
  { kind := 7, window := window, tid := tid, addr := page * pageSize,
    old := sha256 (s.bytesAt (.dev (page * pageSize)) pageSize) ++ bytesOfNat 8 origin ++ bytesOfNat 4 only ++
           bytesOfNat 4 lanes.toNat ++ List.replicate 16 0 }

/-- The digests due for a team whose window closes or whose debugger stop is taken: one for each page written since the window opened
(log 34). -/
def State.digests (s : State) (team origin : Nat) : List LogEntry :=
  let t := s.team team
  let c := s.ctx t.ctx
  if !bit c.logcfg 29 || !c.logging then []
  else match c.opened.find? (·.1 == t.logwin.toNat) with
    | none => []
    | some (_, n) =>
      let ws := c.writesSince n
      (distinct (ws.map (·.1))).map fun p => s.digestEntry ws t.logwin t.tid origin p

/-- Append entries. -/
def Ctx.appendAll (c : Ctx) (es : List LogEntry) : Ctx := es.foldl Ctx.append c

/-- Digests that are appended for no instruction: at a team's exit, or at a debugger stop (R206, R356). -/
def State.appendDigests (s : State) (team origin : Nat) : State :=
  let es := s.digests team origin
  let ctx := (s.team team).ctx
  let s := (s.reserve ctx es.length false true).getD s
  if (s.ctx ctx).logging then s.updLog ctx (·.appendAll es) else s

end Sys2Proof.Machine
end

