-- ==== Sys2Proof/Machine/Control.lean ====
section
/-! DEFINITION. Control transfers, waits on flags, TRAP, BRK, SETMODE, NOP, and the two sorts of unmatched word (R32, R33,
R35, R36, R51, R57, R61, R64, R67, R279 to R281, R287, R298, R312, R316, R344, R352, R354). -/

namespace Sys2Proof.Machine

/-- Where a branch of the clause leads (R51). -/
def Path.target (p : Path) (o : BitVec 16) : DWord := p.clhdr + BitVec.ofInt 64 (4 * o.toInt)

/-- The cause of an indirect target (R51). -/
def targetCause (t : DWord) : Option Cause :=
  if fld t 63 55 != 0 then some .invalidAddress else if fld t 1 0 != 0 then some .misaligned else none

/-- The whole path moves to `t`. -/
def State.jump (s : State) (r : PathRef) (t : DWord) : State := s.updPath r fun p => p.goto t

/-- An indirect transfer: the target is checked at the instruction; `link` writes the link first (R51, R61, R279, R298). -/
def indirectOp (chk : Group → Path → Checks) (target : Group → DWord) (link : Bool) : State → Res :=
  fun s => issuing s fun r g p =>
    match (chk g p).cause g 0 {} with
    | some x => s.stopAll r p x
    | none =>
      match targetCause (target g) with
      | some x => s.stopAll r p x (target g)
      | none =>
        let s := if link then s.setGroup r.group (g.setSpair 126 p.following) else s
        (s.jump r (target g)).retire r.group (lanesOf p.mask)

/-- BRA: the whole path moves to the target; HINT is ignored (R279). -/
def execBra (_h : BitVec 2) (o : BitVec 16) (s : State) : Res :=
  controlOp (fun _ _ => { field := true }) (fun r _ p s => s.jump r (p.target o)) s

/-- BRQ: the whole path moves where the uniform predicate is true (R279). -/
def execBrq (_h : BitVec 2) (q : BitVec 3) (o : BitVec 16) (s : State) : Res :=
  controlOp (fun _ _ => { field := true })
    (fun r g p s => if g.qpred q.toNat then s.jump r (p.target o) else s.updPath r Path.advance) s

/-- CALL: the link to s126 and s127, and the whole path moves (R61, R279). -/
def execCall (_h : BitVec 2) (o : BitVec 16) (s : State) : Res :=
  controlOp (fun _ _ => { field := true, uses := { sw := [126, 127] } })
    (fun r g p s => (s.setGroup r.group (g.setSpair 126 p.following)).jump r (p.target o)) s

/-- CALLI: the target is read before the link is written (R279). -/
def execCalli (a : BitVec 8) (s : State) : Res :=
  indirectOp (fun _ _ => { field := isSPair a, uses := (readsRun a 2).and { sw := [126, 127] } })
    (fun g => g.spair (sNum a)) true s

/-- JMPI (R298). -/
def execJmpi (a : BitVec 8) (s : State) : Res :=
  indirectOp (fun _ _ => { field := isSPair a, uses := readsRun a 2 }) (fun g => g.spair (sNum a)) false s

/-- RET: to the link (R298). -/
def execRet (s : State) : Res :=
  indirectOp (fun _ _ => { field := true, uses := { sr := [126, 127] } }) (fun g => g.spair 126) false s

/-- The path splits (R33): the lanes `t` take the lowest EMPTY entry at the target, the rest go on behind the branch; the
side that runs first is older by a clock at least, and the old entry keeps its age (R172). -/
def Group.split (g : Group) (i : Nat) (t : BitVec 32) (target : DWord) (takenFirst : Bool) (now : Nat) : Group :=
  let p := g.path i
  let taken := { (p.goto target) with
    mask := t, state := if p.state = .stepping then .stepping else .ready, warg := 0, wait := .nothing, promoted := false,
    waited := 0, passed := 0, age := if takenFirst then p.age - 1 else readyAge now }
  let e := g.emptyEntry
  (g.setPath i { p.advance with mask := p.mask &&& ~~~t }).setPath e taken

/-- The side that runs first by HINT (R33). -/
def takenFirst (h : BitVec 2) (m t : BitVec 32) : Bool :=
  match h.toNat with
  | 1 => true
  | 2 => false
  | _ => (lanesOf m).head? == (lanesOf t).head?

/-- BRP and BRPN (R33): lanes whose predicate is pending or poisoned stop; the others decide the branch. -/
def branchOp (neg : Bool) (h : BitVec 2) (n : BitVec 3) (o : BitVec 16) : State → Res :=
  fun s => issuing s fun r g p =>
    let chk : Checks := { field := true, uses := { pr := [n.toNat] } }
    let early := (lanesOf p.mask).filterMap fun l =>
      (chk.cause g l (g.lane l)).map fun x => ({ lane := l, cause := x } : Stop)
    let ok := (lanesOf p.mask).filter fun l => (chk.cause g l (g.lane l)).isNone
    let t := maskOf (ok.filter fun l => (g.lane l).pred n.toNat != neg)
    let m := maskOf ok
    let stops := if h.toNat = 3 && t != 0 && t != m
      then early ++ ok.map fun l => ({ lane := l, cause := .uniformHint } : Stop) else early
    if !stops.isEmpty && s.pendingFull r.group then s.hold r 17
    else if maskOf (stops.map (·.lane)) = p.mask then s.stop r stops
    else
      let s := if stops.isEmpty then s else s.stop r stops
      let s := if t = 0 then s.updPath r Path.advance
               else if t = m then s.jump r (p.target o)
               else s.updGroup r.group fun g => g.split r.path t (p.target o) (takenFirst h m t) s.clock
      s.retire r.group ok

/-- BRP (R33). -/
def execBrp (h : BitVec 2) (p : BitVec 3) (o : BitVec 16) (s : State) : Res := branchOp false h p o s

/-- BRPN (R33). -/
def execBrpn (h : BitVec 2) (p : BitVec 3) (o : BitVec 16) (s : State) : Res := branchOp true h p o s

/-- REGANG: the path reads its expected mask as it arrives and parks (R35, R316). -/
def execRegang (a : BitVec 8) (s : State) : Res :=
  controlOp (fun _ _ => { field := isS a, uses := readsRun a 1 })
    (fun r g _ s => s.updPath r fun p => { p.park .regang .nothing with expected := g.sreg (sNum a) }) s

/-- COMPACT: the path parks; the release is `compactRelease` (R36, R281). -/
def execCompact (s : State) : Res :=
  controlOp (fun _ _ => { field := true }) (fun r _ _ s => s.updPath r fun p => p.park .barwait .compact) s

/-- EXIT: every lane of the path leaves the group's live lanes (R287). -/
def execExit (s : State) : Res :=
  controlOp (fun _ _ => { field := true }) (fun r _ p s => s.updGroup r.group fun g => g.exitLanes p.mask) s

/-- YIELDC (R354). -/
def execYieldc (d a : BitVec 8) (s : State) : Res :=
  issuing s fun r g p =>
    let chk : Checks := { field := isFlag d && isSPair a, uses := readsRun a 2 }
    let t := g.spair (sNum a)
    match chk.cause g 0 {} with
    | some x => s.stopAll r p x
    | none =>
      match targetCause t with
      | some x => s.stopAll r p x t
      | none =>
        let s := s.updPath r fun p =>
          if g.flag d.toNat = 0 then (if p.state = .stepping then p.goto t else (p.goto t).ready s.clock)
          else (p.goto t).park .yielded .yield d.toNat
        s.retire r.group (lanesOf p.mask)

/-- WAITF: in FLAGWAIT until the flag is at most the count (R57, R142, R352). -/
def execWaitf (a b : BitVec 8) (s : State) : Res :=
  controlOp (fun _ _ => { field := isFlag a && b.toNat < 64 })
    (fun r g _ s =>
      if (g.flag a.toNat).toNat ≤ b.toNat then (s.seeFlag r.group).updPath r Path.advance
      else s.updPath r fun p => p.park .flagwait (.flag a.toNat b.toNat) a.toNat) s

/-- TRAP and BRK: each active lane stops; with none, nothing changes (R280, R344). -/
def trapOp (c : Cause) (code : BitVec 8) : State → Res :=
  fun s => issuing s fun r g p =>
    let chk : Checks := { field := true, late := fun _ _ => some c }
    let stops := (g.applied p).filterMap fun l =>
      (chk.guardedCause g p l).map fun x => ({ lane := l, cause := x } : Stop)
    conclude r stops stops.isEmpty (fun s => s) s (tcode := code)

/-- TRAP (R344). -/
def execTrap (b : BitVec 8) (s : State) : Res := trapOp .trap b s

/-- BRK (R280). -/
def execBrk (b : BitVec 8) (s : State) : Res := trapOp .breakpoint b s

/-- SETMODE of a value: ILLEGAL-MODE where R65 or R66 rejects it, else the issuing path's MODE (R67, R323). -/
def setmodeOp (field : Path → Bool) (uses : Uses) (value : Group → Path → Word) : State → Res :=
  fun s => uniformOp (fun g p => { field := field p, uses := uses,
                                   late := fun _ _ => if modeLegal (value g p) then none else some .illegalMode })
    (fun r g p s => s.updPath r fun q => { q with mode := value g p }) s

/-- SETMODE, register form. -/
def execSetmode (b : BitVec 8) (s : State) : Res :=
  setmodeOp (fun _ => isS b) (readsRun b 1) (fun g _ => g.sreg (sNum b)) s

/-- SETMODE, K form. -/
def execSetmodeK (k : BitVec 8) (s : State) : Res := setmodeOp (fun p => isK p k) {} (fun _ p => kWord p k) s

/-- NOP (R312). -/
def execNop (s : State) : Res := uniformOp (fun _ _ => { field := true }) (fun _ _ _ s => s) s

/-- A word with an unassigned opcode stops every lane of the path (R64, R69, R70). -/
def execIllegalInstruction (_w : BitVec 32) (s : State) : Res :=
  issuing s fun r _ p => s.stopAll r p .illegalInstruction

/-- SWR names a lane-scope register: SRIDX or FPSTAT (R324). -/
def laneScope (b : Nat) : Bool := b == 0x00 || b == 0x01 || b == 0x0F || b == 0x13 || b == 0x14

/-- Whether the guard decides the lanes of a word that breaks its reserved bits (R64, R327, R328). -/
def wordGuarded (w : BitVec 32) : Bool :=
  match nominal (.nonzeroReservedField w) with
  | .srd .. => !isS (w.extractLsb' 16 8)
  | .swr .. => laneScope (fld w 7 0)
  | i => !unguarded i

/-- A reserved bit that is set stops the lanes to which the instruction applies with ILLEGAL-OPERAND (R64). -/
def execNonzeroReservedField (w : BitVec 32) (s : State) : Res :=
  issuing s fun r g p =>
    let lanes := if wordGuarded w then g.applied p else lanesOf p.mask
    let flag := p.flagFor (classOf (nominal (.nonzeroReservedField w)))
    conclude r (lanes.map fun l => { lane := l, cause := .illegalOperand }) lanes.isEmpty
      (fun s => if flag.isSome then s.issueEmpty r flag else s) s

end Sys2Proof.Machine
end

