-- ==== Sys2Proof/Machine/Objects.lean ====
section
/-! DEFINITION. Object instructions and VPUBLISH (R125, R130, R131, R150, R296, R297, R351), MAPPG (R306), TLBINV (R342) and
KVX (R232, R233, R299). -/

namespace Sys2Proof.Machine

/-! Scratchpad blocks. -/

/-- A block of `n` bytes at a scratchpad offset: a multiple of `al`, inside the team's allocation (R64, R219). -/
def State.blockOk (s : State) (g : Group) (off n al : Nat) : Bool :=
  off % al == 0 && !g.isHandler && off + n ≤ (s.team g.team).scratch
/-- A byte of the block that the team has is poisoned (R191). -/
def State.blockPoison (s : State) (g : Group) (off n : Nat) : Bool := !g.isHandler && s.poisoned (.pad g.team off) n
/-- The block's bytes. -/
def State.block (s : State) (g : Group) (off n : Nat) : List Byte := s.bytesAt (.pad g.team off) n
/-- A little-endian field of a block. -/
def blkNum (b : List Byte) (off n : Nat) : Nat := natOfBytes ((b.drop off).take n)
/-- A range of a block is zero. -/
def blkZero (b : List Byte) (off n : Nat) : Bool := blkNum b off n == 0

/-- A window size of R40. -/
def windowOk (n : Nat) : Bool := 16 ≤ n && n ≤ 128 && n % 16 == 0

/-! Life words. -/

/-- Order parts of an atomic pair on a life word: the path's MORD at device scope (R150). As the first write behind a release fence it
is a release (R135). MORD 4 makes a remote acquire (DESIGN CHOICE, log 3). -/
def State.lifeOrder (s : State) (r : PathRef) (m : Word) (ctx index : Nat) : State :=
  let m' := (m &&& ~~~0x380000#32) ||| 0x180000#32
  let l : Loc := .dev (s.objAddr ctx index)
  let t := s.readBy r m' 8 [l]
  let t : State := if releases m' then
      { (t.recordRelease r 3 8 [l] t.nextShadow).releaseLines r.group 3 [l] with nextShadow := t.nextShadow + 1 }
    else t
  t.spendFence r 8 [l]

/-- HUPG of an address: the strong address, or 0 where the object is gone; SCOUNT must not be full (R125, R297). -/
def State.hold1 (s : State) (ctx : Nat) (a : DWord) : State × DWord :=
  if s.objAlive ctx a then
    let o := s.obj ctx (oaIndex a)
    (s.setObj ctx (oaIndex a) { o with scount := o.scount + 1 }, a &&& ~~~0x2000000000000000#64)
  else (s, 0)

/-- The object named is alive and its strong count is full. -/
def State.holdFull (s : State) (ctx : Nat) (a : DWord) : Bool :=
  s.objAlive ctx a && (s.obj ctx (oaIndex a)).scount == 0xFFFFFFFF

/-- HREL of an address: a gone object changes nothing (R125). -/
def State.unhold (s : State) (ctx : Nat) (a : DWord) : State :=
  if s.objAlive ctx a then
    let o := s.obj ctx (oaIndex a)
    s.setObj ctx (oaIndex a) { o with scount := o.scount - 1 }
  else s

/-- A free index: one never used, else the one freed longest ago (R125). -/
def Ctx.takeIndex (c : Ctx) : Option (Ctx × Nat) :=
  if c.nextIndex < 65536 then some ({ c with nextIndex := c.nextIndex + 1 }, c.nextIndex)
  else match c.freed with
    | [] => none
    | i :: rest => some ({ c with freed := rest }, i)

/-- Lowest page from `p` at which `n` pages of the region are free, trying the ends of the ranges in use. -/
def freeRange (used : List (Nat × Nat × Nat)) (p last n : Nat) : Option Nat :=
  let starts := p :: used.map fun r => r.1 + r.2.1
  let ok (q : Nat) : Bool := p ≤ q && q + n ≤ last && used.all fun r => decide (q + n ≤ r.1) || decide (r.1 + r.2.1 ≤ q)
  (starts.filter ok).foldl (fun m q => match m with
    | none => some q
    | some b => some (min b q)) none

/-- Lowest free range of `n` pages of a context's object region (R125). -/
def Ctx.freePages (c : Ctx) (n : Nat) : Option Nat :=
  freeRange c.ranges (c.objBase.toNat / pageSize) ((c.objBase.toNat + c.objSize.toNat) / pageSize) n

/-- Page tables still absent for `n` pages from page `p`. -/
def State.rangeTables (s : State) (ctx p n : Nat) : Nat :=
  let need (q : Nat) : Nat := s.tablesNeeded ctx (BitVec.ofNat 64 (q * pageSize))
  let firsts (w : Nat) : List Nat := (List.range ((p + n - 1) / w - p / w + 1)).map fun i => max p ((p / w + i) * w)
  ((firsts 8192).filter fun q => need q ≥ 1).length + ((firsts 67108864).filter fun q => need q ≥ 2).length

/-- Bits of an object's leaf: V, LEAF, W and USER (log 9). -/
def objectLeaf (frame : Nat) (w : Bool) : DWord :=
  BitVec.ofNat 64 (frame * pageSize + 1 + 2 + (if w then 4 else 0) + 16)

/-- Map `n` pages from page `p`, each to a zeroed frame of the pool. -/
def State.mapFresh (s : State) (ctx p : Nat) : Nat → State
  | 0 => s
  | n + 1 =>
    let s := s.mapFresh ctx p n
    match s.takeZeroFrame with
    | some (s, f) => s.mapLeaf ctx (BitVec.ofNat 64 ((p + n) * pageSize)) (objectLeaf f true) 3
    | none => s

/-- Frames that HNEW takes: its pages and the page tables still absent; none where no index or no range is free. -/
def State.hnewNeeds (s : State) (ctx size : Nat) : Nat :=
  let n := (size + pageSize - 1) / pageSize
  match (s.ctx ctx).takeIndex, (s.ctx ctx).freePages n with
  | some _, some p => n + s.rangeTables ctx p n
  | _, _ => 0

/-- HNEW's work (R125): the strong address, or zero where no index, no range or no frames are free. The range is judged as the frames
are taken, behind any reclaim that HNEW had to wait for (log 59). -/
def State.hnew (s : State) (ctx size : Nat) : State × DWord :=
  let n := (size + pageSize - 1) / pageSize
  match (s.ctx ctx).takeIndex, (s.ctx ctx).freePages n with
  | some (c, i), some p =>
    let need := n + s.rangeTables ctx p n
    if s.poolFree < need then (s, 0)
    else
      let s := s.updCtx ctx fun x => { x with nextIndex := c.nextIndex, freed := x.freed.filter (· != i),
                                              ranges := x.ranges ++ [(p, n, i)] }
      let s := s.mapFresh ctx p n
      let o := s.obj ctx i
      let s := s.setObj ctx i { o with alive := true, scount := 1, prio := 8, frozen := false, size := size,
                                       base := BitVec.ofNat 64 (p * pageSize), version := 0, birth := s.birth }
      ({ s with birth := (s.birth + 1) % 2 ^ 56 }, objectAddr false o.gen i 0)
  | _, _ => (s, 0)

/-- A uniform instruction over the object engine: checks, the instruction's own causes, the frames it needs, room for its log entry,
then the effect; `addr` is the address a memory cause reports. -/
def allocOp (need : State → Group → Nat) (chk : Group → Path → Checks) (own : State → Group → Path → Option Cause)
    (addr : Group → DWord) (eff : PathRef → Group → Path → State → State) : State → Res :=
  fun s => issuing s fun r g p =>
    match (chk g p).cause g 0 {} with
    | some x => s.stopAll r p x
    | none =>
      match own s g p with
      | some x => s.stopAll r p x (addr g)
      | none =>
        if s.mustWait (need s g) then s.stall r (need s g) else
        match s.reserve g.ctx 1 g.isHandler with
        | none => s.stopAll r p .logFull
        | some s => conclude r [] true (fun s => eff r g p (s.logIrrev (s.writer r.group p.lowLane) 3)) s

/-- An object instruction that needs no frames. -/
def objectOp (chk : Group → Path → Checks) (own : State → Group → Path → Option Cause) (addr : Group → DWord)
    (eff : PathRef → Group → Path → State → State) : State → Res := allocOp (fun _ _ => 0) chk own addr eff

/-- The two destinations of a result pair. -/
def pairDests (d : BitVec 8) (x : DWord) (poison : Bool := false) : List Dest :=
  [.sreg (sNum d) (loWord x) poison, .sreg (sNum d + 1) (hiWord x) poison]

/-- The value check of an object address (R296). -/
def objAddrCause (a : DWord) : Option Cause := if fld a 63 62 = 1 then none else some .illegalOperand

/-- HNEW (R296, R297). -/
def execHnew (d a : BitVec 8) (s : State) : Res :=
  allocOp (fun s g => s.hnewNeeds g.ctx (g.spair (sNum a)).toNat) (fun g _ =>
      let size := (g.spair (sNum a)).toNat
      { field := isSPair d && isSPair a, uses := (readsRun a 2).and (writesRun d 2),
        late := fun _ _ => if size = 0 || size > 2 ^ 37 then some .illegalOperand else none })
    (fun _ _ _ => none) (fun _ => 0)
    (fun r g p s =>
      let (s, x) := s.hnew g.ctx (g.spair (sNum a)).toNat
      let s := if x = 0 then s else s.lifeOrder r p.mode g.ctx (oaIndex x)
      s.issueOp r (p.flagFor .returning) (pairDests d x) (lane := p.lowLane)) s

/-- HUPG (R296, R297). -/
def execHupg (d a : BitVec 8) (s : State) : Res :=
  objectOp (fun g _ =>
      { field := isSPair d && isSPair a, uses := (readsRun a 2).and (writesRun d 2),
        late := fun _ _ => objAddrCause (g.spair (sNum a)) })
    (fun s g _ => if s.holdFull g.ctx (g.spair (sNum a)) then some .illegalOperand else none) (fun _ => 0)
    (fun r g p s =>
      let (s, x) := s.hold1 g.ctx (g.spair (sNum a))
      (s.lifeOrder r p.mode g.ctx (oaIndex (g.spair (sNum a)))).issueOp r (p.flagFor .returning) (pairDests d x)
        (lane := p.lowLane)) s

/-- The address operand of HFREE, HREL and HPRIO is weak (R296). -/
def weakCause (a : DWord) : Option Cause := if oaWeak a then some .permission else none

/-- HREL (R296, R297). -/
def execHrel (a : BitVec 8) (s : State) : Res :=
  objectOp (fun g _ => { field := isSPair a, uses := readsRun a 2, late := fun _ _ => objAddrCause (g.spair (sNum a)) })
    (fun s g _ =>
      let x := g.spair (sNum a)
      if oaWeak x then weakCause x
      else if s.objAlive g.ctx x && (s.obj g.ctx (oaIndex x)).scount == 0 then some .illegalOperand else none)
    (fun g => g.spair (sNum a))
    (fun r g p s =>
      ((s.unhold g.ctx (g.spair (sNum a))).lifeOrder r p.mode g.ctx (oaIndex (g.spair (sNum a)))).issueOp r
        (p.flagFor .nonReturning) [] (lane := p.lowLane)) s

/-- HFREE: the destruction point is passed at issue; the operation completes with step 4 of R129 (R297). -/
def execHfree (a : BitVec 8) (s : State) : Res :=
  objectOp (fun g _ => { field := isSPair a, uses := readsRun a 2, late := fun _ _ => objAddrCause (g.spair (sNum a)) })
    (fun _ g _ => weakCause (g.spair (sNum a))) (fun g => g.spair (sNum a))
    (fun r g p s =>
      let x := g.spair (sNum a)
      let live := s.objAlive g.ctx x
      let s := s.lifeOrder r p.mode g.ctx (oaIndex x)
      let s := if live then s.destroyPoint g.ctx (oaIndex x) else s
      s.issueOp r (p.flagFor .nonReturning) [] (work := if live then .destroy g.ctx (oaIndex x) else .nothing)
        (lane := p.lowLane)) s

/-- HPRIO (R296, R297). -/
def execHprio (a b : BitVec 8) (s : State) : Res :=
  objectOp (fun g _ =>
      { field := isSPair a && isS b, uses := (readsRun a 2).and (readsRun b 1),
        late := fun _ _ => if g.sreg (sNum b) > 15 then some .illegalOperand else objAddrCause (g.spair (sNum a)) })
    (fun _ g _ => weakCause (g.spair (sNum a))) (fun g => g.spair (sNum a))
    (fun r g p s =>
      let x := g.spair (sNum a)
      let s := if s.objAlive g.ctx x then
          s.setObj g.ctx (oaIndex x) { s.obj g.ctx (oaIndex x) with prio := (g.sreg (sNum b)).toNat % 16 } else s
      (s.lifeOrder r p.mode g.ctx (oaIndex x)).issueOp r (p.flagFor .nonReturning) [] (lane := p.lowLane)) s

/-- The leaves of a new version: the source's current frames with W = 0; the source's leaves carry CW (R130). -/
def State.shareLeaves (s : State) (ctx p : Nat) (leaves : List (Nat × DWord)) : State :=
  (leaves.zipIdx).foldl (fun s e =>
    let leaf := (e.1.2 &&& ~~~0x8064#64)
    (s.setEntry e.1.1 (s.entryAt e.1.1 ||| 0x8000#64)).mapLeaf ctx (BitVec.ofNat 64 ((p + e.2) * pageSize)) leaf 3) s

/-- Frames that VPUBLISH takes for page tables still absent. -/
def State.vpublishNeeds (s : State) (ctx index : Nat) : Nat :=
  let n := ((s.obj ctx index).size + pageSize - 1) / pageSize
  match (s.ctx ctx).takeIndex, (s.ctx ctx).freePages n with
  | some _, some p => s.rangeTables ctx p n
  | _, _ => 0

/-- VPUBLISH's work (R130): the weak address of the frozen version, or zero. -/
def State.vpublish (s : State) (ctx index : Nat) : State × DWord :=
  let o := s.obj ctx index
  let leaves := s.objLeaves ctx index
  let n := (o.size + pageSize - 1) / pageSize
  match (s.ctx ctx).takeIndex, (s.ctx ctx).freePages n with
  | some (c, i), some p =>
    let need := s.rangeTables ctx p n
    if s.poolFree < need then (s, 0)
    else
      let s := s.updCtx ctx fun x => { x with nextIndex := c.nextIndex, freed := x.freed.filter (· != i),
                                              ranges := x.ranges ++ [(p, n, i)] }
      let s := (s.shareLeaves ctx p leaves).invalidate ctx (some (o.base.toNat / pageSize, n)) false
      let old := s.obj ctx i
      let s := s.setObj ctx i { old with alive := true, scount := 0, prio := o.prio, frozen := true, size := o.size,
                                         base := BitVec.ofNat 64 (p * pageSize), version := o.version, birth := s.birth }
      let s := s.setObj ctx index { s.obj ctx index with version := (o.version + 1) % 2 ^ 32 }
      ({ s with birth := (s.birth + 1) % 2 ^ 56 }, objectAddr true old.gen i 0)
  | _, _ => (s, 0)

/-- VPUBLISH (R130, R131, R351): held while an engine write issued to the source's pages is still to be performed. -/
def execVpublish (d a : BitVec 8) (s : State) : Res :=
  issuing s fun r g p =>
    let x := g.spair (sNum a)
    -- a pending pair has no address to check (R64); else its space is checked before HAZARD (R351)
    let pending := (readsRun a 2).hazard g {}
    let chk : Checks := { field := isSPair d && isSPair a && (pending || fld x 63 62 == 1),
                          uses := (readsRun a 2).and (writesRun d 2) }
    match chk.cause g 0 {} with
    | some c => s.stopAll r p c
    | none =>
      if !s.objAlive g.ctx x then s.stopAll r p .deadStrong x
      else if oaWeak x || (s.obj g.ctx (oaIndex x)).frozen then s.stopAll r p .permission x
      else if !s.objQuiet g.ctx (oaIndex x) then s.hold r 31
      else if s.mustWait (s.vpublishNeeds g.ctx (oaIndex x)) then s.stall r (s.vpublishNeeds g.ctx (oaIndex x))
      else
        match s.reserve g.ctx 1 g.isHandler with
        | none => s.stopAll r p .logFull
        | some s => conclude r [] true (fun s =>
            let s := s.logIrrev (s.writer r.group p.lowLane) 3
            let (s, y) := s.vpublish g.ctx (oaIndex x)
            (s.lifeOrder r p.mode g.ctx (oaIndex x)).issueOp r (p.flagFor .returning) (pairDests d y)
              (lane := p.lowLane)) s

/-! MAPPG and TLBINV. -/

/-- A lane of the handler's capability with cause PAGE-NOT-PRESENT has its fault address in the page of `va` (R306). -/
def State.pageWanted (s : State) (h : HCap) (va : DWord) : Bool :=
  s.holdsGroup h && (lanesOf (h.mask &&& (s.group h.group).frozenLanes h.given)).any fun l =>
    tget 0 h.causes l == 8 && fld ((s.group h.group).lane l).faultAddr 63 16 == fld va 63 16

/-- Frames that a page's mapping needs: its absent tables and its own; none where the walk meets a leaf or a malformed entry (R306). -/
def State.mapNeeds (s : State) (ctx : Nat) (va : DWord) : Nat :=
  match s.walk ctx va with
  | .absent _ n => n + 1
  | _ => 0

/-- MAPPG's mapping, where the pool holds the frames (R306): the table frames leave it before the leaf's frame. -/
def State.mapPage (s : State) (ctx : Nat) (va : DWord) (bits : Word) : State :=
  match s.walk ctx va with
  | .absent _ n =>
    match (s.mapLeaf ctx va 0 n).takeZeroFrame with
    | some (s, f) => s.mapLeaf ctx va (BitVec.ofNat 64 (f * pageSize) ||| bits.setWidth 64 ||| 3#64) 1
    | none => s
  | _ => s

/-- MAPPG (R306): the pool is resolved before the log entry is reserved (R175). -/
def execMappg (a b : BitVec 8) (s : State) : Res :=
  issuing s fun r g p =>
    let va := g.spair (sNum a)
    let bits := g.sreg (sNum b)
    let chk : Checks := { field := isSPair a && isS b && g.isHandler, uses := (readsRun a 2).and (readsRun b 1),
                          late := fun _ _ => if bits &&& ~~~0x3F9C#32 != 0 then some .illegalOperand else none }
    match chk.cause g 0 {}, g.hcap with
    | some c, _ => s.stopAll r p c
    | none, none => s.stopAll r p .illegalOperand
    | none, some h =>
      let need := s.mapNeeds g.ctx va
      if !h.map || fld va 63 55 != 0 || !s.pageWanted h va then s.stopAll r p .handlerFault
      else if s.mustWait need then s.stall r need
      else if s.poolFree < need then s.stopAll r p .pageNotPresent va
      else
        match s.reserve g.ctx 1 true with
        | none => s.stopAll r p .logFull
        | some s => conclude r [] true (fun s =>
            ((s.mapPage g.ctx va bits).logIrrev (s.writer r.group p.lowLane) 3).issueOp r (p.flagFor .nonReturning) []
              (lane := p.lowLane)) s

/-- TLBINV of the issuing context: all of it, or a range. As an operation it drops the translations once the path's earlier writes are performed, and
completes behind the accesses issued before that (R118, R342). -/
def execTlbinv (gl all : BitVec 1) (a b : BitVec 8) (s : State) : Res :=
  uniformOp (fun g _ =>
      let va := g.spair (sNum a)
      let n := (g.sreg (sNum b)).toNat
      if all = 1#1 then { field := g.isHandler && a == 0 && b == 0 }
      else { field := g.isHandler && isSPair a && isS b, uses := (readsRun a 2).and (readsRun b 1),
             late := fun _ _ => if fld va 63 55 != 0 || n = 0 || va.toNat / pageSize + n > 2 ^ 39
                                then some .illegalOperand else none })
    (fun r g p s =>
      let va := g.spair (sNum a)
      let range := if all = 1#1 then none else some (va.toNat / pageSize, (g.sreg (sNum b)).toNat)
      s.issueOp r (p.flagFor .nonReturning) [] (work := .invalidate g.ctx range (gl == 1#1) none) (lane := p.lowLane)) s

/-! KVX. -/

/-- An engine read of a lane: the location, or the cause. -/
def State.engineRead (s : State) (g : Group) (r : PathRef) (n : Nat) (a : DWord) : State × Except Cause Loc :=
  match s.access (g.agent r.group none) .engineRead n a with
  | (s, .ok l) => (s.saw r [(l, 16)], .ok l)
  | x => x

/-- What KVX finds for one lane: its destination pair, p7 and poison, or the cause (R233, R299). -/
def State.kvxLane (s : State) (g : Group) (r : PathRef) (dir : DWord) (hdr : Loc) (ln : Lane) (a : Nat) :
    State × Except (Cause × DWord) (DWord × Bool × Bool) :=
  let sq := (ln.reg a).toNat
  let n := (ln.reg (a + 1)).toNat
  let po := s.poisoned hdr 16
  if sq ≥ s.numAt hdr 4 then (s, .ok (0, false, po))
  else
    let ea := dir + BitVec.ofNat 64 (16 + 16 * sq)
    match s.engineRead g r 8 ea with
    | (s, .error c) => (s, .error (c, ea))
    | (s, .ok el) =>
      let po := po || s.poisoned el 12
      if n / 16 ≥ s.numAt (el.plus 8) 4 then (s, .ok (0, false, po))
      else
        let ta := BitVec.ofNat 64 (s.numAt el 8) + BitVec.ofNat 64 (8 * (n / 16))
        match s.engineRead g r 8 ta with
        | (s, .error c) => (s, .error (c, ta))
        | (s, .ok tl) =>
          let po := po || s.poisoned tl 8
          let e := BitVec.ofNat 64 (s.numAt tl 8)
          if bit e 0 && fld e 63 55 == 0 && fld e 7 2 == 0 then
            (s, .ok (BitVec.ofNat 64 (fld e 54 8 * 256 + n % 16 * s.numAt (hdr.plus 4) 4), true, po))
          else (s, .ok (0, false, po))

/-- The lanes of a KVX in turn. -/
def State.kvxLanes (g : Group) (r : PathRef) (dir : DWord) (hdr : Loc) (a : Nat) :
    List Nat → State → State × List (Nat × DWord × Bool × Bool) × List Stop
  | [], s => (s, [], [])
  | l :: ls, s =>
    match s.kvxLane g r dir hdr (g.lane l) a with
    | (s, .error (c, x)) =>
      let (s, ok, bad) := State.kvxLanes g r dir hdr a ls s
      (s, ok, { lane := l, cause := c, addr := x : Stop } :: bad)
    | (s, .ok v) =>
      let (s, ok, bad) := State.kvxLanes g r dir hdr a ls s
      (s, (l, v) :: ok, bad)

/-- KVX (R232, R233, R299). -/
def execKvx (d a b : BitVec 8) (s : State) : Res :=
  issuing s fun r g p =>
    let chk : Checks := { field := isVPair g d && isVPair g a && isSPair b,
                          uses := ((readsRun a 2).and (readsRun b 2)).and (writesRun d 2) }
    let dir := g.spair (sNum b)
    let applied := g.applied p
    let early := applied.filterMap fun l => (chk.guardedCause g p l).map fun x => ({ lane := l, cause := x } : Stop)
    let ok := applied.filter fun l => (chk.guardedCause g p l).isNone
    if ok.isEmpty then
      conclude r early applied.isEmpty (fun s => s.issueEmpty r (p.flagFor .returning)) s
    else
      if dir.toNat % 16 ≠ 0 then
        conclude r (early ++ ok.map fun l => { lane := l, cause := .misaligned, addr := dir }) false (fun s => s) s
      else match s.engineRead g r 16 dir with
      | (s', .error c) =>
        conclude r (early ++ ok.map fun l => { lane := l, cause := c, addr := dir }) false (fun s => s) s'
      | (s', .ok hdr) =>
        let (s', got, late) := State.kvxLanes g r dir hdr a.toNat ok s'
        conclude r (early ++ late) (!got.isEmpty) (fun s =>
          s.issueOp r (p.flagFor .returning) (got.flatMap fun e =>
            [Dest.vreg e.1 d.toNat (loWord e.2.1) e.2.2.2, .vreg e.1 (d.toNat + 1) (hiWord e.2.1) e.2.2.2,
             .pred e.1 7 e.2.2.1 e.2.2.2]) (lane := p.lowLane)) s'

end Sys2Proof.Machine
end

