-- ==== Sys2Proof/Machine/Tickets.lean ====
section
/-! DEFINITION. Tickets: the table, TICKET, REDEEM and TKQUERY (R245 to R252, R256, R341), and the appends to a launch queue
that REDEEM and LAUNCH make (R159). -/

namespace Sys2Proof.Machine

/-! Regions that an engine reads. -/

/-- Pieces of a region of `n` bytes, each inside one page: addresses and lengths. -/
def pagePieces (a : DWord) : Nat → Nat → List (DWord × Nat)
  | 0, _ => []
  | fuel + 1, n =>
    let m := min n (pageSize - a.toNat % pageSize)
    if n = 0 then [] else (a, m) :: pagePieces (a + BitVec.ofNat 64 m) fuel (n - m)

/-- Every piece of a region is read as accesses of `sz` bytes, its first and its last checked (R106, R173). -/
def State.readPieces (ag : Agent) (kind : Acc) (sz : Nat) :
    List (DWord × Nat) → State → State × Except (Cause × DWord) (List (Loc × Nat))
  | [], s => (s, .ok [])
  | (a, m) :: rest, s =>
    let z := a + BitVec.ofNat 64 (m - sz)
    match s.access ag kind sz a with
    | (s, .error c) => (s, .error (c, a))
    | (s, .ok l) =>
      match s.access ag kind sz z with
      | (s, .error c) => (s, .error (c, z))
      | (s, .ok _) =>
        match State.readPieces ag kind sz rest s with
        | (s, .error c) => (s, .error c)
        | (s, .ok ls) => (s, .ok ((l, m) :: ls))

/-- A region of `n` bytes. -/
def State.readRegion (s : State) (ag : Agent) (sz : Nat) (a : DWord) (n : Nat) (kind : Acc := .engineRead) :
    State × Except (Cause × DWord) (List (Loc × Nat)) :=
  State.readPieces ag kind sz (pagePieces a (n / pageSize + 2) n) s

/-- The bytes of pieces in order. -/
def State.segBytes (s : State) (segs : List (Loc × Nat)) : List Byte := segs.flatMap fun e => s.bytesAt e.1 e.2
/-- Some byte of the pieces is poisoned. -/
def State.segPoison (s : State) (segs : List (Loc × Nat)) : Bool := segs.any fun e => s.poisoned e.1 e.2

/-! Queues. -/

/-- Slots of a queue's ring. -/
def Queue.slots (q : Queue) : Nat := 2 ^ fld q.ctl 4 0
/-- Packets appended and not yet off the head. -/
def Queue.waiting (q : Queue) : Nat := (q.tail - q.head).toNat
/-- Room for one more packet. -/
def Queue.room (q : Queue) : Bool := q.waiting < q.slots
/-- A queue that a context may append to: enabled, device-owned, of that context (R159). -/
def State.queueOk (s : State) (q ctx : Nat) : Bool :=
  q ≤ 63 && bit (s.queue q).ctl 31 && bit (s.queue q).ctl 30 && fld (s.queue q).ctx 11 0 == ctx
/-- A packet image is written to the next slot, and QTAIL advances (R159). -/
def State.appendPacket (s : State) (q : Nat) (img : List Byte) : State :=
  let x := s.queue q
  let slot : Loc := .dev (x.base.toNat + 128 * (x.tail.toNat % x.slots))
  let s := (s.setBytes slot img).touch slot
  s.updQueue q fun x => { x with tail := x.tail + 1 }

/-- Bytes of a list replaced from an offset. -/
def patch (b : List Byte) (off : Nat) (bs : List Byte) : List Byte := b.take off ++ bs ++ b.drop (off + bs.length)

/-! The table (R245, R246). -/

/-- Entries of a context's ticket table. -/
def Ctx.tickets (c : Ctx) : Nat := 2 ^ fld c.tkcfg 4 0
/-- Address of entry `i`. -/
def State.tkAddr (s : State) (ctx i : Nat) : Nat := (s.ctx ctx).tkbase.toNat * pageSize + 128 * i
/-- A field of an entry. -/
def State.tk (s : State) (ctx i off n : Nat) : Nat := s.numAt (.dev (s.tkAddr ctx i + off)) n
/-- A 64-bit field of an entry. -/
def State.tkD (s : State) (ctx i off : Nat) : DWord := BitVec.ofNat 64 (s.tk ctx i off 8)
/-- Write a field of an entry. -/
def State.setTk (s : State) (ctx i off n x : Nat) : State :=
  (s.setBytes (.dev (s.tkAddr ctx i + off)) (bytesOfNat n x)).touch (.dev (s.tkAddr ctx i + off))
/-- HELD of an entry. -/
def State.tkHeld (s : State) (ctx i : Nat) : Bool := s.tk ctx i 10 1 / 2 % 2 == 1
/-- Write HELD. -/
def State.setHeld (s : State) (ctx i : Nat) (b : Bool) : State :=
  s.setTk ctx i 10 1 (s.tk ctx i 10 1 % 2 + if b then 2 else 0)

/-- Expiry of a pending ticket (R250). -/
def State.expire (s : State) (ctx i : Nat) : State :=
  let io := s.tkD ctx i 32
  let ar := s.tkD ctx i 40
  let s := s.setTk ctx i 8 1 3
  let s := if io = 0 then s else s.unhold ctx io
  let s := if ar = 0 then s else s.unhold ctx ar
  s.setHeld ctx i false

/-- A TKCFG write (R245); none is a refusal. -/
def State.writeTkcfg (s : State) (ctx : Nat) (v : Word) : Option State :=
  let c := s.ctx ctx
  let n := c.tickets
  if fld v 29 5 != 0 || fld v 4 0 < 10 || fld v 4 0 > 20 then none
  else if bit c.tkcfg 31 then
    if fld v 4 0 != fld c.tkcfg 4 0 then none
    else
      let s := if bit v 31 then s
               else (List.range n).foldl (fun (s : State) i => if s.tk ctx i 8 1 = 1 then s.expire ctx i else s) s
      some (s.updCtx ctx fun c => { c with tkcfg := v })
  else if bit v 31 then
    let m := 2 ^ fld v 4 0
    if (List.range m).any fun i => s.tkHeld ctx i then none
    else some ((s.zeroDev (c.tkbase.toNat * pageSize) (128 * m)).updCtx ctx fun c => { c with tkcfg := v })
  else some (s.updCtx ctx fun c => { c with tkcfg := v })

/-- A TKBASE write (R245). -/
def State.writeTkbase (s : State) (ctx : Nat) (v : Word) : Option State :=
  let c := s.ctx ctx
  if bit c.tkcfg 31 && v != c.tkbase then none else some (s.updCtx ctx fun c => { c with tkbase := v })

/-! TICKET (R247, R248). -/

/-- The fields of a request block are in their limits. In a replayed team WOBJ may be the strong address that the replay block brings:
TICKET fails there in any case (R248, R257, log 62). -/
def requestOk (replay : Bool) (b : List Byte) : Bool :=
  let at8 (o : Nat) : DWord := BitVec.ofNat 64 (blkNum b o 8)
  let strong (x : DWord) : Bool := x == 0 || (fld x 63 62 == 1 && !oaWeak x)
  blkNum b 0 1 ≤ 2 && blkNum b 1 1 ≤ 15 && blkZero b 2 2 && blkNum b 4 4 % 16 == 0 && blkNum b 4 4 < 2 ^ 30 &&
  fld (at8 8) 63 62 == 1 && (replay || oaWeak (at8 8)) && (at8 16 == 0 || fld (at8 16) 63 61 == 3) && strong (at8 24) && strong (at8 32) &&
  at8 40 != 0 && blkNum b 40 1 % 16 == 0 && at8 48 != 0 && blkNum b 48 1 % 16 == 0 &&
  (blkNum b 4 4 == 0 || blkNum b 56 1 % 16 == 0) && blkZero b 76 4

/-- The first entry that is free, or neither pending nor held (R248). -/
def State.freeTicket (s : State) (ctx : Nat) : Option Nat :=
  (List.range (s.ctx ctx).tickets).find? fun i => s.tk ctx i 8 1 != 1 && !s.tkHeld ctx i

/-- The pending entry with the lowest SEQ. -/
def State.oldestTicket (s : State) (ctx : Nat) : Option Nat :=
  (List.range (s.ctx ctx).tickets).foldl (fun m i =>
    if s.tk ctx i 8 1 != 1 then m
    else match m with
      | none => some i
      | some j => if s.tk ctx i 0 8 / 2 ^ 20 < s.tk ctx j 0 8 / 2 ^ 20 then some i else some j) none

/-- The reason code of a failed TICKET as a result pair (R248). -/
def ticketFail (reason : Nat) : DWord := BitVec.ofNat 64 (2 ^ 63 + reason)

/-- The bytes of a new entry (R246). -/
def ticketBytes (id wver : Nat) (b : List Byte) (seed : DWord) (stream : Word) (hash : Option (List Byte)) :
    List Byte :=
  let body : List Byte :=
    bytesOfNat 8 id ++ bytesOfNat 1 1 ++ b.take 1 ++ bytesOfNat 1 (2 + hash.isSome.toNat) ++ [0] ++ bytesOfNat 4 wver ++
    (b.drop 8).take 48 ++ bytesOfNat 8 seed.toNat ++ bytesOfNat 4 stream.toNat ++ (b.drop 64).take 12 ++
    hash.getD (bytesOfNat 8 0) ++ (b.drop 56).take 8 ++ (b.drop 4).take 4 ++ List.replicate 12 0
  body ++ (sha256 (patch (patch body 8 [0]) 10 [0])).take 8

/-- A strong hold as HUPG takes it (R247, R297): an atomic pair with the path's MORD at device scope, whether or not the object is gone;
the second says that it is held. -/
def State.holdFor (s : State) (r : PathRef) (p : Path) (ctx : Nat) (a : DWord) : State × Bool :=
  let (s, x) := s.hold1 ctx a
  (s.lifeOrder r p.mode ctx (oaIndex a), x != 0)

/-- A hold on an address that a block may leave zero. -/
def State.holdSome (s : State) (r : PathRef) (p : Path) (ctx : Nat) (a : DWord) : State × Bool :=
  if a = 0 then (s, true) else s.holdFor r p ctx a

/-- A hold on such an address is dropped. -/
def State.dropSome (s : State) (ctx : Nat) (a : DWord) : State := if a = 0 then s else s.unhold ctx a

/-- The work of a TICKET whose checks passed (R248): the result pair. Holds that it takes are dropped where it fails. -/
def State.ticket (s : State) (r : PathRef) (p : Path) (g : Group) (b : List Byte) (region : List (Loc × Nat)) : State × DWord :=
  let ctx := g.ctx
  let at8 (o : Nat) : DWord := BitVec.ofNat 64 (blkNum b o 8)
  let io := at8 24
  let ar := at8 32
  if g.replay then (s, ticketFail 4)
  else if !s.objAlive ctx (at8 8) then (s, ticketFail 3)
  else
    match s.holdSome r p ctx io with
    | (s, false) => (s, ticketFail 2)
    | (s, true) =>
    match s.holdSome r p ctx ar with
    | (s, false) => (s.dropSome ctx io, ticketFail 2)
    | (s, true) =>
    match s.freeTicket ctx, (if bit (s.ctx ctx).tkcfg 30 then s.oldestTicket ctx else none) with
    | none, none => ((s.dropSome ctx ar).dropSome ctx io, ticketFail 1)
    | some e, _ | none, some e =>
      let s := if s.tk ctx e 8 1 = 1 then s.expire ctx e else s
      let seq := (s.ctx ctx).tkseq
      let id := seq * 2 ^ 20 + e
      let hash := if blkNum b 4 4 = 0 then none else some ((sha256 (s.segBytes region)).take 8)
      let slot := blkNum b 1 1
      let bytes := ticketBytes id (s.obj ctx (oaIndex (at8 8))).version b (g.seedOf slot) (g.streamOf slot) hash
      let place : Loc := .dev (s.tkAddr ctx e)
      let s := ((s.setBytes place bytes).touch place).spendFence r 128 [place]
      (s.updCtx ctx fun c => { c with tkseq := if seq + 1 ≥ 2 ^ 43 then 1 else seq + 1 }, BitVec.ofNat 64 id)

/-- TICKET (R247, R248, R341). -/
def execTicket (d b : BitVec 8) (s : State) : Res :=
  issuing s fun r g p =>
    let off := (g.sreg (sNum b)).toNat
    let blk := s.block g off 80
    let addr (o : Nat) : DWord := BitVec.ofNat 64 (blkNum blk o 8)
    let full (x : DWord) : Bool := x != 0 && s.holdFull g.ctx x
    let chk : Checks :=
      { field := isSPair d && isS b, uses := (readsRun b 1).and (writesRun d 2),
        late := fun _ _ =>
          if s.blockPoison g off 80 then some .poison
          else if !bit (s.ctx g.ctx).tkcfg 31 || !s.blockOk g off 80 16 then some .illegalOperand
          else if !requestOk g.replay blk || (!g.replay && (full (addr 24) || full (addr 32))) then some .illegalOperand
          else none }
    match chk.cause g 0 {} with
    | some c => s.stopAll r p c
    | none =>
      match s.readRegion (g.agent r.group none) 16 (addr 56) (blkNum blk 4 4) with
      | (s, .error (c, a)) => s.stopAll r p c a
      | (s, .ok region) =>
        match s.reserve g.ctx 1 g.isHandler with
        | none => s.stopAll r p .logFull
        | some s => conclude r [] true (fun s =>
            let s := (s.saw r ((.pad g.team off, 80) :: region)).logIrrev (s.writer r.group p.lowLane) 3
            let (s, x) := s.ticket r p g blk region
            s.issueOp r (p.flagFor .returning) (pairDests d x) (lane := p.lowLane)) s

/-! REDEEM (R249, R250). -/

/-- The fields of a redemption block are in their limits. -/
def redemptionOk (b : List Byte) : Bool :=
  let fb : DWord := BitVec.ofNat 64 (blkNum b 8 8)
  (fb == 0 || (fld fb 63 62 == 1 && !oaWeak fb)) && (blkNum b 16 1 ≤ 2 || blkNum b 16 1 == 255) && blkNum b 17 1 ≤ 63 &&
  blkZero b 18 6 && blkNum b 24 1 % 16 == 0 && blkNum b 32 1 % 16 == 0 && blkNum b 48 1 % 64 == 0 && blkZero b 56 8

/-- The entry that an ID names, where it holds that ID (R249). -/
def State.findTicket (s : State) (ctx : Nat) (id : DWord) : Option Nat :=
  let i := fld id 19 0
  if bit id 63 || i ≥ (s.ctx ctx).tickets || s.tkD ctx i 0 != id then none else some i

/-- What a REDEEM comes to, before anything changes: status, staleness, and for a launch the weights and the mode. -/
structure Redemption where
  status : Nat
  stale  : Nat := 0
  w      : DWord := 0
  exact  : Bool := true
  /-- the holds that it tries, in order -/
  tries  : List DWord := []
  deriving DecidableEq, Repr

/-- Versions published since the ticket's (R249). -/
def State.staleness (s : State) (ctx i : Nat) : Nat :=
  let l := s.tkD ctx i 24
  ((BitVec.ofNat 32 (s.obj ctx (oaIndex l)).version : Word) - 1 - BitVec.ofNat 32 (s.tk ctx i 12 4)).toNat

/-- The decision of R249. -/
def State.redemption (s : State) (ctx : Nat) (b : List Byte) : Redemption :=
  let id : DWord := BitVec.ofNat 64 (blkNum b 0 8)
  let fb : DWord := BitVec.ofNat 64 (blkNum b 8 8)
  match s.findTicket ctx id with
  | none => { status := 1 }
  | some i =>
    let st := s.tk ctx i 8 1
    let held := [fb].filter (· != 0)
    if st ≠ 1 then { status := 2, stale := st }
    else if fb != 0 && !s.objAlive ctx fb then { status := 4, tries := held }
    else
      let pol := if blkNum b 16 1 = 255 then s.tk ctx i 9 1 else blkNum b 16 1
      let w := s.tkD ctx i 16
      let l := s.tkD ctx i 24
      let held := if pol = 1 then held else held ++ [w]
      let strong (a : DWord) : DWord := a &&& ~~~0x2000000000000000#64
      if pol ≠ 1 && s.objAlive ctx w then { status := 0, w := strong w, tries := held }
      else if pol = 0 then { status := 3, tries := held }
      else if l = 0 then { status := 5, tries := held }
      else if !s.objAlive ctx l then { status := 5, tries := held ++ [l] }
      else { status := 0, stale := s.staleness ctx i, w := strong l, exact := false, tries := held ++ [l] }

/-- The replay block (R250). -/
def State.replayBlock (s : State) (ctx i : Nat) (b : List Byte) (x : Redemption) : List Byte :=
  let a := s.tkAddr ctx i
  s.bytesAt (.dev a) 8 ++ bytesOfNat 8 x.w.toNat ++ s.bytesAt (.dev (a + 32)) 16 ++ (b.drop 8).take 8 ++
  s.bytesAt (.dev (a + 64)) 12 ++ bytesOfNat 4 x.stale ++ bytesOfNat 1 (!x.exact).toNat ++ List.replicate 7 0

/-- The forward packet from its template (R250). -/
def State.forwardPacket (s : State) (ctx i : Nat) (b t : List Byte) : List Byte :=
  let flags := ((t.getD 1 0) ||| 4#8)
  let t := patch (patch t 1 [flags]) 16 (s.bytesAt (.dev (s.tkAddr ctx i + 76)) 12)
  let t := patch (patch t 56 ((b.drop 48).take 8)) 96 ((b.drop 24).take 8)
  patch (patch t 104 (List.replicate 8 0)) 64 (List.replicate 32 0)

/-- The backward packet from its template (R250). -/
def backwardPacket (b t : List Byte) : List Byte :=
  let t := patch (patch t 56 ((b.drop 48).take 8)) 96 ((b.drop 32).take 8)
  let dep : List Byte := [1, 0, 0, 0, 0, 0, 0, 0] ++ (b.drop 24).take 8
  patch (patch (patch t 104 ((b.drop 40).take 8)) 64 dep) 80 (List.replicate 16 0)

/-- The work of a REDEEM whose checks passed; `rb` is where the replay block lies. -/
def State.redeem (s : State) (r : PathRef) (g : Group) (p : Path) (d : BitVec 8) (b : List Byte) (x : Redemption)
    (rb : Loc) (ft bt : List Byte) : State :=
  let ctx := g.ctx
  let result : DWord := dword (BitVec.ofNat 32 x.status) (BitVec.ofNat 32 x.stale)
  let finish (s : State) (work : Work) : State :=
    s.issueOp r (p.flagFor .returning) (pairDests d result) (work := work) (lane := p.lowLane)
  let fb : DWord := BitVec.ofNat 64 (blkNum b 8 8)
  let s := x.tries.foldl (fun s a => (s.holdFor r p ctx a).1) s
  let s := if x.status = 3 ∨ x.status = 5 then s.dropSome ctx fb else s
  match s.findTicket ctx (BitVec.ofNat 64 (blkNum b 0 8)) with
  | none => finish s .nothing
  | some i =>
    let io := s.tkD ctx i 32
    let ar := s.tkD ctx i 40
    if x.status = 3 then
      let s := s.setTk ctx i 8 1 4
      let s := (s.dropSome ctx io).dropSome ctx ar
      finish (s.setHeld ctx i false) .nothing
    else if x.status ≠ 0 then finish s .nothing
    else
      let s := s.setTk ctx i 8 1 2
      let s := ((s.store (s.writer r.group p.lowLane) 3 rb (s.replayBlock ctx i b x)).touch rb).spendFence r 64 [rb]
      let digest := if x.exact && s.tk ctx i 10 1 % 2 == 1
        then some (s.tkD ctx i 96, s.tk ctx i 104 4, s.tkD ctx i 88) else none
      let imgs := [s.forwardPacket ctx i b ft, backwardPacket b bt]
      let rec_ : Redeemed := { entry := i, queue := blkNum b 17 1, op := s.nextOp,
                               holds := ([x.w, fb, io, ar]).filter (· != 0), digest := digest }
      finish (s.updCtx ctx fun c => { c with redeemed := c.redeemed ++ [rec_] }) (.packets (blkNum b 17 1) imgs)

/-- REDEEM (R247, R249, R250). -/
def execRedeem (d b : BitVec 8) (s : State) : Res :=
  issuing s fun r g p =>
    let off := (g.sreg (sNum b)).toNat
    let blk := s.block g off 64
    let x := s.redemption g.ctx blk
    let e := s.findTicket g.ctx (BitVec.ofNat 64 (blkNum blk 0 8))
    let held : List DWord := BitVec.ofNat 64 (blkNum blk 8 8) ::
      (match e with | some i => [s.tkD g.ctx i 16, s.tkD g.ctx i 24] | none => [])
    let chk : Checks :=
      { field := isSPair d && isS b, uses := (readsRun b 1).and (writesRun d 2),
        late := fun _ _ =>
          if s.blockPoison g off 64 then some .poison
          else if !bit (s.ctx g.ctx).tkcfg 31 || !s.blockOk g off 64 16 then some .illegalOperand
          else if !redemptionOk blk || !s.queueOk (blkNum blk 17 1) g.ctx ||
              held.any (fun a => a != 0 && s.holdFull g.ctx a)
          then some .illegalOperand else none }
    let ag := g.agent r.group none
    match chk.cause g 0 {} with
    | some c => s.stopAll r p c
    | none =>
      let template (s : State) (o : Nat) : State × Except (Cause × DWord) (List (Loc × Nat)) :=
        match e with
        | some i => s.readRegion ag 16 (s.tkD g.ctx i o) 128
        | none => (s, .ok [])
      match template s 48 with
      | (s, .error (c, a)) => s.stopAll r p c a
      | (s, .ok f) =>
        match template s 56 with
        | (s, .error (c, a)) => s.stopAll r p c a
        | (s, .ok bk) =>
          let ra : DWord := BitVec.ofNat 64 (blkNum blk 48 8)
          let before := s
          match (if x.status = 0 then s.access ag .engineWrite 16 ra else (s, .ok .lost)) with
          | (s, .error c) => if s.lacks ≠ before.lacks then before.stallCopies s r else s.stopAll r p c ra
          | (s, .ok rb) =>
            match s.reserve g.ctx (if x.status = 0 && rb.logs then 2 else 1) g.isHandler with
            | none => s.stopAll r p .logFull
            | some s => conclude r [] true (fun s =>
                ((s.saw r ((.pad g.team off, 64) :: (f ++ bk))).logIrrev (s.writer r.group p.lowLane) 3).redeem r g p d blk x rb (s.segBytes f) (s.segBytes bk)) s

/-- TKQUERY (R251, R341). -/
def execTkquery (d a : BitVec 8) (s : State) : Res :=
  uniformOp (fun g _ =>
      { field := isSPair d && isSPair a, uses := (readsRun a 2).and (writesRun d 2),
        late := fun _ _ => if bit (s.ctx g.ctx).tkcfg 31 then none else some .illegalOperand })
    (fun r g p s =>
      let x : DWord := match s.findTicket g.ctx (g.spair (sNum a)) with
        | none => dword 0xFF#32 0xFFFFFFFF#32
        | some i =>
          let w := s.tkD g.ctx i 16
          let l := s.tkD g.ctx i 24
          let st := s.tk g.ctx i 8 1 + (if s.objAlive g.ctx w then 0 else 256) + (if s.tkHeld g.ctx i then 512 else 0)
          dword (BitVec.ofNat 32 st)
            (if l = 0 || !s.objAlive g.ctx l then 0xFFFFFFFF#32 else BitVec.ofNat 32 (s.staleness g.ctx i))
      s.issueOp r (p.flagFor .returning) (pairDests d x) (lane := p.lowLane)) s

end Sys2Proof.Machine
end

