-- ==== Sys2Proof/Machine/Special.lean ====
section
/-! DEFINITION. Special registers: SRD and SWR (R324 to R328), the rules of the registers that privileged software writes,
and the events that stand for such writes. -/

namespace Sys2Proof.Machine

/-! Selectors (R324). -/

/-- A key-slot selector: slot and which register of it (0 low seed, 1 high seed, 2 stream). -/
def slotOf (b : Nat) : Option (Nat × Nat) :=
  if 0x40 ≤ b ∧ b < 0x80 ∧ b % 4 ≠ 3 then some ((b - 0x40) / 4, b % 4) else none
/-- HCAP0 to HCAP10. -/
def isHcap (b : Nat) : Bool := 0x30 ≤ b && b ≤ 0x3A
/-- The selector names a register. -/
def assigned (b : Nat) : Bool := b ≤ 0x26 || isHcap b || (slotOf b).isSome
/-- SWR to the register is a fault. -/
def swrFaults (b : Nat) : Bool :=
  b ≤ 0x08 || b == 0x0C || b == 0x0E || b == 0x0F || b == 0x15 || b == 0x16 || b == 0x17 || (0x1C ≤ b && b ≤ 0x1F) ||
  isHcap b
/-- Only a handler thread writes the register. -/
def swrPrivileged (b : Nat) : Bool :=
  b == 0x12 || b == 0x18 || b == 0x19 || b == 0x1B || (0x20 ≤ b && b ≤ 0x25)

/-! Values. -/

/-- CONFIG (R21). -/
def configWord : Word := 0x01806044#32
/-- The core's cycle counter (R325). -/
def State.cycles (s : State) (core : Nat) : Nat := clocks core (s.clock - (s.core core).since)
/-- PROGRESS as it reads (R326). -/
def Team.estimate (t : Team) : Word :=
  if t.progress = 0 then 0
  else BitVec.ofNat 32 (max 1 (min (t.progress - t.cyclesResident) 0xFFFFFFFF))
/-- Four status bits of a tile (R217). -/
def Team.tileBits (t : Team) (k : Nat) : Nat :=
  if k ≥ t.tiles then 0
  else (bit t.tV k).toNat + 2 * (bit t.tD k).toNat + 4 * (bit t.tF k).toNat + 8 * (bit t.tP k).toNat
/-- TSTAT0 and TSTAT1 (R217). -/
def Team.tstat (t : Team) (i : Nat) : Word :=
  BitVec.ofNat 32 ((List.range 8).foldl (fun a j => a + t.tileBits (8 * i + j) * 16 ^ j) 0)
/-- LOGFIRST (R197). -/
def Ctx.logfirst (c : Ctx) : Word :=
  match c.ring.find? (·.kind == 5) with | some e => e.window | none => 0xFFFFFFFF
/-- LOGSTAT (R197). -/
def Ctx.logstat (c : Ctx) : Word := BitVec.ofNat 32 (c.logEn.toNat * 2 ^ 31 + c.logStop.toNat * 2 ^ 30)
/-- HCAP0 to HCAP10 (R179), VALID as given. -/
def HCap.word (h : HCap) (valid : Bool) (ctx i : Nat) : Word :=
  match i with
  | 0 => BitVec.ofNat 32 (ctx * 2 ^ 20 + h.core * 2 ^ 13 + h.tslot * 2 ^ 10 + h.gid * 2 ^ 6 + h.path * 2 + valid.toNat)
  | 1 => h.mask
  | 2 => BitVec.ofNat 32 (h.summary * 2 ^ 27 + h.depth * 2 ^ 24 + h.rung * 2 ^ 21 + h.hnd.toNat * 2 ^ 20 +
           h.wide.toNat * 2 ^ 10 + h.rewind.toNat * 2 ^ 9 + h.map.toNat * 2 ^ 8 + h.tcode.toNat)
  | _ => BitVec.ofNat 32 ((List.range 4).foldl (fun a j => a + (tget 0#8 h.causes (4 * (i - 3) + j)).toNat * 256 ^ j) 0)
/-- A key-slot register. -/
def Group.slotWord (g : Group) (k w : Nat) : Word :=
  match w with | 0 => loWord (g.seedOf k) | 1 => hiWord (g.seedOf k) | _ => g.streamOf k

/-- The team-scope registers, of a team. -/
def Team.special (t : Team) (b : Nat) : Word :=
  match b with
  | 0x03 => BitVec.ofNat 32 t.x
  | 0x04 => BitVec.ofNat 32 t.y
  | 0x05 => BitVec.ofNat 32 t.z
  | 0x06 => BitVec.ofNat 32 t.pos
  | 0x0D => t.estimate
  | 0x0E => t.logwin
  | 0x16 => t.tstat 0
  | 0x17 => t.tstat 1
  | _ => 0

/-- The core-scope and device-scope registers. -/
def State.coreSpecial (s : State) (core b : Nat) : Word :=
  match b with
  | 0x07 => BitVec.ofNat 32 core
  | 0x08 => BitVec.ofNat 32 (core / 24)
  | 0x0A => BitVec.ofNat 32 (s.cycles core)
  | 0x10 => configWord
  | 0x11 => BitVec.ofNat 32 s.host.mhz
  | 0x12 => (s.core core).wdog
  | 0x1A => BitVec.ofNat 32 s.poolFree
  | 0x1B => s.poolmark
  | 0x23 => (s.core core).preth
  | 0x24 => (s.core core).profcfg
  | 0x25 => (s.core core).profbase
  | 0x26 => (s.core core).profpos
  | _ => 0

/-- The context-scope registers. -/
def Ctx.special (c : Ctx) (b : Nat) : Word :=
  match b with
  | 0x18 => c.ptroot
  | 0x19 => c.objtab
  | 0x1C => c.logbase
  | 0x1D => c.logcfg
  | 0x1E => c.logstat
  | 0x1F => c.logfirst
  | 0x20 => c.tkbase
  | 0x21 => c.tkcfg
  | 0x22 => c.fltcfg
  | _ => 0

/-- A special register as a lane of a path reads it (R324 to R327). -/
def State.special (s : State) (k : Nat) (g : Group) (p : Path) (lane b : Nat) : Word :=
  let ln := g.lane lane
  match b with
  | 0x00 => BitVec.ofNat 32 lane
  | 0x01 => BitVec.ofNat 32 (lane / 4)
  | 0x02 => BitVec.ofNat 32 (if g.isHandler then partOf k else g.gid)
  | 0x09 => if g.isHandler then 0 else g.role.setWidth 32
  | 0x0B => p.cycleh
  | 0x0C => if g.replay && !g.isHandler then 1 else 0
  | 0x0F => ln.rcnt
  | 0x13 => ln.sridx
  | 0x14 => ln.fpstat.setWidth 32
  | 0x15 => g.lflags.setWidth 32
  | 0x03 | 0x04 | 0x05 | 0x06 | 0x0D | 0x0E | 0x16 | 0x17 => if g.isHandler then 0 else (s.team g.team).special b
  | 0x18 | 0x19 | 0x1C | 0x1D | 0x1E | 0x1F | 0x20 | 0x21 | 0x22 => (s.ctx g.ctx).special b
  | _ =>
    match slotOf b, g.hcap with
    | some (i, w), _ => g.slotWord i w
    | none, some h => if isHcap b then h.word (s.capValid h) g.ctx (b - 0x30) else s.coreSpecial (coreOf k) b
    | none, none => s.coreSpecial (coreOf k) b

/-- An SRD of CYCLE latches the high half of the counter in the path (R325). -/
def State.latchCycle (s : State) (r : PathRef) (b : BitVec 8) : State :=
  if b = 0x0A#8 then
    s.updPath r fun p => { p with cycleh := BitVec.ofNat 32 (s.cycles (coreOf r.group) / 2 ^ 32) }
  else s

/-- SRD to a uniform register: once, whatever the guard; a lane-scope register gives the lowest lane's value (R327). -/
def srdUniform (d b : BitVec 8) : State → Res :=
  fun s => uniformOp (fun g _ => { field := assigned b.toNat && (!isHcap b.toNat || g.isHandler), uses := writesRun d 1 })
    (fun r g p s => (s.updGroup r.group fun x => x.setSreg (sNum d) (s.special r.group g p p.lowLane b.toNat)).latchCycle
      r b) s

/-- SRD to a vector register in each active lane (R327). -/
def srdVector (d b : BitVec 8) : State → Res :=
  fun s => guardedOp (fun g _ => { field := isV g d && assigned b.toNat && (!isHcap b.toNat || g.isHandler),
                                   uses := writesRun d 1 })
    (fun r g p ls s =>
      let s' := s.onLanes r.group ls fun l ln => ln.setReg d.toNat (s.special r.group g p l b.toNat)
      if ls.isEmpty then s' else s'.latchCycle r b) s

/-- SRD (R327). -/
def execSrd (d b : BitVec 8) (s : State) : Res := if isS d then srdUniform d b s else srdVector d b s

/-! Writes with rules; none is a refusal. -/

/-- WDOG (R46). -/
def State.writeWdog (s : State) (core : Nat) (v : Word) : Option State :=
  if fld v 31 6 = 0 ∧ 20 ≤ fld v 5 0 ∧ fld v 5 0 ≤ 40 then some (s.updCore core fun c => { c with wdog := v }) else none
/-- PRETH (R188). -/
def State.writePreth (s : State) (core : Nat) (v : Word) : Option State :=
  if fld v 31 6 = 0 ∧ 10 ≤ fld v 5 0 ∧ fld v 5 0 ≤ 40 then some (s.updCore core fun c => { c with preth := v }) else none
/-- PROFCFG (R211). -/
def State.writeProfcfg (s : State) (core : Nat) (v : Word) : Option State :=
  if fld v 30 13 = 0 ∧ fld v 7 5 = 0 ∧ 10 ≤ fld v 12 8 ∧ fld v 12 8 ≤ 24 ∧ 6 ≤ fld v 4 0 ∧ fld v 4 0 ≤ 20 then
    some (s.updCore core fun c => { c with profcfg := v }) else none
/-- A time-out field of FLTCFG holds 0 or 10 to 40 (R185). -/
def timeoutOk (k : Nat) : Bool := k == 0 || (10 ≤ k && k ≤ 40)
/-- FLTCFG (R185). -/
def State.writeFltcfg (s : State) (ctx : Nat) (v : Word) : Option State :=
  if !bit v 1 && timeoutOk (fld v 31 26) && timeoutOk (fld v 25 20) && timeoutOk (fld v 19 14) &&
     timeoutOk (fld v 13 8) && timeoutOk (fld v 7 2) then some (s.updCtx ctx fun c => { c with fltcfg := v }) else none
/-- POOLMARK (R126). -/
def State.writePoolmark (s : State) (v : Word) : Option State :=
  if fld v 31 16 ≥ fld v 15 0 then some { s with poolmark := v } else none
/-- ROLE (R39). -/
def State.writeRole (s : State) (k : Nat) (v : Word) : Option State :=
  if v.toNat ≤ 7 then some (s.updGroup k fun g => { g with role := v.setWidth 3 }) else none
/-- PROGRESS (R326). -/
def State.writeProgress (s : State) (t : Nat) (v : Word) : State :=
  s.updTeam t fun x => { x with progress := if v = 0 then 0 else x.cyclesResident + v.toNat }
/-- FPSTAT (R95). -/
def State.writeFpstat (s : State) (k l : Nat) (v : Word) : Option State :=
  if fld v 31 5 = 0 then some (s.onLanes k [l] fun _ ln => { ln with fpstat := v.setWidth 5 }) else none
/-- A key-slot register (R100). -/
def Group.setSlot (g : Group) (k w : Nat) (v : Word) : Group :=
  match w with
  | 0 => { g with seed := tput g.seed k (dword v (hiWord (g.seedOf k))) }
  | 1 => { g with seed := tput g.seed k (dword (loWord (g.seedOf k)) v) }
  | _ => { g with stream := tput g.stream k v }

/-- PTROOT: accesses issued from now on walk the new table, so no translation of the context that came from the old one stays
(R115); those with G = 1 are no context's own (R118). -/
def State.writePtroot (s : State) (ctx : Nat) (v : Word) : State :=
  (s.updCtx ctx fun c => { c with ptroot := v }).invalidate ctx none false

/-- SWR of a register that is not lane-scope; none where the register's own rule rejects the value (R328). -/
def State.writeSpecial (s : State) (k : Nat) (g : Group) (b : Nat) (v : Word) : Option State :=
  match b with
  | 0x09 => s.writeRole k v
  | 0x0D => some (s.writeProgress g.team v)
  | 0x12 => s.writeWdog (coreOf k) v
  | 0x18 => some (s.writePtroot g.ctx v)
  | 0x19 => some (s.updCtx g.ctx fun c => { c with objtab := v })
  | 0x1B => s.writePoolmark v
  | 0x20 => s.writeTkbase g.ctx v
  | 0x21 => s.writeTkcfg g.ctx v
  | 0x22 => s.writeFltcfg g.ctx v
  | 0x23 => s.writePreth (coreOf k) v
  | 0x24 => s.writeProfcfg (coreOf k) v
  | 0x25 => some (s.updCore (coreOf k) fun c => { c with profbase := v })
  | _ =>
    match slotOf b with
    | some (i, w) => some (s.updGroup k fun g => g.setSlot i w v)
    | none => some s

/-- SWR of a lane-scope register (R328): SRIDX and FPSTAT take the value lane by lane; the others fault. -/
def swrLane (a b : BitVec 8) : State → Res :=
  fun s =>
    let val (g : Group) (ln : Lane) : Word := if isS a then g.sreg (sNum a) else ln.reg a.toNat
    laneOp (fun g _ => { field := isReg g a && !swrFaults b.toNat, uses := readsRun a 1,
                         late := fun _ ln => if b = 0x14#8 && fld (val g ln) 31 5 != 0 then some .illegalOperand else none })
      (fun g _ _ ln => if b = 0x14#8 then { ln with fpstat := (val g ln).setWidth 5 } else { ln with sridx := val g ln }) s

/-- SWR of any other register, once for the path (R328). -/
def swrShared (a b : BitVec 8) : State → Res :=
  fun s => issuing s fun r g p =>
    let v := g.sreg (sNum a)
    let chk : Checks :=
      { field := isS a && assigned b.toNat && !swrFaults b.toNat && (!swrPrivileged b.toNat || g.isHandler) &&
                 !(g.isHandler && b == 0x0D#8),
        uses := readsRun a 1 }
    match chk.cause g 0 {} with
    | some c => s.stopAll r p c
    | none =>
      match s.writeSpecial r.group g b.toNat v with
      | none => s.stopAll r p .illegalOperand
      | some s' => conclude r [] true (fun _ => s') s

/-- SWR (R328). -/
def execSwr (a b : BitVec 8) (s : State) : Res := if laneScope b.toNat then swrLane a b s else swrShared a b s

/-! The events of such writes (R7): a value that the register's rule rejects changes nothing. -/

/-- WDOG_WRITE: core, value. -/
def execWdogWrite (s : State) : Res := .next ((s.writeWdog s.ev.a (loWord s.ev.v)).getD s)
/-- PRETH_WRITE: core, value. -/
def execPrethWrite (s : State) : Res := .next ((s.writePreth s.ev.a (loWord s.ev.v)).getD s)
/-- PROFCFG_WRITE: core, value. -/
def execProfcfgWrite (s : State) : Res := .next ((s.writeProfcfg s.ev.a (loWord s.ev.v)).getD s)
/-- FLTCFG_WRITE: context, value. -/
def execFltcfgWrite (s : State) : Res := .next ((s.writeFltcfg s.ev.a (loWord s.ev.v)).getD s)
/-- POOLMARK_WRITE: value. -/
def execPoolmarkWrite (s : State) : Res := .next ((s.writePoolmark (loWord s.ev.v)).getD s)
/-- TKCFG_WRITE: context, value. -/
def execTkcfgWrite (s : State) : Res := .next ((s.writeTkcfg s.ev.a (loWord s.ev.v)).getD s)
/-- TKBASE_WRITE: context, value. -/
def execTkbaseWrite (s : State) : Res := .next ((s.writeTkbase s.ev.a (loWord s.ev.v)).getD s)
/-- ROLE_WRITE: group, value. -/
def execRoleWrite (s : State) : Res := .next ((s.writeRole s.ev.a (loWord s.ev.v)).getD s)
/-- PROGRESS_WRITE: team, value. -/
def execProgressWrite (s : State) : Res := .next (s.writeProgress s.ev.a (loWord s.ev.v))
/-- FPSTAT_WRITE: group, lane, value. -/
def execFpstatWrite (s : State) : Res := .next ((s.writeFpstat s.ev.a s.ev.b (loWord s.ev.v)).getD s)

end Sys2Proof.Machine
end

