-- ==== Sys2Proof/Machine/Queues.lean ====
section
/-! DEFINITION. Launch queues (R156 to R159, R300), packets and their check at the head (R160 to R162), completion bitmaps and
grid completion (R164 to R166), and MARKDONE (R307). -/

namespace Sys2Proof.Machine

/-! Queue registers. -/

/-- A refused write sets ERR. -/
def State.queueErr (s : State) (q : Nat) : State := s.updQueue q fun x => { x with err := true }

/-- QBASE takes a value (R156): a multiple of 4 KiB, and unchanged while EN = 1. -/
def State.writeQbase (s : State) (q : Nat) (v : DWord) : State :=
  let x := s.queue q
  if fld v 11 0 != 0 || (bit x.ctl 31 && v != x.base) then s.queueErr q else s.updQueue q fun x => { x with base := v }

/-- A write of QBASE: whole, or its low half, which waits for the high half (R157, log 35). -/
def State.writeQbasePart (s : State) (q half : Nat) (v : DWord) : State :=
  match half with
  | 0 => s.writeQbase q v
  | 1 => s.updQueue q fun x => { x with baseLo := loWord v }
  | _ => s.writeQbase q (dword (s.queue q).baseLo (loWord v))

/-- A write of QCTL (R156): OWNER and LOGSZ are fixed while EN = 1. -/
def State.writeQctl (s : State) (q : Nat) (v : Word) : State :=
  let x := s.queue q
  let fixed (w : Word) : Nat × Nat := (fld w 30 30, fld w 4 0)
  if fld v 26 24 != 0 || fld v 15 5 != 0 || fld v 4 0 < 4 || fld v 4 0 > 16 || (bit x.ctl 31 && fixed v != fixed x.ctl)
  then s.queueErr q else s.updQueue q fun x => { x with ctl := v }

/-- A write of QCTX (R156). -/
def State.writeQctx (s : State) (q : Nat) (v : Word) : State :=
  let x := s.queue q
  if fld v 31 12 != 0 || (bit x.ctl 31 && v != x.ctx) then s.queueErr q else s.updQueue q fun x => { x with ctx := v }

/-- A write of QTAIL (R158): refused at stage 0 (R261). -/
def State.writeQtail (s : State) (q : Nat) (v : Word) : State :=
  let x := s.queue q
  if s.host.stage = 0 || bit x.ctl 30 || (v - x.tail).toNat + x.waiting > x.slots then s.queueErr q
  else s.updQueue q fun x => { x with tail := v }

/-- QBASE_WRITE: queue, half, value. -/
def execQbaseWrite (s : State) : Res := .next (if s.ev.a > 63 then s else s.writeQbasePart s.ev.a s.ev.b s.ev.v)
/-- QCTL_WRITE: queue, value. -/
def execQctlWrite (s : State) : Res := .next (if s.ev.a > 63 then s else s.writeQctl s.ev.a (loWord s.ev.v))
/-- QCTX_WRITE: queue, value. -/
def execQctxWrite (s : State) : Res := .next (if s.ev.a > 63 then s else s.writeQctx s.ev.a (loWord s.ev.v))
/-- QTAIL_WRITE: queue, value. -/
def execQtailWrite (s : State) : Res := .next (if s.ev.a > 63 then s else s.writeQtail s.ev.a (loWord s.ev.v))

/-! LAUNCH. -/

/-- LAUNCH (R159, R300): the image is read at issue; the append may wait for a slot. -/
def execLaunch (a b : BitVec 8) (s : State) : Res :=
  issuing s fun r g p =>
    let q := (g.sreg (sNum a)).toNat
    let off := (g.sreg (sNum b)).toNat
    let chk : Checks :=
      { field := isS a && isS b, uses := (readsRun a 1).and (readsRun b 1),
        late := fun _ _ =>
          if s.blockPoison g off 128 then some .poison
          else if !s.queueOk q g.ctx || !s.blockOk g off 128 16 then some .illegalOperand else none }
    match chk.cause g 0 {} with
    | some c => s.stopAll r p c
    | none =>
      match s.reserve g.ctx 1 g.isHandler with
      | none => s.stopAll r p .logFull
      | some s => conclude r [] true (fun s =>
          let img := s.block g off 128
          let s := ((s.saw r [(.pad g.team off, 128)]).logIrrev (s.writer r.group p.lowLane) 4).publish g.team
          s.issueOp r (p.flagFor .nonReturning) [] (work := .packets q [img]) (lane := p.lowLane)) s

/-! What the distributor reads and writes: ordinary addresses of the queue's context. -/

/-- The distributor for a context. -/
def distributor (ctx : Nat) : Agent := { ctx := ctx, priv := true }

/-- The bytes of a region; none where some byte is unreadable. -/
def State.distRead (s : State) (ctx : Nat) (va : DWord) (n : Nat) : State × Option (List (Loc × Nat)) :=
  if fld va 63 55 != 0 then (s, none)
  else match s.readRegion (distributor ctx) 1 va n with
    | (s, .ok segs) => (s, some segs)
    | (s, .error _) => (s, none)

/-- Bytes written one by one; a byte with no translation with W = 1 is dropped (R162). -/
def State.distWrite (s : State) (ctx : Nat) (va : DWord) : List Byte → State
  | [] => s
  | b :: bs =>
    let s := if fld va 63 55 != 0 then s
      else match s.access (distributor ctx) .store 1 va with
        | (s, .ok l) => (s.setByte l b).touch l
        | (s, .error _) => s
    s.distWrite ctx (va + 1) bs

/-- Every page under the n bytes is mapped with W = 1 (R162). -/
def State.mappedW (s : State) (ctx : Nat) (va : DWord) (n : Nat) : Bool :=
  fld va 63 55 == 0 && [va, va + BitVec.ofNat 64 (n - 1)].all fun a =>
    fld a 63 55 == 0 && (match s.walk ctx a with | .leaf e _ _ => leafW e | _ => false)

/-! Packets. -/

/-- A number of a packet's bytes. -/
def pkD (b : List Byte) (off : Nat) : DWord := BitVec.ofNat 64 (blkNum b off 8)

/-- A dependence record (R161). -/
def parseDep (b : List Byte) (off : Nat) : Dep :=
  { kind := blkNum b off 1, rw := blkNum b (off + 1) 1, rh := blkNum b (off + 2) 1, sx := blkNum b (off + 3) 1,
    sy := blkNum b (off + 4) 1, pbm := pkD b (off + 8) }

/-- Its limits (R161). -/
def depOk (b : List Byte) (off : Nat) : Bool :=
  let d := parseDep b off
  blkZero b (off + 5) 3 &&
  (match d.kind with
   | 0 => blkZero b off 8 && d.pbm == 0
   | 1 | 2 => d.rw == 0 && d.rh == 0 && d.sx == 0 && d.sy == 0
   | 3 => d.rw != 0 && d.rh != 0
   | _ => false)

/-- A packet from its 128 bytes (R160). -/
def parsePacket (b : List Byte) : Packet :=
  { type := blkNum b 0 1, flags := BitVec.ofNat 8 (blkNum b 1 1), regs := blkNum b 2 1, tiles := blkNum b 3 1,
    groups := blkNum b 4 1, cw := blkNum b 5 1 % 16, ch := blkNum b 5 1 / 16, vector := blkNum b 6 2, entry := pkD b 8,
    xm1 := blkNum b 16 4, ym1 := blkNum b 20 4, zm1 := blkNum b 24 4, scratch := blkNum b 28 4, roles := pkD b 32,
    progress := blkNum b 40 8, affinity := pkD b 48, args := pkD b 56, dep0 := parseDep b 64, dep1 := parseDep b 80,
    bitmap := pkD b 96, compl := pkD b 104, krec := pkD b 112 }

/-- A cluster shape of R27. -/
def shapeOk (w h : Nat) : Bool := 1 ≤ w && w ≤ 6 && 1 ≤ h && h ≤ 4 && w * h ≤ 12

/-- Teams of a grid. -/
def Packet.teams (p : Packet) : Nat := (p.xm1 + 1) * (p.ym1 + 1) * (p.zm1 + 1)

/-- The limits of the packet's own fields (R160 to R162); MSI-X has 2,048 vectors (R258). -/
def packetOk (b : List Byte) : Bool :=
  let p := parsePacket b
  p.type == 1 && fld p.flags 7 3 == 0 && windowOk p.regs && p.tiles ≤ 16 && 1 ≤ p.groups && p.groups ≤ 16 &&
  shapeOk p.cw p.ch && p.vector < 2048 && fld p.entry 63 55 == 0 && fld p.entry 1 0 == 0 && p.scratch % 4096 == 0 &&
  p.scratch ≤ 524288 && fld p.roles 63 48 == 0 && depOk b 64 && depOk b 80 && fld p.bitmap 3 0 == 0 && blkZero b 120 8 &&
  p.teams ≤ 2 ^ 32 && (p.xm1 + 1) % p.cw == 0 && (p.ym1 + 1) % p.ch == 0

/-- The reorder descriptor of a kernel record; none of it is read where RFLAG[0] is 0 (R160). -/
def parseReorder (k : List Byte) : Option Reorder :=
  if blkNum k 15 1 % 2 = 1 then
    some { entry := pkD k 16, n := blkNum k 12 1, regs := blkNum k 13 1, role := BitVec.ofNat 3 (blkNum k 14 1),
           mode := BitVec.ofNat 32 (blkNum k 24 4) }
  else none

/-- The limits of a kernel record (R78, R83, R160). -/
def krecOk (k : List Byte) : Bool :=
  blkNum k 15 1 ≤ 1 && blkZero k 28 4 &&
  (blkNum k 15 1 == 0 ||
    (blkNum k 12 1 ≤ 4 && windowOk (blkNum k 13 1) && blkNum k 14 1 ≤ 7 && fld (pkD k 16) 63 55 == 0 &&
     blkNum k 16 1 % 4 == 0 && modeLegal (BitVec.ofNat 32 (blkNum k 24 4))))

/-- The kernel record of a packet, where it names one; none where the packet is rejected for it. -/
def State.kernelRecord (s : State) (ctx : Nat) (p : Packet) : State × Option Packet :=
  if p.krec = 0 then (s, some p)
  else match s.distRead ctx p.krec 32 with
    | (s, none) => (s, none)
    | (s, some segs) =>
      let k := s.segBytes segs
      if krecOk k then (s, some { p with sdaddr := pkD k 0, sdsize := blkNum k 8 4, reorder := parseReorder k }) else (s, none)

/-- A signed-only context launches only from sealed CODE (R270). -/
def State.signedOut (s : State) (ctx : Nat) (entry : DWord) : Bool :=
  (s.ctx ctx).signonly && !(s.ctx ctx).seals.any fun x => x.ranges.any fun r => decide (r.1 ≤ entry.toNat) && decide (entry.toNat < r.1 + r.2)

/-- The check of a packet at the head (R162): the packet with its kernel record, or none. -/
def State.checkPacket (s : State) (ctx : Nat) (b : List Byte) : State × Option Packet :=
  if !packetOk b then (s, none)
  else match s.kernelRecord ctx (parsePacket b) with
    | (s, none) => (s, none)
    | (s, some p) =>
      if s.signedOut ctx p.entry || p.sdsize > p.scratch || !s.mappedW ctx p.bitmap 16 || (p.compl != 0 && !s.mappedW ctx p.compl 16) then (s, none)
      else match s.distRead ctx p.sdaddr p.sdsize with
        | (s, none) => if p.sdsize = 0 then (s, some p) else (s, none)
        | (s, some _) => (s, some p)

/-! Bitmaps. -/

/-- Index of a team in its grid (R164). -/
def Packet.index (p : Packet) (x y z : Nat) : Nat := x + (p.xm1 + 1) * (y + (p.ym1 + 1) * z)

/-- Set one bit of a bitmap by an atomic OR: bit 2t done, 2t + 1 failed (R164). -/
def State.bitmapOr (s : State) (ctx : Nat) (bitmap : DWord) (i : Nat) (on : Bool := true) : State :=
  let va := bitmap + BitVec.ofNat 64 (16 + i / 8)
  match s.distRead ctx va 1 with
  | (s, some [(l, _)]) => s.distWrite ctx va [setBit (s.byteAt l) (i % 8) on]
  | (s, _) => s

/-- The done bit of a team. -/
def State.setDone (s : State) (team : Nat) : State :=
  let t := s.team team
  match s.grid? t.grid with
  | some g =>
    if t.doneBit then s
    else (s.bitmapOr g.ctx g.packet.bitmap (2 * g.packet.index t.x t.y t.z)).updTeam team fun t => { t with doneBit := true }
  | none => s

/-- The failed bit of team `i` of a grid. -/
def State.setFailed (s : State) (g : Grid) (i : Nat) : State := s.bitmapOr g.ctx g.packet.bitmap (2 * i + 1)

/-- Clear the done and failed bits of a team (R204). -/
def State.clearBits (s : State) (team : Nat) : State :=
  let t := s.team team
  match s.grid? t.grid with
  | some g =>
    let i := g.packet.index t.x t.y t.z
    ((s.bitmapOr g.ctx g.packet.bitmap (2 * i) false).bitmapOr g.ctx g.packet.bitmap (2 * i + 1) false).updTeam team
      fun t => { t with doneBit := false }
  | none => s

/-- MARKDONE (R307). A handler marks the team it acts for; the done bit is set once the team's earlier events are performed (R138). -/
def execMarkdone (s : State) : Res :=
  issuing s fun r g p =>
    match s.reserve g.ctx 1 g.isHandler with
    | none => s.stopAll r p .logFull
    | some s => conclude r [] true (fun s =>
        ((s.logIrrev (s.writer r.group p.lowLane) 4).publish g.team).issueOp r (p.flagFor .nonReturning) [] (work := .markdone)
          (lane := p.lowLane)) s

/-! Completion of a grid. -/

/-- What a grid is to the redeemed tickets of its context: a forward grid's record, a backward grid's (R250). -/
def Ctx.redeemedAs (c : Ctx) (queue no : Nat) : Option Redeemed × Option Redeemed :=
  (c.redeemed.find? fun r => r.queue == queue && r.fwdNo == some no,
   c.redeemed.find? fun r => r.queue == queue && r.bwdNo == some no)

/-- The activation digest fails: the bytes differ, or cannot be read (R250). -/
def State.digestFails (s : State) (ctx : Nat) (r : Option Redeemed) : State × Bool :=
  match r.bind (·.digest) with
  | none => (s, false)
  | some (a, n, d) =>
    match s.readRegion (distributor ctx) 16 a n with
    | (s, .error _) => (s, true)
    | (s, .ok segs) => (s, natOfBytes ((sha256 (s.segBytes segs)).take 8) != d.toNat)

/-- A backward grid has completed: the ticket's holds are released and HELD clears (R250). -/
def State.releaseTicket (s : State) (ctx : Nat) (r : Redeemed) : State :=
  let s := r.holds.foldl (fun s a => s.unhold ctx a) s
  (s.setHeld ctx r.entry false).updCtx ctx fun c => { c with redeemed := c.redeemed.filter fun x => x.op != r.op }

/-- The three acts of a completion (R166), with the tickets' part (R250); every completion publishes for a context
rewind (R203). -/
def State.finishGrid (s : State) (ctx queue no : Nat) (p : Packet) (status failed unrun : Nat) : State :=
  let (fwd, bwd) := (s.ctx ctx).redeemedAs queue no
  let (s, bad) := if status = 2 then (s, false) else s.digestFails ctx fwd
  let g : Grid := { ctx := ctx, queue := queue, no := no, prio := 0, packet := p }
  let s := if bad then (List.range p.teams).foldl (fun s i => s.setFailed g i) s else s
  let status := if bad then 1 else status
  let failed := if bad then p.teams else failed
  let s := s.distWrite ctx p.bitmap (bytesOfNat 4 (1 + if failed = 0 && status != 2 then 0 else 2))
  let s := if p.compl = 0 then s
    else s.distWrite ctx p.compl (bytesOfNat 4 status ++ bytesOfNat 4 failed ++ bytesOfNat 4 unrun ++ bytesOfNat 4 0)
  let s := if bit p.flags 1 then s.updHost fun h => { h with msix := h.msix ++ [p.vector] } else s
  let s := match bwd with | some r => s.releaseTicket ctx r | none => s
  s.publishSys ctx

/-- A rejected packet (R162): header with the extents as they stand, record with STATUS 2, signal, QHEAD. -/
def State.rejectPacket (s : State) (q ctx : Nat) (b : List Byte) : State :=
  let p := parsePacket b
  let s := s.distWrite ctx (p.bitmap + 4) ((b.drop 16).take 12)
  let s := s.finishGrid ctx q (s.queue q).head.toNat p 2 0 0
  s.updQueue q fun x => { x with head := x.head + 1, age := 0, blocked := false }

/-- An accepted packet becomes a grid: its header is written and its launch window opens (R164, R199). -/
def State.acceptPacket (s : State) (q ctx : Nat) (b : List Byte) (p : Packet) : State :=
  let s := s.distWrite ctx p.bitmap (bytesOfNat 4 0 ++ (b.drop 16).take 12)
  let (s, n) := s.openLaunch ctx
  let x := s.queue q
  let g : Grid := { ctx := ctx, queue := q, no := x.head.toNat, prio := fld x.ctl 29 27, packet := p, window := n,
                    openSeq := (s.ctx ctx).seq }
  let s : State := { s with grids := tput s.grids s.nextGrid g, nextGrid := s.nextGrid + 1 }
  s.updQueue q fun x => { x with grid := some (s.nextGrid - 1), age := 0, blocked := false }

/-- PACKET_HEAD_CHECK: the packet at the head of queue `a` is read once and checked (R158, R162). -/
def execPacketHeadCheck (s : State) : Res :=
  let q := s.ev.a
  let x := s.queue q
  let ctx := fld x.ctx 11 0
  if q > 63 || s.host.stage = 0 || !bit x.ctl 31 || x.head == x.tail || x.grid.isSome then .next s
  else
    let b := s.bytesAt (.dev (x.base.toNat + 128 * (x.head.toNat % x.slots))) 128
    match s.checkPacket ctx b with
    | (s, none) => .next (s.rejectPacket q ctx b)
    | (s, some p) => .next (s.acceptPacket q ctx b p)

end Sys2Proof.Machine
end

