-- ==== Sys2Proof/Machine/Placement.lean ====
section
/-! DEFINITION. The distributor: startability (R161, R165), which cores fit (R167, R238), the choice and the reservation of
cores (R168, R171), placement decisions (R169, R170), the start of a team (R163), retirement and exit (R287), and the
completion of grids and of operations (R56, R166). -/

namespace Sys2Proof.Machine

/-! Startability. -/

/-- What the dependences say of a consumer team. -/
inductive Start where
  | wait | ready | fails
  deriving DecidableEq, Repr

/-- Two verdicts together: a failure decides, then a wait. -/
def Start.and : Start → Start → Start
  | .fails, _ => .fails
  | _, .fails => .fails
  | .wait, _ => .wait
  | _, .wait => .wait
  | .ready, .ready => .ready

/-- The producer entries f(k) of a record for team (x, y, z) (R161). -/
def Dep.entries (d : Dep) (x y z : Nat) : List (Nat × Nat × Nat) :=
  if d.kind = 2 then [(x, y, z)]
  else (List.range d.rh).flatMap fun j => (List.range d.rw).map fun i => (d.sx * x + i, d.sy * y + j, z)

/-- The verdict of one entry's two bits. -/
def entryVerdict (b : Nat) : Start := if b / 2 % 2 = 1 then .fails else if b % 2 = 1 then .ready else .wait

/-- The verdict of the entries of a producer of extents X, Y, Z; entries outside it are not waited for. -/
def State.entriesVerdict (ctx : Nat) (pbm : DWord) (X Y Z : Nat) : List (Nat × Nat × Nat) → State → State × Start
  | [], s => (s, .ready)
  | (x, y, z) :: rest, s =>
    if x ≥ X || y ≥ Y || z ≥ Z then State.entriesVerdict ctx pbm X Y Z rest s
    else
      let t := x + X * (y + Y * z)
      let (s, v) := match s.distRead ctx (pbm + BitVec.ofNat 64 (16 + t / 4)) 1 with
        | (s, some segs) => (s, entryVerdict (natOfBytes (s.segBytes segs) / 4 ^ (t % 4) % 4))
        | (s, none) => (s, .wait)
      let (s, w) := State.entriesVerdict ctx pbm X Y Z rest s
      (s, v.and w)

/-- The verdict of one dependence record, from the producer's bitmap as memory holds it (R165); one that cannot be
read lets the consumer wait (DEDUCED, log 61). -/
def State.depVerdict (s : State) (ctx : Nat) (d : Dep) (x y z : Nat) : State × Start :=
  if d.kind = 0 then (s, .ready)
  else match s.distRead ctx d.pbm 16 with
    | (s, none) => (s, .wait)
    | (s, some segs) =>
      let h := s.segBytes segs
      if d.kind = 1 then
        (s, if blkNum h 0 4 % 2 = 0 then .wait else if blkNum h 0 4 / 2 % 2 = 1 then .fails else .ready)
      else
        State.entriesVerdict ctx d.pbm (blkNum h 4 4 + 1) (blkNum h 8 4 + 1) (blkNum h 12 4 + 1) (d.entries x y z) s

/-- Clusters of a grid: a column of clusters is w teams wide, a row h teams high. -/
def Packet.clusters (p : Packet) : Nat := (p.xm1 + 1) / p.cw * ((p.ym1 + 1) / p.ch) * (p.zm1 + 1)

/-- Origin team of cluster `c`: clusters in ascending linear index of their origins (R169). -/
def Packet.origin (p : Packet) (c : Nat) : Nat × Nat × Nat :=
  let cx := (p.xm1 + 1) / p.cw
  let cy := (p.ym1 + 1) / p.ch
  (c % cx * p.cw, c / cx % cy * p.ch, c / (cx * cy))

/-- The team at a position of a cluster (R169). -/
def Packet.teamAt (p : Packet) (c pos : Nat) : Nat × Nat × Nat :=
  let (x, y, z) := p.origin c
  (x + pos % p.cw, y + pos / p.cw, z)

/-- Positions of a cluster. -/
def Packet.positions (p : Packet) : List Nat := List.range (p.cw * p.ch)

/-- The verdict of a cluster: of all its teams (R169). -/
def State.clusterVerdict (s : State) (g : Grid) (c : Nat) (ps : List Nat) : State × Start :=
  ps.foldl (fun (e : State × Start) pos =>
    let (x, y, z) := g.packet.teamAt c pos
    let (s, v) := e.1.depVerdict g.ctx g.packet.dep0 x y z
    let (s, w) := s.depVerdict g.ctx g.packet.dep1 x y z
    (s, e.2.and (v.and w))) (s, .ready)

/-- The teams of a cluster fail unrun (R165, R169). -/
def State.failCluster (s : State) (gk : Nat) (g : Grid) (c : Nat) (ps : List Nat) : State :=
  ps.foldl (fun (s : State) pos =>
    let (x, y, z) := g.packet.teamAt c pos
    (s.setFailed g (g.packet.index x y z)).updGrid gk fun g => { g with failed := g.failed + 1, unrun := g.unrun + 1 }) s

/-! Fitting. -/

/-- A core of the current start stage (R261). -/
def State.coreUsable (s : State) (c : Nat) : Bool := s.host.stage ≥ 2 || (s.host.stage == 1 && c < 24)

/-- A team stands on a core. -/
def Team.onCore (t : Team) : Bool := t.stage == .placed || t.stage == .started

/-- Keys of the teams resident on a core. -/
def State.coreTeams (s : State) (c : Nat) : List Nat := (s.teams.filter fun e => e.2.onCore && e.2.core == c).map (·.1)

/-- Groups that hold a slot of a partition, handlers apart. -/
def State.partGroups (s : State) (c p : Nat) : List Group :=
  (s.groups.filter fun e => e.1 < 6144 && e.1 / 16 == c * 4 + p && e.2.used).map (·.2)

/-- Units of a partition that the handler of its pool slot holds beside the 32 registers of that slot (R41, R178). -/
def State.handlerUnits (s : State) (c p : Nat) : Nat :=
  let g := s.group (handlerKey c p)
  if g.used then g.window / 16 - 2 else 0

/-- A REGROW at which a path waits: destination predicate and size. -/
def Path.request (p : Path) : Option (Nat × Nat) :=
  match p.wait with
  | .regrow q n => if p.state = .flagwait ∨ p.state = .stepping then some (q, n) else none
  | _ => none

/-- A REGROW waits on a partition. -/
def State.requested (s : State) (c p : Nat) : Bool :=
  s.groups.any fun g => g.2.used && coreOf g.1 == c && partOf g.1 == p && g.2.entries.any fun e => e.2.request.isSome

/-- Free window units and free group slots of a partition (R27, R40). -/
def State.partFree (s : State) (c p : Nat) : Nat × Nat :=
  let gs := s.partGroups c p
  (128 - gs.foldl (fun n g => n + g.window / 16) 0 - s.handlerUnits c p, 16 - gs.length)

/-- What of a partition a new group may take: units that REGFREE freed go first to the REGROWs that wait (R43). -/
def State.partRoom (s : State) (c p : Nat) : Nat × Nat :=
  let (units, slots) := s.partFree c p
  (if s.requested c p then units - tget 0 (s.core c).freed p else units, slots)

/-- The partition of the next group: the most free units among those with room, ties to the lower (R167). -/
def bestPart (free : List (Nat × Nat)) (units : Nat) : Option Nat :=
  (free.zipIdx).foldl (fun m e =>
    if e.1.2 = 0 || e.1.1 < units then m
    else match m with
      | none => some e.2
      | some p => if (free.getD p (0, 0)).1 < e.1.1 then some e.2 else some p) none

/-- What a team asks of a core. -/
structure Need where
  ctx     : Nat
  scratch : Nat
  tiles   : Nat
  /-- windows of its groups, in order of placement -/
  windows : List Nat
  deriving DecidableEq, Repr

/-- Partitions for groups of these windows, placed one at a time (R167). -/
def placeWindows : List Nat → List (Nat × Nat) → Option (List Nat)
  | [], _ => some []
  | w :: ws, free =>
    match bestPart free (w / 16) with
    | none => none
    | some p =>
      let f := free.getD p (0, 0)
      (placeWindows ws (free.set p (f.1 - w / 16, f.2 - 1))).map (p :: ·)

/-- Partitions that groups of these windows would take on a core, in order; none where one has no room (R167). -/
def State.partsFor (s : State) (c : Nat) (windows : List Nat) : Option (List Nat) :=
  placeWindows windows ((List.range 4).map (s.partRoom c))

/-- A core fits a team (R167): usable, room for team, scratchpad, tiles and groups, one context, no drain under way
(R188), and not reserved for another packet than that of the grid `own` (R171). -/
def State.fits (s : State) (own : Option Nat) (n : Need) (c : Nat) : Bool :=
  let ts := s.coreTeams c
  s.coreUsable c && ts.length < 8 && ts.all (fun t => (s.team t).ctx == n.ctx && (s.team t).drain.isNone) &&
  s.queues.all (fun e => (own.isSome && e.2.grid == own) || !e.2.reserved.contains c) &&
  n.scratch / 4096 + ts.foldl (fun a t => a + (s.team t).scratch / 4096) 0 ≤ 128 &&
  n.tiles + ts.foldl (fun a t => a + (s.team t).tiles) 0 ≤ 16 &&
  (s.partsFor c n.windows).isSome

/-- What a team of a packet asks. -/
def Grid.need (g : Grid) : Need :=
  { ctx := g.ctx, scratch := g.packet.scratch, tiles := g.packet.tiles,
    windows := List.replicate g.packet.groups g.packet.regs }

/-- Rectangles of a shape by origin core, ascending; an even width stands on an even column (R238). -/
def rectangles (w h : Nat) : List Nat :=
  (List.range 96).filter fun o => o % 6 + w ≤ 6 && o % 24 / 6 + h ≤ 4 && (w % 2 == 1 || o % 6 % 2 == 0)

/-- Cores of a rectangle in order of position. -/
def rectCores (w h o : Nat) : List Nat := (List.range (w * h)).map fun i => o + i / w * 6 + i % w

/-- Die and slice that an affinity key names (R168). -/
def affinityTarget (key : DWord) (x y z : Nat) : Nat × Nat :=
  let v := key ^^^ BitVec.ofNat 64 x ^^^ (BitVec.ofNat 64 y <<< 21) ^^^ (BitVec.ofNat 64 z <<< 42)
  let v := v * 0x9E3779B97F4A7C15#64
  (fld v 63 62, fld v 61 57 % 24)

/-- Mesh hops between two cores of a die. -/
def hops (a b : Nat) : Nat :=
  let d (i j : Nat) : Nat := (i - j) + (j - i)
  d (a % 24 / 6) (b % 24 / 6) + d (a % 6) (b % 6)

/-- The least element by a measure, the first of equals. -/
def leastBy {α : Type} (f : α → Nat) (xs : List α) : Option α :=
  xs.foldl (fun m x => match m with
    | none => some x
    | some y => if f x < f y then some x else some y) none

/-- The choice among candidate rectangles, given by origin core, ascending (R168). -/
def chooseRect (key : DWord) (x y z : Nat) (cands : List Nat) : Option Nat :=
  if key = 0 then cands.head?
  else
    let (d, sl) := affinityTarget key x y z
    ((List.range 4).map fun i => cands.filter fun o => o / 24 == (d + i) % 4).findSome? fun cs =>
      leastBy (fun o => hops o sl) cs

/-- The rectangle that a cluster takes now: the one reserved for its packet where it fits, else by the choice of R168 (R169, R171). -/
def State.findRect (s : State) (q gk : Nat) (g : Grid) (c : Nat) : Option Nat :=
  let p := g.packet
  let (x, y, z) := p.origin c
  let fit (o : Nat) : Bool := (rectCores p.cw p.ch o).all (s.fits (some gk) g.need)
  let kept := if (s.queue q).grid = some gk then (s.queue q).reserved.head? else none
  match kept.filter fit with
  | some o => some o
  | none => chooseRect p.affinity x y z ((rectangles p.cw p.ch).filter fit)

/-- The cores that a head reserves (R171). -/
def State.reserveRect (s : State) (q : Nat) (g : Grid) (c : Nat) : List Nat :=
  let p := g.packet
  let (x, y, z) := p.origin c
  let open_ := (rectangles p.cw p.ch).filter fun o => (rectCores p.cw p.ch o).all fun k =>
    s.coreUsable k && s.queues.all fun e => e.1 == q || !e.2.reserved.contains k
  let count (o : Nat) : Nat := (rectCores p.cw p.ch o).foldl (fun n k => n + (s.coreTeams k).length) 0
  match leastBy count open_ with
  | none => []
  | some b =>
    match chooseRect p.affinity x y z (open_.filter fun o => count o == count b) with
    | some o => rectCores p.cw p.ch o
    | none => []

/-! Placing. -/

/-- The lowest free group slot of a partition. -/
def State.freeSlot (s : State) (c p : Nat) : Nat :=
  let base := c * 64 + p * 16
  base + ((List.range 16).find? fun i => !(s.group (base + i)).used).getD 15

/-- The lowest team slot of a core that no resident team holds (R167). -/
def State.freeTeamSlot (s : State) (c : Nat) : Nat :=
  ((List.range 8).find? fun i => (s.coreTeams c).all fun t => (s.team t).slot != i).getD 7

/-- The next number in the order of placement; it names the group for operations in flight. -/
def State.stamp (s : State) : State × Nat := ({ s with nextOp := s.nextOp + 1 }, s.nextOp + 1)

/-- A group takes a slot of a partition. -/
def State.placeGroup (s : State) (core p : Nat) (g : Group) : State :=
  let (s, n) := s.stamp
  s.setGroup (s.freeSlot core p) { g with used := true, placed := n }

/-- ROLE of group `i` of a packet (R160). -/
def Packet.role (p : Packet) (i : Nat) : BitVec 3 := BitVec.ofNat 3 (p.roles.toNat / 8 ^ i)

/-- The groups of a team take partitions in order (R167). -/
def State.placeGroups (s : State) (team core prio : Nat) (p : Packet) : State :=
  (((s.partsFor core (List.replicate p.groups p.regs)).getD []).zipIdx).foldl (fun s e =>
    s.placeGroup core e.1 { ctx := (s.team team).ctx, team := team, gid := e.2, window := p.regs, prio := prio,
                            role := p.role e.2, replay := bit p.flags 2 }) s

/-- One team of a cluster is placed on a core; its TID is the context's next (R194). -/
def State.placeTeam (s : State) (gk : Nat) (g : Grid) (c pos core origin : Nat) : State :=
  let p := g.packet
  let (x, y, z) := p.teamAt c pos
  let tid := (s.ctx g.ctx).nextTid
  let key := teamKey g.ctx tid
  let prio := fld (s.queue g.queue).ctl 29 27
  let t : Team :=
    { stage := .placed, ctx := g.ctx, tid := tid, grid := gk, x := x, y := y, z := z, core := core,
      slot := s.freeTeamSlot core, pos := pos, cw := p.cw, ch := p.ch, origin := origin, idem := bit p.flags 0,
      replay := bit p.flags 2, scratch := p.scratch, tiles := p.tiles, progress := p.progress, logwin := g.window,
      reorder := p.reorder, placedSeq := (s.ctx g.ctx).seq }
  let s := s.updCtx g.ctx fun c => { c with nextTid := if tid ≥ 4194303 then 1 else tid + 1 }
  (s.setTeam key t).placeGroups key core prio p

/-- A cluster is placed whole, at positions `ps` of it, on the rectangle with origin core `o` (R169). -/
def State.placeCluster (s : State) (gk : Nat) (g : Grid) (c o : Nat) (ps : List Nat) : State :=
  ps.foldl (fun s pos => s.placeTeam gk g c pos (o + pos / g.packet.cw * 6 + pos % g.packet.cw) o) s

/-! Decisions. -/

/-- A cluster takes its place in ascending order. -/
def insertCluster (x : Nat × List Nat) : List (Nat × List Nat) → List (Nat × List Nat)
  | [] => [x]
  | y :: ys => if x.1 < y.1 then x :: y :: ys else y :: insertCluster x ys

/-- The clusters that were passed over or came back unstarted, each with the positions to be placed, in the order in which they are
offered (R169, R188). -/
def Grid.waiting (g : Grid) : List (Nat × List Nat) :=
  (g.passed.map (fun c => (c, g.packet.positions)) ++ g.returned).foldl (fun l x => insertCluster x l) []

/-- A cluster waits no longer. -/
def Grid.take (g : Grid) (c : Nat) : Grid :=
  { g with passed := g.passed.erase c, returned := g.returned.filter fun e => e.1 != c, next := max g.next (c + 1) }

/-- The first startable cluster among some that wait; clusters that fail leave them (R165, R169). -/
def State.scanWaiting (gk : Nat) (g : Grid) : List (Nat × List Nat) → State → State × Option (Nat × List Nat)
  | [], s => (s, none)
  | (c, ps) :: cs, s =>
    match s.clusterVerdict g c ps with
    | (s, .ready) => (s, some (c, ps))
    | (s, .wait) => State.scanWaiting gk g cs s
    | (s, .fails) => State.scanWaiting gk g cs ((s.failCluster gk g c ps).updGrid gk (·.take c))

/-- The next startable cluster among those not yet offered; one that waits is passed over. -/
def State.scanNew (gk : Nat) (g : Grid) : Nat → Nat → State → State × Option Nat
  | 0, _, s => (s, none)
  | n + 1, c, s =>
    match s.clusterVerdict g c g.packet.positions with
    | (s, .ready) => (s, some c)
    | (s, .wait) => State.scanNew gk g n (c + 1) (s.updGrid gk fun g => { g with next := c + 1, passed := g.passed ++ [c] })
    | (s, .fails) =>
      State.scanNew gk g n (c + 1)
        ((s.failCluster gk g c g.packet.positions).updGrid gk fun g => { g with next := c + 1 })

/-- The cluster that a grid offers, and the positions of it to be placed (R169); a grid that is not the head offers what came back. -/
def State.nextCluster (s : State) (gk : Nat) (g : Grid) (head : Bool) : State × Option (Nat × List Nat) :=
  match State.scanWaiting gk g g.waiting s with
  | (s, some x) => (s, some x)
  | (s, none) =>
    if head then
      let (s, c) := State.scanNew gk g (g.packet.clusters - g.next) g.next s
      (s, c.map fun c => (c, g.packet.positions))
    else (s, none)

/-- The packet leaves the head once its last cluster has been placed or failed (R169). -/
def State.leaveHead (s : State) (q gk : Nat) : State :=
  match s.grid? gk with
  | some g =>
    if (s.queue q).grid == some gk && g.next ≥ g.packet.clusters && g.passed.isEmpty && g.returned.isEmpty then
      s.updQueue q fun x => { x with grid := none, age := 0, blocked := false, reserved := [], head := x.head + 1 }
    else s
  | none => s

/-- Where a queue's offers come from: its grids that have left the head and of which clusters came back, by key, and then its head (R170,
R188, log 61). -/
def State.offerKeys (s : State) (q : Nat) : List (Option Nat) :=
  (s.grids.filter fun e => e.2.queue == q && !e.2.returned.isEmpty && (s.queue q).grid != some e.1).map (fun e => some e.1) ++ [none]

/-- One grid from which a queue that the distributor reads offers, none of a context that is suspended (R268) or frozen for an
escalation (R184). -/
def State.offerOf (s : State) (q : Nat) (from_ : Option Nat) : Option (Nat × Grid) :=
  match (from_.or (s.queue q).grid).filter fun _ => bit (s.queue q).ctl 31 with
  | none => none
  | some gk => ((s.grid? gk).filter fun g => !(s.ctx g.ctx).suspended && (s.ctx g.ctx).escal.isNone).map fun g => (gk, g)

/-- The first offer of a queue. -/
def State.offer (s : State) (q : Nat) : Option (Nat × Grid) := (s.offerKeys q).findSome? (s.offerOf q)

/-- Blocked heads whose AGE exceeds AGETH reserve cores for their next cluster (R171). -/
def State.reserveHeads (s : State) : State :=
  s.queues.foldl (fun s e =>
    let x := s.queue e.1
    match (if x.blocked && decide (x.age.toNat > fld x.ctl 23 16) && x.reserved.isEmpty then x.grid.bind s.grid? else none) with
    | none => s
    | some g =>
      let c := match g.waiting.find? (fun c => (s.clusterVerdict g c.1 c.2).2 == .ready) with
        | some c => c.1
        | none => g.next
      let cores := s.reserveRect e.1 g c
      s.updQueue e.1 fun x => { x with reserved := cores }) s

/-- After a placement of queue `q` the blocked heads of other queues age (R171). -/
def State.ageHeads (s : State) (q : Nat) : State :=
  { s with queues := s.queues.map fun e =>
      if e.1 ≠ q ∧ e.2.blocked then (e.1, { e.2 with age := if e.2.age = 255 then 255 else e.2.age + 1 }) else e }

/-- The head of queue `q` has placed a cluster: its AGE and reservation end (R171). -/
def State.placedHead (s : State) (q : Nat) : State := s.updQueue q fun x => { x with age := 0, blocked := false, reserved := [] }

/-- One placement decision over queues in order; `least` is the smallest team count of a blocked head before (R170). Clusters that came
back of a packet that has left the head are placed beside it, and block nothing (log 61). -/
def State.decideFrom : List (Nat × Option Nat) → Nat → State → State
  | [], _, s => s
  | (q, from_) :: qs, least, s =>
    let head := from_.isNone
    let blocked (b : Bool) (s : State) : State := if head then s.updQueue q fun x => { x with blocked := b } else s
    match s.offerOf q from_ with
    | none => State.decideFrom qs least s
    | some (gk, g) =>
      match s.nextCluster gk g head with
      | (s, none) => State.decideFrom qs least ((blocked false s).leaveHead q gk)
      | (s, some (c, ps)) =>
        match s.findRect q gk g c with
        | none => State.decideFrom qs (if head then min least ps.length else least) (blocked true s)
        | some o =>
          if ps.length ≥ least then State.decideFrom qs least (blocked false s)
          else
            let s := ((s.placeCluster gk g c o ps).updGrid gk (·.take c)).leaveHead q gk
            (if head then s.placedHead q else s).ageHeads q

/-- Queue numbers in descending PRIO, then ascending number (R170). -/
def State.queueOrder (s : State) : List Nat :=
  ((List.range 8).map fun i => (List.range 64).filter fun q => fld (s.queue q).ctl 29 27 == 7 - i).flatten

/-- PLACEMENT_DECISION (R170); power escalation holds placement (R272). -/
def execPlacementDecision (s : State) : Res :=
  .next (if s.host.throt || s.host.stage = 0 then s else (State.decideFrom (s.queueOrder.flatMap fun q => (s.offerKeys q).map fun k => (q, k)) 256 s.reserveHeads).reserveHeads)

/-! Leaving. -/

/-- A group gives up its slot and window. -/
def State.freeGroup (s : State) (k : Nat) : State := { s with groups := terase s.groups k }

/-- The stops of a team's groups leave the pending queues. -/
def State.dropPending (s : State) (team : Nat) : State :=
  let mine (k : Nat) : Bool := (s.group k).used && (s.group k).team == team
  { s with cores := s.cores.map fun e => (e.1, { e.2 with pending := e.2.pending.filter fun p => !mine p.1 }) }

/-- Handlers that act for a team end, and its stops leave the pending queues. -/
def State.dropStops (s : State) (team : Nat) : State :=
  let s := s.dropPending team
  { s with groups := s.groups.filter fun e => !(e.2.isHandler && e.2.team == team) }

/-- The groups and the deposits of a team leave its core. -/
def State.clearTeam (s : State) (team : Nat) : State :=
  let c := (s.team team).core
  { s with groups := s.groups.filter fun e => !(e.2.used && e.2.team == team && !e.2.isHandler) }.updCore c fun x =>
    { x with glade := x.glade.filter fun d => d.team != team }

/-- A team that is killed, or fails, leaves its core with its failed bit set (R164); one that has left counts no more. -/
def State.failTeam (s : State) (team : Nat) : State :=
  let t := s.team team
  if t.stage = .none || t.stage = .exited || t.stage = .failed then s
  else
    let s := ((s.dropStops team).clearTeam team).updTeam team fun t =>
      { t with stage := .failed, exitedSeq := (s.ctx t.ctx).seq }
    match s.grid? t.grid with
    | some g =>
      (s.setFailed g (g.packet.index t.x t.y t.z)).updGrid t.grid fun g => { g with failed := g.failed + 1 }
    | none => s

/-- A team exits (R287): done bit, the digests that its window's close takes (R206), and its core is free. -/
def State.exitTeam (s : State) (team : Nat) : State :=
  let s := (s.setDone team).appendDigests team 1
  let t := s.team team
  (s.updTeam team fun x => { x with stage := .exited, exitedSeq := (s.ctx t.ctx).seq }).updGrid t.grid fun g =>
    { g with exited := g.exited + 1 }

/-- Operations of a group still in flight. -/
def State.groupOps (s : State) (k : Nat) : List Op := s.ops.filter fun o => o.group == k && o.gen == (s.group k).placed

/-- A group has nothing left to wait for; a handler ends with its last lane (R287). -/
def State.groupSpent (s : State) (k : Nat) : Bool :=
  let g := s.group k
  g.used && g.live == 0 &&
  (g.isHandler ||
    ((s.team g.team).stage == .started && g.w.all (fun e => e.2 == 0) && (s.groupOps k).all (·.done)))

/-- The team has nothing on its core any more (R287). -/
def State.teamSpent (s : State) (team : Nat) : Bool :=
  (s.team team).stage == .started && (s.teamGroups team).isEmpty && (s.deposits team).isEmpty

/-! Starting. -/

/-- Start state of a group (R163). -/
def Group.started (g : Group) (p : Packet) (now : Nat) : Group :=
  let g := { g with lanes := [], s := [], sPend := 0, sPoison := 0, q := 1, w := [], remap := (List.range 32).map (BitVec.ofNat 5),
                    seed := [], stream := [], lflags := 0, latch := none }
  { (g.setSpair 0 p.args) with
    paths := [(0, { state := .ready, mask := 0xFFFFFFFF#32, mode := launchMode, pc := p.entry, clhdr := p.entry, age := readyAge now })] }

/-- The first SDSIZE bytes of the scratchpad, poison with them; zero beyond (R163). -/
def State.copySdata (s : State) (team : Nat) (segs : List (Loc × Nat)) : State :=
  let bytes := segs.flatMap fun e => (List.range e.2).map fun i => (s.byteAt (e.1.plus i), s.poisonAt (e.1.plus i))
  let s := s.updTeam team fun t => { t with pad := [], padPoison := [] }
  (bytes.zipIdx).foldl (fun s e => s.setByte (.pad team e.2) e.1.1 e.1.2) s

/-- A placed team starts, or fails unrun where its image cannot be read (R163). -/
def State.startTeam (s : State) (team : Nat) : State :=
  let t := s.team team
  match s.grid? t.grid with
  | none => s
  | some g =>
    let p := g.packet
    match (if p.sdsize = 0 then (s, some []) else s.distRead g.ctx p.sdaddr p.sdsize) with
    | (s, none) => s.failTeam team
    | (s, some segs) =>
      let s := s.copySdata team segs
      let s := (s.teamGroups team).foldl (fun (s : State) k => s.updGroup k fun x => x.started p s.clock) s
      s.updTeam team fun x => { x with stage := .started, startedSeq := (s.ctx g.ctx).seq, tV := 0, tD := 0, tF := 0, tP := 0, rowP := 0, el := [], rowMax := [], rowSum := [] }

/-- The management core holds the context's teams, or this one: for an escalation (R184), or to take it off its core (R188, R268). -/
def State.teamHeld (s : State) (team : Nat) : Bool :=
  let c := s.ctx (s.team team).ctx
  c.escal.isSome || c.saving.any fun x => x.waiting.any fun e => e.1 == team && e.2 != 0

/-- TEAM_START: team. Where the management core holds the team, it starts frozen. -/
def execTeamStart (s : State) : Res :=
  let team := s.ev.a
  .next (if (s.team team).stage = .placed then
    let s := s.startTeam team
    if s.teamHeld team then s.suspend (s.teamGroups team) .management else s
  else s)

/-- A team of the cluster has not started: no group of the cluster issues (R238). -/
def State.clusterWaits (s : State) (team : Nat) : Bool :=
  s.teams.any fun e => e.2.stage == .placed && e.2.sameCluster (s.team team)

/-! Completing. -/

/-- Every team of a grid has exited, failed or been killed, and no cluster is left (R166). -/
def Grid.spent (g : Grid) : Bool := !g.complete && g.exited + g.failed ≥ g.packet.teams

/-- STATUS of the completion record (R166). -/
def Grid.status (g : Grid) : Nat := if g.unrun > 0 then 3 else if g.failed > 0 then 1 else 0

/-- GRID_COMPLETE: grid. -/
def execGridComplete (s : State) : Res :=
  match s.grid? s.ev.a with
  | none => .next s
  | some g =>
    if g.spent then
      .next ((s.finishGrid g.ctx g.queue g.no g.packet g.status g.failed g.unrun).updGrid s.ev.a fun g =>
        { g with complete := true })
    else .next s

/-! Operations. -/

/-- Packets still to be appended are appended while the queue has room (R159, R249). -/
def State.settlePackets (s : State) (o : Op) (q : Nat) : List (List Byte) → State × List (List Byte)
  | [] => (s, [])
  | img :: rest =>
    if !(s.queue q).room then (s, img :: rest)
    else
      let no := (s.queue q).tail.toNat
      let s := s.appendPacket q img
      let s := s.updCtx o.ctx fun c => { c with redeemed := c.redeemed.map fun r =>
        if r.op != o.id then r
        else if r.fwdNo.isNone then { r with fwdNo := some no } else { r with bwdNo := some no } }
      s.settlePackets o q rest

/-- Detached work of an operation, by its fence kind: a copy or packets, or a memory-side update. -/
def Work.pending (eng ms : Bool) : Work → Bool
  | .copy us => eng && !us.isEmpty
  | .packets _ is => eng && !is.isEmpty
  | .memorySide us => ms && !us.isEmpty
  | _ => false

/-- A path that held lanes of the other's issued the operation before it. -/
def Op.precedes (x o : Op) : Bool := x.id < o.id && x.group == o.group && x.gen == o.gen && x.lanes &&& o.lanes != 0

/-- Some event of the operation, of the kinds given, is still to be performed (R140, R141): detached work, or a write that some path
has not seen. -/
def State.unperformed (s : State) (x : Op) (kinds : Nat) : Bool :=
  !x.done && (x.work.pending (kinds / 8 % 2 == 1) (kinds / 4 % 2 == 1) ||
    s.shadows.any fun y => y.op == x.id && y.kind &&& kinds != 0)

/-- The writes of the kinds given that an operation's path has issued before it are performed at a scope: every path that the scope
includes has seen them (R134, R141), handlers among them (DESIGN CHOICE, log 3). -/
def State.performAt (s : State) (o : Op) (kinds scope : Nat) : State :=
  let earlier := (s.ops.filter fun x => x.precedes o).map (·.id)
  let outside (e : Nat × Nat × Nat) : Bool :=
    !(s.group e.1).isHandler && !s.includes scope o.group o.team e.1 (s.group e.1).team
  { s with shadows := s.shadows.map fun y =>
      if earlier.contains y.op && y.kind &&& kinds != 0 then { y with unseen := y.unseen.filter outside } else y }

/-- A detached event of the operation is unperformed (R132). -/
def State.trails (s : State) (o : Op) : Bool := o.work.pending true true || s.shadows.any fun y => y.op == o.id && y.detached

/-- An operation of the team is incomplete that may still hold back what its lanes issue next (R132, R140). -/
def State.trailing (s : State) (team : Nat) : Bool :=
  s.ops.any fun o => o.team == team && !o.done && !o.hnd && (s.trails o || (match o.work with | .fence .. => true | _ => false))

/-- Detached events of some lanes of a group are unperformed. -/
def State.trailingLanes (s : State) (k : Nat) (m : BitVec 32) : Bool :=
  s.ops.any fun o => o.group == k && o.gen == (s.group k).placed && !o.done && o.lanes &&& m != 0 && s.trails o

/-- An access issued before operation `n` may still use a translation that an invalidation drops: one of its context, or with the
global bit of any (R118). -/
def State.accessing (s : State) (n ctx : Nat) (global : Bool) : Bool :=
  s.ops.any fun x => x.id < n && !x.done && (global || x.ctx == ctx) && (x.work == .nothing || x.work.pending true true)

/-- What an operation has still to do is done as far as it now can be. -/
def State.settle (s : State) (o : Op) : State :=
  let put (s : State) (w : Work) : State := { s with ops := s.ops.map fun x => if x.id = o.id then { x with work := w } else x }
  match o.work with
  | .packets q imgs =>
    let (s, rest) := s.settlePackets o q imgs
    put s (if rest.isEmpty then .nothing else .packets q rest)
  | .destroy ctx index =>
    if !s.objQuiet ctx index then s
    else
      let s := if (s.ctx ctx).ranges.any (fun r => r.2.2 == index) && !(s.obj ctx index).alive then s.destroyRest ctx index else s
      put s .nothing
  | .fence kinds scope =>
    if s.ops.any fun x => x.precedes o && !x.done && x.work.pending (kinds / 8 % 2 == 1) (kinds / 4 % 2 == 1) then s
    else put (s.performAt o kinds scope) .nothing
  | .markdone =>
    if s.ops.any fun x => x.id < o.id && x.team == o.team && s.unperformed x 15 then s else put (s.setDone o.team) .nothing
  | .invalidate ctx range global none =>
    if s.ops.any fun x => x.precedes o && s.unperformed x 14 then s
    else put (s.invalidate ctx range global) (.invalidate ctx range global (some s.nextOp))
  | .invalidate ctx _ global (some n) => if s.accessing n ctx global then s else put s .nothing
  | _ => s

/-- OPERATION_COMPLETE: operation (R56). -/
def execOperationComplete (s : State) : Res :=
  match s.ops.find? (·.id == s.ev.a) with
  | none => .next s
  | some o => .next ((s.settle o).complete o.id)

end Sys2Proof.Machine
end

