-- ==== Sys2Proof/Machine/Undo.lean ====
section
/-! DEFINITION. The undo log's instructions: LOGCTL (R198), WINDOW (R200, R353) and REWIND (R202, R204); freezing and resuming by
the management core, the debugger or a rewind; and how a team is restored from a snapshot or discarded. -/

namespace Sys2Proof.Machine

/-! LOGCTL. -/

/-- The ring is discarded, and with it every window (R198). -/
def Ctx.discard (c : Ctx) : Ctx := { c with ring := [], snaps := [], opened := [], dirtied := [], stopAt := [] }

/-- A value that LOGCFG may hold (R197). -/
def logcfgOk (v : Word) : Bool := fld v 28 5 == 0 && fld v 31 30 != 3 && 12 ≤ fld v 4 0 && fld v 4 0 ≤ 30

/-- The ring lies in device memory. No ring of 2^12 entries or more lies within the frames of stage 1, which come in
threes (R261). -/
def State.ringOk (s : State) (base : Word) (sz : Nat) : Bool :=
  s.host.stage ≥ 2 && base.toNat * pageSize + 2 ^ sz * 96 ≤ deviceFrames * pageSize

/-- A LOGCTL: only in a handler, with an even uniform register (R198). -/
def logctlOp (a : BitVec 8) (uses : Uses) (late : State → Group → Option Cause) (f : Group → Ctx → Ctx) : State → Res :=
  fun s => uniformOp (fun g _ => { field := g.isHandler && isSPair a, uses := uses, late := fun _ _ => late s g })
    (fun _ g _ s => s.updCtx g.ctx (f g)) s

/-- The log is enabled with a fresh ring (R198). -/
def Ctx.enableLog (c : Ctx) (base cfg : Word) : Ctx :=
  { c.discard with logbase := base, logcfg := cfg, logEn := true, logStop := false }

/-- LOGCTL enable. -/
def execLogctlEnable (a : BitVec 8) (s : State) : Res :=
  logctlOp a (readsRun a 2)
    (fun s g =>
      let cfg := g.sreg (sNum a + 1)
      if !logcfgOk cfg || !s.ringOk (g.sreg (sNum a)) (fld cfg 4 0) then some .illegalOperand else none)
    (fun g c => c.enableLog (g.sreg (sNum a)) (g.sreg (sNum a + 1))) s

/-- LOGCTL disable. -/
def execLogctlDisable (a : BitVec 8) (s : State) : Res :=
  logctlOp a {} (fun _ _ => none) (fun _ c => { c.discard with logEn := false }) s

/-- LOGCTL policy. -/
def execLogctlPolicy (a : BitVec 8) (s : State) : Res :=
  logctlOp a (readsRun a 1) (fun _ g => if g.sreg (sNum a) ≥ 3 then some .illegalOperand else none)
    (fun g c => { c with logcfg := (c.logcfg &&& 0x3FFFFFFF#32) ||| (g.sreg (sNum a) <<< 30) }) s

/-- Entries before an OPEN entry are dropped (R198). -/
def Ctx.trim (c : Ctx) (n : Word) : Ctx :=
  match c.openSeq n with
  | some q => { c with ring := c.ring.filter fun e => e.seq ≥ q }
  | none => c

/-- LOGCTL trim. -/
def execLogctlTrim (a : BitVec 8) (s : State) : Res :=
  logctlOp a (readsRun a 1) (fun _ _ => none) (fun g c => c.trim (g.sreg (sNum a))) s

/-! WINDOW. -/

/-- WINDOW: the path arrives (R200, R353); a handler belongs to no team. -/
def execWindow (d : BitVec 8) (s : State) : Res :=
  controlOp (fun g _ => { field := isS d && !g.isHandler, uses := writesRun d 1 })
    (fun r _ _ s => s.updPath r fun q => q.park .barwait (.window (sNum d))) s

/-- The destination of a path that stands at a WINDOW. -/
def Path.windowDest (p : Path) : Option Nat :=
  match p.state, p.wait with
  | .barwait, .window d => some d
  | _, _ => none

/-- Every live lane of the team stands at a WINDOW, every flag is zero and no tile is in flight (R200). -/
def State.windowReady (s : State) (team : Nat) : Bool :=
  let ks := s.teamGroups team
  (s.team team).stage == .started && (s.team team).tF == 0 && ks.any (fun k => (s.group k).live != 0) &&
  ks.all fun k =>
    let g := s.group k
    g.entries.all (fun e => e.2.windowDest.isSome) && g.w.all fun e => e.2 == 0

/-- The paths of a group at WINDOW write `n` to their destinations and go on; in the lanes, RCNT begins again where a
window opens. -/
def Group.leaveWindow (g : Group) (n : Word) (opens : Bool) (now : Nat) : Group :=
  let g := g.entries.foldl (fun g e => match e.2.windowDest with
    | some d => (g.setSreg d n).setPath e.1 (e.2.release now)
    | none => g) g
  if opens then (lanesOf g.live).foldl (fun g l => g.updLane l fun ln => { ln with rcnt := 0 }) g else g

/-- The team leaves the barrier with window `n`; what any of its paths has seen comes before what follows (R138). -/
def State.leaveWindow (s : State) (team : Nat) (n : Word) (opens : Bool) : State :=
  let ks := s.teamGroups team
  let s := ks.foldl (fun (s : State) k => s.updGroup k fun g => g.leaveWindow n opens s.clock) (s.mergeSeen (s.seers fun k _ => ks.contains k))
  let s := s.updTeam team fun t => { t with logwin := n }
  if opens then s.updCtx (s.team team).ctx fun c =>
    { c with rstep := c.rstep.map fun x => if x.team = team ∧ x.running then { x with passes := x.passes - 1 } else x }
  else s

/-- Under TRAP a reservation that does not fit freezes every path of the team at its WINDOW, with one stop per group. -/
def State.windowFull (s : State) (team : Nat) : State :=
  (s.teamGroups team).foldl (fun (s : State) k =>
    let g := s.group k
    let es := g.entries
    let g := es.foldl (fun g e =>
      (g.freeze e.1 ((lanesOf e.2.mask).map fun l => { lane := l, cause := .logFull }) .stop 0 s.clock).1) g
    match es with
    | e :: _ => (s.setGroup k g).post .handlerSpawn { a := k, b := e.1 }
    | [] => s) s

/-- The release of WINDOW (R200): the window opens, or the log is off. -/
def State.releaseWindow (s : State) (team : Nat) : State :=
  let t := s.team team
  if !(s.ctx t.ctx).logging then s.leaveWindow team 0xFFFFFFFF false
  else
    let ds := s.digests team 1
    match s.reserve t.ctx (1 + s.pieces team + ds.length) with
    | none => if (s.teamGroups team).any s.pendingFull then s else s.windowFull team
    | some s =>
      if !(s.ctx t.ctx).logging then s.leaveWindow team 0xFFFFFFFF false
      else
        let n := (s.ctx t.ctx).nextWin
        let s := (s.leaveWindow team n true).updLog t.ctx fun c => (c.appendAll ds).openWindow t.tid 1
        s.snapshot team n

/-! Quiet targets. -/

/-- Every flag of the groups is zero and no tile of the teams is in flight. -/
def State.quiet (s : State) (teams : List Nat) : Bool :=
  teams.all fun t => (s.team t).tF == 0 && (s.teamGroups t).all fun k => (s.group k).w.all fun e => e.2 == 0

/-! The target of a rewind (R202). -/

/-- Teams of a context that stand on a core. -/
def State.ctxTeams (s : State) (ctx : Nat) : List Nat := (s.teams.filter fun e => e.2.ctx == ctx && e.2.onCore).map (·.1)

/-- The team had started and not exited at a sequence number. -/
def Team.aliveAt (t : Team) (q : Nat) : Bool :=
  match t.stage with
  | .none | .placed => false
  | .started | .saved => decide (t.startedSeq < q)
  | .exited | .failed => decide (t.startedSeq < q) && decide (q ≤ t.exitedSeq)

/-- Teams that a context rewind restores: those that had started and not exited by then; and those it returns unstarted: those placed
after. -/
def State.wholeTarget (s : State) (ctx q : Nat) : List Nat × List Nat :=
  let ts := s.teams.filter fun e => e.2.ctx == ctx && e.2.stage != .none
  ((ts.filter fun e => e.2.aliveAt q).map (·.1), (ts.filter fun e => !e.2.aliveAt q && e.2.placedSeq ≥ q).map (·.1))

/-- The teams of a target: one; or those of a context, all of it where no OPEN entry says which. -/
def State.targetOf (s : State) (ctx : Nat) (team : Option Nat) (n : Word) : List Nat :=
  match team, (s.ctx ctx).openSeq n with
  | some t, _ => [t]
  | none, some q => (s.wholeTarget ctx q).1 ++ (s.wholeTarget ctx q).2
  | none, none => (s.teams.filter fun e => e.2.ctx == ctx).map (·.1)

/-- The image that a window holds of a team. -/
def Ctx.snapOf (c : Ctx) (n : Word) (team : Nat) : Option Image := c.snaps.find? fun i => i.at_ == n.toNat && i.key == team

/-- The window is the launch window of a team. -/
def State.launchWindow (s : State) (team : Nat) (n : Word) : Bool :=
  match s.grid? (s.team team).grid with
  | some g => g.window == n && n != 0xFFFFFFFF
  | none => false

/-- Bytes of the chunk of `e` that `x` covers too. -/
def LogEntry.overlap (e x : LogEntry) : DWord :=
  if x.covers && x.space == e.space && x.addr == e.addr && x.padTeam == e.padTeam then e.bmask &&& x.bmask else 0

/-- The entry belongs to the target: a team's, or any. -/
def LogEntry.mine (e : LogEntry) (tid : Option Nat) : Bool := match tid with | some t => e.tid == t | none => true

/-- Bytes of an entry that entries of other teams with a higher SEQ cover (R202, R204). -/
def overwritten (ring : List LogEntry) (tid : Option Nat) (e : LogEntry) : DWord :=
  ring.foldl (fun m x => if x.seq > e.seq && !x.mine tid then m ||| e.overlap x else m) 0

/-- Objects of any context whose pages map a frame. -/
def State.frameMaps (s : State) (frame : Nat) : Nat :=
  s.ctxs.foldl (fun n c => c.2.ranges.foldl (fun n r =>
    if (s.objLeaves c.1 r.2.2).any fun e => leafFrame e.2 == frame then n + 1 else n) n) 0

/-- The frame of an entry was released later, or is shared by copy-on-write. -/
def State.frameGone (s : State) (ring : List LogEntry) (e : LogEntry) : Bool :=
  e.space == 0 &&
  ((ring.any fun x => x.seq > e.seq && x.reason == 5 && x.addr / pageSize == e.addr / pageSize) ||
   s.frameMaps (e.addr / pageSize) ≥ 2)

/-- Codes of the status word (R202): the first failing check, 0 for none. -/
def State.rewindCheck (s : State) (ctx : Nat) (team me : Option Nat) (n : Word) : Nat × Bool :=
  let c := s.ctx ctx
  let tid := team.map fun t => (s.team t).tid
  let target := s.targetOf ctx team n
  let busy := s.groups.any fun (e : Nat × Group) => some e.1 != me && (match e.2.hcap with
    | some h => e.2.used && s.capValid h && target.contains h.team
    | none => false)
  match c.openSeq n with
  | none => (if busy then 6 else if !c.logging then 1 else 2, false)
  | some q =>
    let known := match team with
      | some t => s.launchWindow t n || (c.snapOf n t).isSome
      | none => (c.ring.any fun e => e.kind == 5 && e.window == n && e.tid == 0) &&
                (s.wholeTarget ctx q).1.all fun t => (c.snapOf n t).isSome
    let published := match team with | some t => decide ((s.team t).pubseq ≥ q) | none => decide (c.sysPub ≥ q)
    let above := c.ring.filter fun e => e.seq > q && e.mine tid
    if busy then (6, false) else if !c.logging then (1, false) else if !known then (2, false)
    else if published then (3, true)
    else if above.any (·.kind == 4) then (4, true)
    else if team.isSome && above.any (fun e => e.isWrite && !s.frameGone c.ring e && overwritten c.ring tid e != 0) then (5, true)
    else (0, true)

/-- IRREV entries of the target above a window. -/
def State.irrevAbove (s : State) (ctx : Nat) (team : Option Nat) (n : Word) : Nat :=
  let c := s.ctx ctx
  match c.openSeq n with
  | none => 0
  | some q => (c.ring.filter fun e => e.kind == 4 && e.seq > q && e.mine (team.map fun t => (s.team t).tid)).length

/-- The status word (R202). -/
def statusWord (code irrev skipped : Nat) : Word :=
  BitVec.ofNat 32 (code + 256 * min irrev 255 + 65536 * min skipped 65535)

/-! Applying the log (R204). -/

/-- The place of byte `b` of an entry's chunk. -/
def LogEntry.place (e : LogEntry) (b : Nat) : Loc := if e.space = 0 then .dev (e.addr + b) else .pad e.padTeam (e.addr + b)

/-- One entry is undone; the second says whether it counts in SKIPPED. -/
def State.undoEntry (s : State) (ring : List LogEntry) (tid : Option Nat) (e : LogEntry) : State × Nat :=
  if s.frameGone ring e then (s, 1)
  else
    let later := match tid with | some _ => overwritten ring tid e | none => 0
    let s := (List.range 64).foldl (fun s b =>
      if bit e.bmask b && !bit later b then State.touch (s.setByte (e.place b) (e.old.getD b 0)) (e.place b) else s) s
    (s, if later = 0 then 0 else 1)

/-- Every write of the target above a SEQ is undone, newest first, and becomes VOID, as its OPEN entries do. -/
def State.applyLog (s : State) (ctx : Nat) (tid : Option Nat) (q : Nat) : State × Nat :=
  let ring := (s.ctx ctx).ring
  let mine := ring.filter fun e => e.seq > q && e.mine tid
  let writes := (mine.filter LogEntry.isWrite).reverse
  let (s, k) := writes.foldl (fun (x : State × Nat) e =>
    let (s, n) := x.1.undoEntry ring tid e
    (s, x.2 + n)) (s, 0)
  let void (e : LogEntry) : Bool := e.seq > q && e.mine tid && (e.isWrite || e.kind == 5)
  let s := s.updCtx ctx fun c => { c with ring := c.ring.map fun e => if void e then { e with kind := 0 } else e }
  (s.inscribe (s.ctx ctx) ((ring.filter void).map fun e => { e with kind := 0 }), k)

/-! Restoring a team. -/

/-- A restored path stays FROZEN; what it did before is what it does when the rewind's freeze ends. -/
def Path.restored (now : Nat) (p : Path) : Path :=
  if p.state = .empty then p
  else { p with state := .frozen, freezer := .rewound, since := now, rung := 0, mgmtHeld := false, dbgHeld := false,
                recheck := true, held := 0, retry := false, wants := [], tcode := 0, passed := 0,
                before := if p.state = .frozen ∨ p.state = .stepping then .ready else p.state }

/-- A restored group. -/
def Group.restored (g : Group) (now : Nat) : Group :=
  { g.mapPaths (Path.restored now) with lanes := g.lanes.map fun e => (e.1, { e.2 with cause := none, faultAddr := 0 }) }

/-- A group takes its old slot where it is free and its partition has room, else a slot as at placement. -/
def State.seatGroup (s : State) (core key : Nat) (g : Group) : Option State :=
  let units := g.window / 16
  let (s, n) := s.stamp
  let g := { g with used := true, placed := n }
  if coreOf key = core ∧ !(s.group key).used ∧ (s.partRoom core (partOf key)).1 ≥ units then some (s.setGroup key g)
  else (bestPart ((List.range 4).map (s.partRoom core)) units).map fun p => s.setGroup (s.freeSlot core p) g

/-- Groups are seated one by one; none where one finds no room. -/
def State.seatGroups (core : Nat) : Tbl Group → State → Option State
  | [], s => some s
  | (k, g) :: rest, s => (s.seatGroup core k g).bind (State.seatGroups core rest)

/-- A core for a team that has left its core: the one it had, else the lowest that fits (R167). -/
def State.coreFor (s : State) (n : Need) (old : Nat) : Option Nat := (old :: List.range 96).find? (s.fits none n)

/-- The core and the team slot at which a team is restored; none where no core fits. -/
def State.homeFor (s : State) (team : Nat) (windows : List Nat) : Option (Nat × Nat) :=
  let t := s.team team
  if t.onCore then some (t.core, t.slot)
  else (s.coreFor { ctx := t.ctx, scratch := t.scratch, tiles := t.tiles, windows := windows } t.core).map fun c =>
    (c, s.freeTeamSlot c)

/-- A team that had exited or failed counts no more as such, and its bits are clear (R204). -/
def State.revive (s : State) (team : Nat) : State :=
  let t := s.team team
  let back (s : State) (f : Grid → Grid) : State := (s.clearBits team).updGrid t.grid f
  match t.stage with
  | .exited => back s fun g => { g with exited := g.exited - 1, complete := false }
  | .failed => back s fun g => { g with failed := g.failed - 1, complete := false }
  | _ => s

/-- A team takes the state of an image. What an image does not hold stays: scratchpad, counts, publication, identity. -/
def Team.fromImage (t i : Team) (core slot : Nat) : Team :=
  { t.rehomed core slot with
           stage := .started, el := i.el, rowMax := i.rowMax, rowSum := i.rowSum, tV := i.tV,
           tD := i.tD, tP := i.tP, rowP := i.rowP, tF := 0, nbarMask := i.nbarMask, logwin := i.logwin, rest := i.rest, drain := none }

/-- Restore from a snapshot; none where there is no room yet. -/
def State.restoreImage (s : State) (im : Image) : Option State :=
  let s := s.clearTeam im.key
  match s.homeFor im.key (im.groups.map fun e => e.2.window) with
  | none => none
  | some (core, slot) =>
    let s := ((s.revive im.key).updTeam im.key fun t => t.fromImage im.team core slot).updCore core fun c =>
      { c with glade := c.glade ++ im.glade }
    State.seatGroups core (im.groups.map fun e => (e.1, e.2.restored s.clock)) s

/-- Restore to the launch state (R163), frozen; none where there is no room yet. -/
def State.restoreLaunch (s : State) (team : Nat) : Option State :=
  match s.grid? (s.team team).grid with
  | none => some s
  | some g =>
    let s := s.clearTeam team
    match s.homeFor team g.need.windows with
    | none => none
    | some (core, slot) =>
      let s := (s.revive team).updTeam team fun t =>
        { t.rehomed core slot with stage := .placed, logwin := g.window, nbarMask := [], rest := 0, drain := none }
      let t := s.team team
      let s := (s.placeGroups team core (fld (s.queue g.queue).ctl 29 27) g.packet).startTeam team
      some ((s.updTeam team fun x => { x with startedSeq := t.startedSeq }).mapPaths
        (s.teamGroups team) (Path.restored s.clock))

/-- One team of the target is restored to window `n`. -/
def State.restoreTeam (s : State) (n : Word) (team : Nat) : Option State :=
  let t := s.team team
  match (s.ctx t.ctx).snapOf n team with
  | some im => (s.restoreImage im).map fun s => s.updTeam team fun t => { t with logwin := n }
  | none => s.restoreLaunch team

/-- All of them; none where one finds no room. -/
def State.restoreTeams (n : Word) : List Nat → State → Option State
  | [], s => some s
  | t :: ts, s => (s.restoreTeam n t).bind (State.restoreTeams n ts)

/-- A team is discarded and returned to the distributor unstarted (R188, R204). -/
def State.returnTeam (s : State) (team : Nat) : State :=
  let t := s.team team
  let s := (s.dropPending team).clearTeam team
  let s := { s with teams := terase s.teams team }
  s.updGrid t.grid fun g =>
    let p := g.packet
    let c := t.x / p.cw + (p.xm1 + 1) / p.cw * (t.y / p.ch + (p.ym1 + 1) / p.ch * t.z)
    { g with returned :=
        if g.returned.any (·.1 == c) then g.returned.map fun e => if e.1 = c then (c, e.2 ++ [t.pos]) else e
        else g.returned ++ [(c, [t.pos])] }

/-! A rewind. -/

/-- The target is restored and what came after it is returned. -/
def State.applyRewind (s : State) (ctx : Nat) (team : Option Nat) (n : Word) (q : Nat) : Option (State × Nat) :=
  match team with
  | some t =>
    let (s, k) := s.applyLog ctx (some (s.team t).tid) q
    (s.restoreTeam n t).map fun s => (s, k)
  | none =>
    let (back, gone) := s.wholeTarget ctx q
    let (s, k) := s.applyLog ctx none q
    let s := gone.foldl (fun s t => ((s.revive t).clearBits t).returnTeam t) s
    (State.restoreTeams n back s).map fun s => (s, k)

/-- A grid launched at or after a rewind's window, whose OPEN entry has the SEQ `q`, is launched again from its packet with its bitmap
bits cleared (R192); the OPEN entry of a later one is void, so it takes a launch window anew. -/
def State.relaunchGrid (s : State) (q gk : Nat) : State :=
  match s.grid? gk with
  | none => s
  | some g =>
    let p := g.packet
    let s := (List.range (2 * p.teams)).foldl (fun (s : State) i => s.bitmapOr g.ctx p.bitmap i false) s
    let later := g.openSeq > q
    let (s, n) := if later then s.openLaunch g.ctx else (s, g.window)
    let head := (s.queue g.queue).grid == some gk
    s.updGrid gk fun x =>
      { x with exited := 0, failed := 0, unrun := 0, passed := [], window := n,
               openSeq := if later then (s.ctx g.ctx).seq else x.openSeq,
               next := if head then 0 else p.clusters,
               returned := if head then [] else (List.range p.clusters).map fun c => (c, p.positions) }

/-- The grids of a context launched at or after a window are launched again. -/
def State.relaunchGrids (s : State) (ctx q : Nat) : State :=
  (s.grids.filter fun e => e.2.ctx == ctx && e.2.openSeq ≥ q).foldl (fun s e => s.relaunchGrid q e.1) s

/-- REWIND of a team or of a context, for handler `me` or for nobody: the state and the status word; none while the
target is not quiet, or while a restored team has no room (R202, R204). -/
def State.rewind (s : State) (ctx : Nat) (team me : Option Nat) (n : Word) (force : Bool) : State × Option Word :=
  let teams := (s.targetOf ctx team n).filter fun t => team.isSome || (s.team t).onCore
  let ks := teams.flatMap s.teamGroups
  let s := s.suspend ks .rewind
  if !s.quiet teams then (s, none)
  else
    let (code, forceable) := s.rewindCheck ctx team me n
    let irrev := s.irrevAbove ctx team n
    if code ≠ 0 && !(force && forceable) then (s.unsuspend ks .rewind, some (statusWord code irrev 0))
    else
      match ((s.ctx ctx).openSeq n).bind (s.applyRewind ctx team n) with
      | none => (s, none)
      | some (s, k) =>
        let s := if (s.ctx ctx).escal.isSome then s.suspend (s.ctxGroups ctx) .management else s
        (s, some (statusWord (if code = 0 then 0 else 7) irrev k))

/-- A key that no group and no handler slot has. -/
def noSlot : Nat := 6528

/-- The group that a capability names, as it stands after a rewind: a handler's group is no part of the target, and a team's stands where it
was restored. -/
def State.capGroup (s : State) (h : HCap) : Option Nat :=
  if h.hnd then (if s.holdsGroup h then some h.group else none)
  else (s.teamGroups h.team).find? fun x => (s.group x).gid == h.gid

/-- The capability of a handler after an accepted rewind (R204); with its team returned it names no group. -/
def State.rewriteCap (s : State) (k : Nat) (whole : Bool) : State :=
  s.updGroup k fun g =>
    match g.hcap with
    | none => g
    | some h =>
      let h := { h with causes := [], wide := true, rewound := if whole then 2 else 1, given := s.clock }
      match s.capGroup h with
      | none => { g with hcap := some { h with mask := 0, group := noSlot } }
      | some x =>
        let f := s.group x
        let path := match f.entries with | e :: _ => e.1 | [] => 0
        { g with hcap := some { h with group := x, gen := f.placed, mask := f.live, path := path, core := coreOf x,
                                       tslot := (s.team h.team).slot } }

/-- REWIND (R202): it holds its path until it completes. -/
def execRewind (d a : BitVec 8) (c f : BitVec 1) (s : State) : Res :=
  issuing s fun r g p =>
    let chk : Checks := { field := isS d && isS a && g.isHandler, uses := (readsRun a 1).and (writesRun d 1) }
    match chk.cause g 0 {}, g.hcap with
    | some x, _ => s.stopAll r p x
    | none, none => s.stopAll r p .illegalOperand
    | none, some h =>
      let whole := c == 1#1
      if !h.rewind || !s.capValid h || (whole && !h.wide) then s.stopAll r p .handlerFault
      else
        match s.rewind g.ctx (if whole then none else some h.team) (some r.group) (g.sreg (sNum a)) (f == 1#1) with
        | (s, none) => s.hold r 22
        | (s, some w) =>
          let accepted := fld w 7 0 == 0 || fld w 7 0 == 7
          conclude r [] true (fun s =>
            let s := if accepted then s.rewriteCap r.group whole else s
            s.updGroup r.group fun g => g.setSreg (sNum d) w) s

end Sys2Proof.Machine
end

