-- ==== Sys2Proof/Machine/Save.lean ====
section
/-! DEFINITION. Pre-emption (R188): the choice of method, saving a team and restoring it (R189, R190, R268), and the end of a
drain. -/

namespace Sys2Proof.Machine

/-! The choice (R188). -/

/-- The log holds every entry of the team back to its launch window, and none of them is irreversible; the SEQ of that
window's OPEN entry. -/
def State.intactSince (s : State) (team : Nat) : Option Nat :=
  let t := s.team team
  let c := s.ctx t.ctx
  match (s.grid? t.grid).bind fun g => c.openSeq g.window with
  | some q => if c.logging && !(c.ring.any fun e => e.kind == 4 && e.seq > q && e.tid == t.tid) then some q else none
  | none => none

/-- The method for one team: 0 DRAIN, 1 FLUSH, 2 SAVE. -/
def State.preemptChoice (s : State) (team : Nat) : Nat :=
  let t := s.team team
  let dexp := fld (s.core t.core).preth 5 0
  if t.progress ≠ 0 && t.progress < t.cyclesResident + 2 ^ dexp then 0
  else if t.idem then 1
  else match s.intactSince team with
    | some q => if t.published && t.pubseq ≥ q then 2 else 1
    | none => 2

/-- The method for a team as one of its cluster: SAVE before FLUSH before DRAIN. -/
def State.clusterChoice (s : State) (ts : List Nat) (team : Nat) : Nat :=
  (ts.filter fun x => (s.team x).sameCluster (s.team team)).foldl (fun m x => max m (s.preemptChoice x)) 0

/-! Images. -/

/-- Bytes of a team's image: header and pieces (R199), scratchpad, and the deposits of the Glade (R268). -/
def State.imageSize (s : State) (team : Nat) : Nat :=
  64 * s.pieces team + (s.team team).scratch + Config.depositBytes (s.deposits team).length

/-- Bytes that a team's image may come to take before it is saved: tiles in flight count as valid, and all of them where the team runs on. -/
def State.imageBound (s : State) (team : Nat) (runs : Bool) : Nat :=
  let t := s.team team
  let more := (List.range t.tiles).filter fun k => !bit t.tV k && (runs || bit t.tF k)
  s.imageSize team + 64 * 384 * more.length

/-- The next multiple of 64. -/
def align64 (n : Nat) : Nat := (n + 63) / 64 * 64

/-- The header of an image (R190). -/
def Team.saveHeader (t : Team) (groups size : Nat) : List Byte :=
  [0x41, 0x5A, 0x53, 0x56, 1, 32, BitVec.ofNat 8 groups, BitVec.ofNat 8 t.tiles] ++ bytesOfNat 4 t.scratch ++ bytesOfNat 4 t.ctx ++
  bytesOfNat 4 t.x ++ bytesOfNat 4 t.y ++ bytesOfNat 4 t.z ++ bytesOfNat 4 (t.idem.toNat + 2 * t.replay.toNat) ++
  bytesOfNat 8 size ++ List.replicate 24 0

/-- The bytes of an image: its header, and a body that only a restore reads (R190); the body's layout is the device's own, so its bytes
are free. -/
def Image.bytes (i : Image) : List Byte :=
  i.team.saveHeader i.groups.length i.size ++ (List.range (i.size - 64)).map (Config.freeByte i.body)

/-- A path as an image holds it (R189, R317): what the management core or a debugger froze goes on at restore; a waiting REGROW is
withdrawn and issued afresh, and so is a word that was being stepped for a handler, which ends. -/
def Path.saved (p : Path) : Path :=
  let p := { p with mgmtHeld := false }
  let p := if p.state = .frozen ∧ (p.freezer = .management ∨ p.freezer = .rewind ∨ p.freezer = .rewound ∨ p.freezer = .ladder) then
      (if p.dbgHeld ∨ p.stepper = .debugger then { p with freezer := .debugger, dbgHeld := false, stepper := .nobody }
       else { p with state := if p.before = .stepping then .ready else p.before, freezer := .nobody, stepper := .nobody, before := .empty })
    else p
  match p.wait with
  | .regrow .. => { p with state := .ready, wait := .nothing, warg := 0 }
  | _ => p

/-- A path as a restore resumes it: MWAIT wakes, REGANG is executed again (R35, R153). -/
def Path.placedAgain (p : Path) (now : Nat) : Path :=
  match p.state, p.wait with
  | .empty, _ => p
  | .ready, _ | .regang, _ => { p.ready now with clause := none }
  | .barwait, .monitor _ => { p with wait := .monitor [], recheck := true }
  | .stepping, .nothing => { p with clause := none, recheck := true }
  | _, _ => { p with recheck := true }

/-- A team is stored at a physical address and leaves its core (R189). Its handlers end, and its stops are saved as FROZEN
entries. -/
def State.saveTeam (s : State) (team pa : Nat) : State :=
  let t := s.team team
  let im : Image := s.image pa team
  let im : Image := { im with groups := im.groups.map fun (e : Nat × Group) => (e.1, e.2.mapPaths Path.saved),
                              size := s.imageSize team, body := s.free }
  let s := s.setBytes (.dev pa) im.bytes
  let s := ((s.dropStops team).clearTeam team).updTeam team fun t => { t with stage := .saved, drain := none }
  { s with free := s.free + 1, saves := s.saves ++ [im] }.updCtx t.ctx fun c =>
    { c with images := c.images.filter (fun (i : Image) => i.key != im.key) ++ [im] }

/-- A saved team is placed again on a core that fits; none where none does (R190, R268). Its stops are queued again. -/
def State.restoreSaved (s : State) (im : Image) : Option State :=
  let t := im.team
  let windows := im.groups.map fun e => e.2.window
  match s.coreFor { ctx := t.ctx, scratch := t.scratch, tiles := t.tiles, windows := windows } t.core with
  | none => none
  | some core =>
    let slot := s.freeTeamSlot core
    let s := (s.setTeam im.key { t.rehomed core slot with stage := .started, drain := none, tF := 0 }).updCore core
      fun c => { c with glade := c.glade ++ im.glade }
    match State.seatGroups core (im.groups.map fun e => (e.1, e.2.mapPaths (·.placedAgain s.clock))) s with
    | none => none
    | some s =>
      let s := s.updCtx t.ctx fun c => { c with images := c.images.filter fun i => i.key != im.key }
      some ((s.teamGroups im.key).foldl (fun (s : State) k =>
        (s.group k).entries.foldl (fun (s : State) e =>
          if e.2.state = .frozen ∧ e.2.freezer = .stop then s.post .handlerSpawn { a := k, b := e.1 } else s) s) s)

/-! Taking a team off its core. -/

/-- Some handler acts for the team. -/
def State.handled (s : State) (team : Nat) : Bool := s.groups.any fun e => e.2.used && e.2.isHandler && e.2.team == team

/-- FLUSH (R188): unless the team is IDEM its entries are applied back to its start window; it returns unstarted. -/
def State.flushTeam (s : State) (team : Nat) : State :=
  let t := s.team team
  let s := match s.intactSince team with
    | some q => if t.idem then s else (s.applyLog t.ctx (some t.tid) q).1
    | none => s
  s.returnTeam team

/-- The management core holds a team that it takes off its core; a step that is under way is completed, so that a handler that waits for it
can end (R188). -/
def State.holdTeam (s : State) (team : Nat) : State :=
  s.mapPaths (s.teamGroups team) fun p =>
    if p.state = .stepping ∧ p.freezer ≠ .rewind then { p with mgmtHeld := true } else p.suspend .management s.clock

/-- The team can be taken off: no step under way, quiet, with no detached event unperformed (R138), and, but for an escalation, with no handler
running for it (R188, R189). -/
def State.canTakeOff (s : State) (sv : Saving) (team : Nat) : Bool :=
  (s.team team).stage == .started && (s.teamGroups team).all (fun k => (s.group k).entries.all fun e => e.2.state == .frozen) && s.quiet [team] && !s.trailing team &&
  (!sv.mailbox || (s.ctx (s.team team).ctx).escal.isSome || !s.handled team)

/-- The directory of a save area (R268). -/
def Saving.directory (sv : Saving) : List Byte :=
  bytesOfNat 4 sv.dir.length ++ bytesOfNat 4 sv.drained ++ bytesOfNat 4 sv.flushed ++ bytesOfNat 4 0 ++
  sv.dir.flatMap fun e => bytesOfNat 8 e.1 ++ bytesOfNat 8 e.2

/-- A team leaves the list of those still to be taken off. -/
def Saving.drop (sv : Saving) (team : Nat) : Saving := { sv with waiting := sv.waiting.filter fun e => e.1 != team }

/-- TEAM_SAVE: team. A team whose method is SAVE is stored in the save area, one whose method is FLUSH is flushed; a team whose
drain has ended in neither way is not concerned. A team whose image has come to exceed what is left of the area runs to its exit (log 32). -/
def execTeamSave (s : State) : Res :=
  let team := s.ev.a
  let ctx := (s.team team).ctx
  match (s.ctx ctx).saving, (s.ctx ctx).saveArea with
  | some sv, some (base, size) =>
    match sv.waiting.find? (·.1 == team) with
    | some (_, m) =>
      if m = 0 || !(s.team team).onCore then .next s
      else if !s.canTakeOff sv team then .next (s.holdTeam team)
      else if m = 1 then
        .next ((s.flushTeam team).updCtx ctx fun c => { c with saving := some { sv.drop team with flushed := sv.flushed + 1 } })
      else
        let n := s.imageSize team
        if sv.next + n > size then
          .next (((s.unsuspend (s.teamGroups team) .management).updTeam team fun t => { t with drain := none }).updCtx ctx fun c =>
            { c with saving := some { sv with waiting := sv.waiting.map fun e => if e.1 = team then (team, 0) else e } })
        else
          .next ((s.saveTeam team (base + sv.next)).updCtx ctx fun c =>
            { c with saving := some { sv.drop team with next := align64 (sv.next + n), dir := sv.dir ++ [(sv.next, n)] },
                     homing := if sv.mailbox ∧ c.escal.isNone then c.homing else c.homing ++ [team] })
    | none => .next s
  | _, _ => .next s

/-- DRAIN_TIMEOUT: team. A drain that has lasted 2 × 2^DEXP cycles turns into a save (R188). -/
def execDrainTimeout (s : State) : Res :=
  let team := s.ev.a
  let t := s.team team
  match t.drain, (s.ctx t.ctx).saving with
  | some n, some sv =>
    if clocks t.core n ≥ 2 * 2 ^ fld (s.core t.core).preth 5 0 then
      .next ((s.updTeam team fun t => { t with drain := none }).updCtx t.ctx fun c =>
        { c with saving := some { sv with waiting := sv.waiting.map fun e => if e.1 = team then (team, 2) else e } })
    else .next s
  | _, _ => .next s

/-- Drained teams that have left are counted; teams that have gone otherwise leave the list. -/
def State.sweepSaving (s : State) (ctx : Nat) : State :=
  match (s.ctx ctx).saving with
  | none => s
  | some sv =>
    let left (e : Nat × Nat) : Bool := !(s.team e.1).onCore
    let n := (sv.waiting.filter fun e => left e && (s.team e.1).stage == .exited).length
    s.updCtx ctx fun c => { c with saving := some { sv with waiting := sv.waiting.filter fun e => !left e, drained := sv.drained + n } }

/-- Nothing is left to be taken off: the directory is written. -/
def State.endSaving (s : State) (ctx : Nat) : State :=
  match (s.ctx ctx).saving, (s.ctx ctx).saveArea with
  | some sv, some (base, _) =>
    if sv.waiting.isEmpty then
      let s := (s.setBytes (.dev base) sv.directory).updCtx ctx fun c => { c with saving := none }
      if sv.mailbox then
        s.updHost fun h => { h with busy := false, status := 0, operands := none, tlbAfter := none,
                                    buffer := tputAll h.buffer 0 (sv.directory.take 16) }
      else s
    else s
  | _, _ => s

end Sys2Proof.Machine
end

