-- ==== Sys2Proof/Machine/Events.lean ====
section
/-! DEFINITION. The event queue of the management core (R265), the debugger's records (R210), and the trap stack of a group
(R178, R182). -/

namespace Sys2Proof.Machine

/-! Events for the host. -/

/-- Records that the queue holds. -/
def eventSlots : Nat := 256

/-- A record (R265); byte 1, LOST, is filled as it is read. -/
def eventRecord (kind ctx seq : Nat) (body : List Byte) : List Byte :=
  let r := bytesOfNat 1 kind ++ [0] ++ bytesOfNat 2 ctx ++ bytesOfNat 4 seq ++ body
  r ++ List.replicate (64 - r.length) 0

/-- A record enters the queue, with its number, and signals (R265). -/
def Mgmt.enqueue (h : Mgmt) (kind ctx : Nat) (body : List Byte) : Mgmt :=
  { h with events := h.events ++ [eventRecord kind ctx h.evseq body], evseq := h.evseq + 1,
           msix := if bit h.evcfg 31 then h.msix ++ [fld h.evcfg 10 0] else h.msix }

/-- A record can enter the queue: a slot is free, and none is held before it. -/
def Mgmt.takesEvent (h : Mgmt) : Bool := h.events.length < eventSlots && h.heldEvents.isEmpty

/-- An event: with the queue full, a power or integrity event is lost and counted, and any other is held. -/
def State.queueEvent (s : State) (kind ctx : Nat) (body : List Byte) : State :=
  s.updHost fun h =>
    if h.takesEvent then h.enqueue kind ctx body
    else if kind = 2 ∨ kind = 3 then { h with lost := min (h.lost + 1) 255 }
    else { h with heldEvents := h.heldEvents ++ [bytesOfNat 1 kind ++ bytesOfNat 2 ctx ++ body] }

/-- Held events enter as records free. -/
def Mgmt.refill (h : Mgmt) : Mgmt :=
  match h.heldEvents with
  | r :: rest =>
    if h.events.length < eventSlots then
      { h with heldEvents := rest }.enqueue (natOfBytes (r.take 1)) (natOfBytes ((r.drop 1).take 2)) (r.drop 3)
    else h
  | [] => h

/-- The event of an escalation of the context is held. -/
def Mgmt.holdsEscalation (h : Mgmt) (ctx : Nat) : Bool :=
  h.heldEvents.any fun r => natOfBytes (r.take 1) == 1 && natOfBytes ((r.drop 1).take 2) == ctx

/-- Held events enter as records free; the wait for the answer to an escalation is counted from the moment its event has (R184, R265). -/
def State.refillEvents (s : State) : State :=
  let s := s.updHost Mgmt.refill
  { s with ctxs := s.ctxs.map fun e => (e.1, { e.2 with escal := e.2.escal.map fun (x : Escal) =>
      { x with queued := x.queued || !s.host.holdsEscalation e.1 } }) }

/-- RCNT of the lowest lane of a mask. -/
def Group.rcntOf (g : Group) (m : BitVec 32) : Nat := ((lanesOf m).head?).elim 0 fun l => (g.lane l).rcnt.toNat

/-- A record of the debugger (R210), as an event of kind 4. -/
def State.debugRecord (s : State) (k e kind cause index : Nat) (mask : BitVec 32) (pc : DWord) (count : Nat) : State :=
  let g := s.group k
  let t := s.team g.team
  s.queueEvent 4 g.ctx
    (bytesOfNat 2 g.ctx ++ bytesOfNat 1 kind ++ bytesOfNat 1 cause ++ bytesOfNat 4 t.tid ++ bytesOfNat 1 (coreOf k) ++
     bytesOfNat 1 g.gid ++ bytesOfNat 1 e ++ bytesOfNat 1 index ++ bytesOfNat 4 mask.toNat ++ bytesOfNat 8 pc.toNat ++
     bytesOfNat 4 t.logwin.toNat ++ bytesOfNat 4 count)

/-- Summary cause of lanes: the lowest code; lanes with no cause do not count (R176). -/
def Group.summary (g : Group) (m : BitVec 32) : Nat :=
  ((lanesOf m).map fun l => causeCode (g.lane l).cause).foldl (fun a c => if c = 0 then a else if a = 0 then c else min a c) 0

/-- A debugger stop is reported, with the digests that it takes (R206, R210). -/
def State.debugStop (s : State) (k e index : Nat) : State :=
  let g := s.group k
  let p := g.path e
  let from_ := (s.ctx g.ctx).seq
  let s := s.appendDigests g.team 2
  let s := s.updCtx g.ctx fun c => { c with stopAt := tput c.stopAt ((s.team g.team).tid * 16 + g.gid) (from_, c.seq) }
  s.debugRecord k e 1 (g.summary p.mask) index p.mask p.pc (g.rcntOf p.mask)

/-! The trap stack. -/

/-- The group whose trap stack a group's handlers occupy (R182): handlers lead to the group they act for. -/
def State.rootOf (s : State) : Nat → Nat → Nat
  | 0, k => k
  | n + 1, k => match (s.group k).hcap with | some h => s.rootOf n h.group | none => k

/-- Frames in use of a root group: running and frozen handlers on its behalf. -/
def State.framesOf (s : State) (root : Nat) : Nat :=
  (s.groups.filter fun e => e.2.used && e.2.isHandler && s.rootOf 8 e.1 == root).length

/-- The free handler slot that a stop of group `k` takes: its own partition's, else the lowest (R178). -/
def State.freeHandler (s : State) (k : Nat) : Option Nat :=
  let c := coreOf k
  ((partOf k) :: List.range 4).find? fun i => !(s.group (handlerKey c i)).used

/-- Every slot of a core's pool is held by a handler none of whose lanes can run (R183). -/
def State.poolStuck (s : State) (c : Nat) : Bool :=
  (List.range 4).all fun i =>
    let g := s.group (handlerKey c i)
    g.used && !g.entries.isEmpty && g.entries.all fun e => e.2.state == .frozen

/-- The groups of the frozen set of a rung, or of a rewind's target (R185, R204): a team's, a context's, and the stopped group itself
where it is a handler. -/
def State.wideSet (s : State) (h : HCap) : List Nat :=
  let ks := if h.rung = 2 ∨ h.rung = 3 ∨ h.rewound = 2
    then (s.ctxGroups (h.team / 4194304)).filter fun k => !(s.group k).isHandler else s.teamGroups h.team
  if s.holdsGroup h && (s.group h.group).isHandler then h.group :: ks else ks

/-- The groups and lanes that FRESUME and FKILL reach (R181): MASK of the frozen group, or with WIDE the whole frozen set. -/
def State.reach (s : State) (h : HCap) : List (Nat × BitVec 32) :=
  if h.wide then (s.wideSet h).map fun k => (k, (s.group k).frozenLanes h.given)
  else if s.holdsGroup h then [(h.group, h.mask)] else []

/-- Some lane that the capability reaches is still frozen. -/
def State.stillFrozen (s : State) (h : HCap) : Bool :=
  (s.reach h).any fun e => (s.group e.1).frozenLanes h.given &&& e.2 != 0

/-- The groups that a rung froze for a handler. -/
def State.rungGroups (s : State) (h : HCap) : List Nat :=
  (if s.holdsGroup h then [h.group] else []) ++ if h.wide then s.wideSet h else []

/-- Some path that a rung froze for a handler still stands frozen. -/
def State.rungFrozen (s : State) (h : HCap) : Bool :=
  h.rung ≠ 7 && (s.rungGroups h).any fun k => (s.group k).entries.any fun e =>
    e.2.state == .frozen && e.2.freezer == .ladder && e.2.heldSince h.given

/-- Lanes of a group that a capability given at a clock reaches return to READY, entry by entry (R181). -/
def Group.resumeLanes (g : Group) (m : BitVec 32) (given now : Nat) : Group :=
  g.entries.foldl (fun g e =>
    if e.2.state = .frozen ∧ e.2.heldSince given then g.resume e.1 (e.2.mask &&& m) now else g) g

/-- A step for a handler that ends is not made: its lanes are frozen as they were. -/
def Path.unstepped (p : Path) (given : Nat) : Path :=
  if p.state = .stepping ∧ p.freezer = .stop ∧ p.heldSince given then
    { p with state := .frozen, clause := none, wait := .nothing, held := 0, retry := false, wants := [], before := .ready }
  else if p.state = .frozen ∧ p.before = .stepping ∧ p.stepper = .stop ∧ p.heldSince given then
    { p with before := .ready, stepper := .nobody } else p

/-- A handler ends: its slot is free. -/
def State.endHandler (s : State) (k : Nat) : State :=
  let s := match (s.group k).hcap with
    | some h => if s.holdsGroup h then s.updGroup h.group fun g => g.mapPaths (·.unstepped h.given) else s
    | none => s
  s.freeGroup k

/-- Groups of the context of a capability, handlers apart. -/
def State.capContext (s : State) (h : HCap) : List Nat :=
  (s.ctxGroups (h.team / 4194304)).filter fun k => !(s.group k).isHandler

/-- Lanes that a rewind left frozen resume when the handler `k` ends (R204); a rewind of its that still waits ends with it. -/
def State.unrewind (s : State) (k : Nat) (h : HCap) : State :=
  let s := if (s.group k).entries.any (·.2.held == 22) then s.unsuspend (s.capContext h) .rewind else s
  match h.rewound with
  | 0 => s
  | 1 => s.unsuspend (s.teamGroups h.team) .rewound
  | _ => s.unsuspend (s.capContext h) .rewound

end Sys2Proof.Machine
end

