-- ==== Sys2Proof/Machine/Handlers.lean ====
section
/-! DEFINITION. Where a stop goes (R177), handlers and their capability (R178, R179), the pending queue (R183), escalation (R184)
and the compatibility ladder (R185). -/

namespace Sys2Proof.Machine

/-! The capability. -/

/-- The capability over the frozen entry `e` of group `k` (R179). -/
def State.capFor (s : State) (k e : Nat) : HCap :=
  let g := s.group k
  let p := g.path e
  let t := s.team g.team
  let codes := (lanesOf p.mask).map fun l => (l, (BitVec.ofNat 8 (causeCode (g.lane l).cause) : BitVec 8))
  let sum := g.summary p.mask
  { group := k, gen := g.placed, given := s.clock, path := e, mask := p.mask, summary := sum,
    depth := match g.hcap with | some h => h.depth + 1 | none => 1,
    hnd := g.isHandler, rewind := (s.ctx g.ctx).logEn, map := codes.any fun c => c.2 == 8,
    tcode := if codes.any fun c => c.2 == 13 || c.2 == 14 then p.tcode else 0,
    core := coreOf k, tslot := t.slot, team := g.team, gid := if g.isHandler then partOf k else g.gid, causes := codes }

/-- A handler group starts in a pool slot (R178). -/
def State.spawn (s : State) (slot : Nat) (h : HCap) (kernel : HKernel) : State :=
  let g := s.group h.group
  let (s, n) := s.stamp
  s.setGroup (handlerKey (coreOf h.group) slot)
    { used := true, ctx := g.ctx, team := g.team, gid := slot, window := 32, prio := g.prio, placed := n, hcap := some h,
      paths := [(0, { state := .ready, mask := h.mask, mode := launchMode, pc := kernel.entry, clhdr := kernel.entry,
                      age := readyAge s.clock })] }

/-- A handler kernel that R178 can spawn. -/
def HKernel.fits (k : HKernel) : Bool := k.regs ≤ 32 && k.scratch == 0 && k.tiles == 0

/-- The handler-table entry for a cause (R80, R83). -/
def Ctx.handler (c : Ctx) (cause : Nat) : Option HKernel := (c.handlers.find? fun e => e.1 == cause).map (·.2)

/-! Escalation (R184). -/

/-- The handlers that an escalation ends: one, and those whose frozen lanes it acts for in turn. -/
def State.chain (s : State) : Nat → Nat → List Nat
  | 0, _ => []
  | n + 1, k => match (s.group k).hcap with | some h => k :: (if s.holdsGroup h then s.chain n h.group else []) | none => []

/-- Some handlers, with those that act for one of them, and so on: their frames lie above. -/
def State.withNested (s : State) : Nat → List Nat → List Nat
  | 0, ks => ks
  | n + 1, ks => s.withNested n (ks ++ (s.groups.filter fun e => e.2.used && !ks.contains e.1 && (match e.2.hcap with
      | some h => ks.contains h.group && s.holdsGroup h
      | none => false)).map (·.1))

/-- The original stop under a capability (R294). -/
def State.original (s : State) : Nat → HCap → HCap
  | 0, h => h
  | n + 1, h => match (s.group h.group).hcap with | some x => s.original n x | none => h

/-- The words of a capability, for the event (R265). -/
def HCap.bytes (h : HCap) (valid : Bool) (ctx : Nat) : List Byte :=
  (List.range 11).flatMap fun i => bytesOfNat 4 (h.word valid ctx i).toNat

/-- The teams of a context are to be saved, where the context has a save area that can hold their images; a pre-emption under way takes
them all off by saving. -/
def State.saveForEscalation (s : State) (ctx : Nat) : State :=
  let ts := s.ctxTeams ctx
  match (s.ctx ctx).saveArea with
  | some (_, size) =>
    let sv := (s.ctx ctx).saving.getD {}
    let need := ts.foldl (fun n t => align64 n + s.imageBound t false) sv.next
    if need ≤ size then s.updCtx ctx fun c => { c with saving := some { sv with waiting := ts.map fun t => (t, 2) } } else s
  | none => s

/-- Groups that a rung freezes (R185). -/
def State.rungSet (s : State) (k rung : Nat) : List Nat :=
  let g := s.group k
  match rung with
  | 0 => [k]
  | 1 => if g.isHandler then k :: s.teamGroups g.team else s.teamGroups g.team
  | _ => (s.ctxGroups g.ctx).filter fun x => x == k || !(s.group x).isHandler

/-- What the rungs of a stop froze is from now on frozen for its escalation; what another handler's rung froze stays its own. -/
def State.takeOver (s : State) (h : HCap) (ks : List Nat) : State :=
  let theirs := s.groups.flatMap fun e => match e.2.hcap with
    | some x => if e.2.used && x.rung != 7 && x.group != h.group && !ks.contains e.1 then [x.group] else []
    | none => []
  s.mapPaths ((s.rungSet h.group 3).filter fun k => !theirs.contains k) fun p =>
    if p.state = .frozen ∧ p.freezer = .ladder then { p with freezer := .management } else p

/-- ESCALATION: the stop under a capability goes to the management core; `reason` as R265 codes it. Its frames end, every
group of the context freezes, the teams are saved where they can be, and the host is told. -/
def State.escalate (s : State) (ctx : Nat) (h : Option HCap) (me : Option Nat) (reason : Nat) : State :=
  let start := me <|> h.map (·.group)
  let ks := s.withNested 8 ((start.map (s.chain 8)).getD [])
  let valid := h.any s.capValid
  let stop : List (Nat × Nat × Nat × BitVec 32) := h.toList.map fun x =>
    let o := s.original 8 x
    (o.team, o.gid, o.path, o.mask)
  let s := (h.map (s.takeOver · ks)).getD s
  let s := ks.foldl (fun s k => (((s.group k).hcap).map (s.unrewind k)).getD s) s
  let s := ks.foldl State.endHandler s
  let s := s.suspend (s.ctxGroups ctx) .management
  let s := s.saveForEscalation ctx
  let body := (h.map fun x => bytesOfNat 1 x.summary ++ bytesOfNat 1 x.core ++ bytesOfNat 1 reason ++ [0] ++ x.bytes valid ctx).getD
    ([0, 0] ++ bytesOfNat 1 reason ++ [0])
  let queued := s.host.takesEvent
  let s := s.queueEvent 1 ctx body
  s.updCtx ctx fun c =>
    let e := c.escal.getD { stops := [], queued := queued }
    { c with escal := some { e with stops := e.stops ++ stop } }

/-- ESCALATION: group, path, reason. A group and path that hold no frozen lanes escalate their context alone. -/
def execEscalation (s : State) : Res :=
  let g := s.group s.ev.a
  let p := g.path s.ev.b
  if !g.used then .next s
  else if p.state = .frozen then .next (s.escalate g.ctx (some (s.capFor s.ev.a s.ev.b)) none s.ev.c)
  else .next (s.escalate g.ctx none none s.ev.c)

/-! Routing. -/

/-- The stop waits in the pending queue of its core (R183). -/
def State.enqueueStop (s : State) (k e : Nat) : State :=
  s.updCore (coreOf k) fun c => if c.pending.contains (k, e) then c else { c with pending := c.pending ++ [(k, e)] }
/-- The stop leaves it. -/
def State.dequeueStop (s : State) (k e : Nat) : State :=
  s.updCore (coreOf k) fun c => { c with pending := c.pending.filter (· != (k, e)) }

/-- The first rung from one upward whose handler entry is not empty (R185). -/
def Ctx.rungFrom (c : Ctx) (from_ : Nat) : Option (Nat × HKernel) :=
  ([0, 1, 2, 3].drop from_).findSome? fun r => (c.handler (24 + r)).map fun x => (r, x)

/-- The handler kernel to which the stop of an entry goes (R177), none where it goes elsewhere. -/
def State.handlerFor (s : State) (k e : Nat) : Option HKernel :=
  let g := s.group k
  let c := s.ctx g.ctx
  let sum := g.summary (g.path e).mask
  if c.escal.isSome || sum = 15 then none
  else if bit c.fltcfg 0 then (c.rungFrom (g.path e).rung).map (·.2)
  else if sum = 12 && (c.handler 12).isNone then none
  else (c.handler sum).or (c.handler 31)

/-- A nested stop that would need a fifth frame (R182). -/
def State.framesFull (s : State) (k : Nat) : Bool := (s.group k).isHandler && s.framesOf (s.rootOf 8 k) ≥ 4

/-- The stop has a handler for which it waits where no slot is free (R183): the others are sent on at once. -/
def State.needsSlot (s : State) (k e : Nat) : Bool := (s.handlerFor k e).any (·.fits) && !s.framesFull k

/-- The ladder has reached the rung that it takes for a stop: the rung's set freezes, whether or not its handler must wait (R185). -/
def State.freezeRung (s : State) (k e : Nat) : State :=
  match (s.ctx (s.group k).ctx).rungFrom ((s.group k).path e).rung with
  | some (r, _) => (s.suspend (s.rungSet k r) .ladder).updPath ⟨k, e⟩ fun p => { p with rung := r }
  | none => s

/-- A handler for a capability, in a free slot; else the stop waits or escalates (R178, R182, R183). -/
def State.spawnFor (s : State) (h : HCap) (kernel : HKernel) : State :=
  let g := s.group h.group
  if !kernel.fits then s.escalate g.ctx (some h) none 4
  else if s.framesFull h.group then s.escalate g.ctx (some h) none 3
  else match s.freeHandler h.group with
    | some slot => s.spawn slot h kernel
    | none =>
      if g.isHandler && s.poolStuck (coreOf h.group) then s.escalate g.ctx (some h) none 3 else s.enqueueStop h.group h.path

/-- The ladder for a stop, from the rung that it has reached (R185): its set freezes and its handler is spawned; an empty entry passes the
stop on. -/
def State.climb (s : State) (k e reason : Nat) : State :=
  let g := s.group k
  match (s.ctx g.ctx).rungFrom (g.path e).rung with
  | none => s.escalate g.ctx (some (s.capFor k e)) none reason
  | some (r, kernel) =>
    let s := s.freezeRung k e
    s.spawnFor { s.capFor k e with summary := 24 + r, rung := r, wide := decide (r ≥ 1), mask := (s.group k).live } kernel

/-- The frozen entry `e` of group `k` is a stop that no handler holds yet, its own or one that the ladder has carried to it. -/
def State.isStop (s : State) (k e : Nat) : Bool :=
  let g := s.group k
  let p := g.path e
  g.used && p.state == .frozen && (p.freezer == .stop || (p.freezer == .ladder && p.rung != 0)) &&
  !(s.groups.any fun x => match x.2.hcap with
    | some h => x.2.used && h.group == k && h.gen == g.placed && decide (p.since ≤ h.given) && h.mask &&& p.mask != 0
    | none => false)

/-- Where a stop goes (R177). -/
def State.route (s : State) (k e : Nat) : State :=
  let g := s.group k
  let p := g.path e
  let c := s.ctx g.ctx
  let sum := g.summary p.mask
  match c.escal with
  | some x => if g.isHandler then s
    else s.updCtx g.ctx fun c => { c with escal := some { x with stops := x.stops ++ [(g.team, g.gid, e, p.mask)] } }
  | none =>
    if sum = 15 then
      (s.updPath ⟨k, e⟩ fun p => { p with freezer := .debugger }).debugStop k e p.tcode.toNat
    else if bit c.fltcfg 0 then s.climb k e 4
    else if sum = 12 && (c.handler 12).isNone then s.post .poisonContainment { a := k, b := e }
    else match s.handlerFor k e with
      | some kernel => s.spawnFor (s.capFor k e) kernel
      | none =>
        if sum = 14 && c.attached then
          (s.updPath ⟨k, e⟩ fun p => { p with freezer := .debugger }).debugStop k e 0xFF
        else s.escalate g.ctx (some (s.capFor k e)) none 4

/-- Detached events of the lanes that a stop's handler would act for are unperformed, which come before the handler's (R138). -/
def State.stopTrails (s : State) (x : Nat × Nat) : Bool :=
  let g := s.group x.1
  s.trailingLanes x.1 (if bit (s.ctx g.ctx).fltcfg 0 then g.live else (g.path x.2).mask)

/-- The waiting stop that leaves the pending queue of a core next, where one can (R183): one that needs no slot any more; where no slot
can free by itself, the newest in a handler; else the first, those in handlers before the others. -/
def State.nextPending (s : State) (c : Nat) : Option (Nat × Nat) :=
  let q := (s.core c).pending
  let nested := q.filter fun x => (s.group x.1).isHandler
  let first := q.filter fun x => !(s.group x.1).isHandler
  match q.find? fun x => !(s.isStop x.1 x.2 && s.needsSlot x.1 x.2) with
  | some x => some x
  | none =>
    if s.poolStuck c then nested.getLast?
    else if (List.range 4).any fun i => !(s.group (handlerKey c i)).used then
      ((nested ++ first).head?).filter fun x => !s.stopTrails x
    else none

/-- One stop leaves the queue and is routed. -/
def State.routeNext (s : State) (x : Nat × Nat) : State :=
  let t := s.dequeueStop x.1 x.2
  if t.isStop x.1 x.2 then t.route x.1 x.2 else t

/-- HANDLER_SPAWN: group, path. A stop that has a handler passes through the pending queue, which stops leave in their order (R183). -/
def execHandlerSpawn (s : State) : Res :=
  let (k, e) := (s.ev.a, s.ev.b)
  if !s.isStop k e || !s.needsSlot k e then .next (s.routeNext (k, e))
  else
    let t := (if bit (s.ctx (s.group k).ctx).fltcfg 0 then s.freezeRung k e else s).enqueueStop k e
    .next (match t.nextPending (coreOf k) with
    | some x => t.routeNext x
    | none => t)

/-! The end of a handler, and time-outs. -/

/-- A handler whose last lane has exited ends (R181): lanes of its capability still frozen escalate. -/
def State.handlerEnds (s : State) (k : Nat) : State :=
  let g := s.group k
  match g.hcap with
  | none => s.freeGroup k
  | some h =>
    let s := s.unrewind k h
    if (s.capValid h && s.stillFrozen h) || s.rungFrozen h then s.escalate g.ctx (some h) (some k) 1 else s.endHandler k

/-- GROUP_RETIRE: group (R287). -/
def execGroupRetire (s : State) : Res :=
  let k := s.ev.a
  let g := s.group k
  if !s.groupSpent k then .next s
  else if g.isHandler then .next (s.handlerEnds k)
  else
    let s := s.freeGroup k
    .next (if s.teamSpent g.team then s.exitTeam g.team else s)

/-- A frozen entry of the set of a rung's handler, the stopped one where it is still frozen. -/
def State.heldEntry (s : State) (h : HCap) : Option (Nat × Nat) :=
  let es := (s.rungGroups h).flatMap fun k => (s.group k).entries.map fun e => (k, e.1)
  ((h.group, h.path) :: es).find? fun x =>
    let p := (s.group x.1).path x.2
    (s.rungGroups h).contains x.1 && p.state == .frozen && (p.freezer == .stop || p.freezer == .ladder) && p.heldSince h.given

/-- RUNG_TIMEOUT: handler group. Its handler is killed with HANDLER-FAULT, those above it with it, and the set widens (R185): the stop
goes on from the next rung. -/
def execRungTimeout (s : State) : Res :=
  let k := s.ev.a
  let g := s.group k
  match g.hcap with
  | none => .next s
  | some h =>
    let t := fld (s.ctx g.ctx).fltcfg (7 + 6 * h.rung) (2 + 6 * h.rung)
    if h.rung > 3 || t = 0 || clocks h.core h.elapsed < 2 ^ t then .next s
    else match s.heldEntry h with
      | none => .next s
      | some (j, e) =>
        let s := (s.withNested 8 [k]).foldl State.endHandler s
        let s := s.updPath ⟨j, e⟩ fun p => { p with rung := h.rung + 1 }
        if ((s.ctx g.ctx).rungFrom (h.rung + 1)).isNone then .next (s.climb j e 2)
        else .next ((s.freezeRung j e).post .handlerSpawn { a := j, b := e })

/-- A context is killed (R184, R264): its teams that have not exited fail, saved or resident; its stops and deposits are
discarded, affected grids have no cluster left to place, and a suspension ends. The number of teams marked failed. -/
def State.killCtx (s : State) (ctx : Nat) : State × Nat :=
  let live := (s.teams.filter fun e => e.2.ctx == ctx && (e.2.onCore || e.2.stage == .saved)).map (·.1)
  let s := live.foldl State.failTeam s
  let s := { s with groups := s.groups.filter fun e => !(e.2.used && e.2.ctx == ctx) }
  let pending := s.grids.filter fun e => e.2.ctx == ctx && !e.2.complete &&
    (e.2.next > 0 || !e.2.passed.isEmpty || !e.2.returned.isEmpty)
  let (s, n) := pending.foldl (fun (x : State × Nat) e =>
    let (gk, g) := e
    let whole := g.passed ++ (List.range (g.packet.clusters - g.next)).map (· + g.next)
    let left := whole.map (fun c => (c, g.packet.positions)) ++ g.returned
    let started := g.exited + g.failed > 0 || !g.returned.isEmpty || s.teams.any fun t => t.2.grid == gk && t.2.stage != .none
    if !started then x
    else
      let s := left.foldl (fun s c => c.2.foldl (fun (s : State) pos =>
        let (tx, ty, tz) := g.packet.teamAt c.1 pos
        s.setFailed g (g.packet.index tx ty tz)) s) x.1
      let m := left.foldl (fun n c => n + c.2.length) 0
      let s := s.updGrid gk fun g => { g with failed := g.failed + m, next := g.packet.clusters, passed := [], returned := [] }
      (s.leaveHead g.queue gk, x.2 + m)) (s, live.length)
  let ended (x : Saving) : Saving := { x with waiting := [] }
  (s.updCtx ctx fun c => { c with escal := none, saving := (c.saving.filter (·.mailbox)).map ended, suspended := false, images := [], rstep := none, homing := [],
                                  resuming := [] }, n)

/-- ESCALATION_TIMEOUT: context. No answer within 2^T4 cycles, 2^32 where T4 is 0, kills the context (R184, R185). -/
def execEscalationTimeout (s : State) : Res :=
  let ctx := s.ev.a
  match (s.ctx ctx).escal with
  | none => .next s
  | some x =>
    let t4 := fld (s.ctx ctx).fltcfg 31 26
    if clocks 96 x.elapsed ≥ 2 ^ (if t4 = 0 then 32 else t4) then .next (s.killCtx ctx).1 else .next s

/-- The stopped lanes of an answered escalation resume where their team stands on a core (R184). -/
def State.resumeStops (s : State) (stops : List (Nat × Nat × Nat × BitVec 32)) : State :=
  stops.foldl (fun s x =>
    match (s.teamGroups x.1).find? fun k => (s.group k).gid == x.2.1 with
    | some k => s.updGroup k fun g => g.resumeLanes x.2.2.2 s.clock s.clock
    | none => s) s

/-- One saved team of an answered escalation is placed again where a core fits it, and its stopped lanes resume. -/
def State.placeSaved (s : State) (ctx team : Nat) : State :=
  let done (s : State) : State :=
    let s := s.resumeStops ((s.ctx ctx).resuming.filter fun x => x.1 == team)
    s.updCtx ctx fun c => { c with homing := c.homing.filter (· != team), resuming := c.resuming.filter fun x => x.1 != team }
  if (s.team team).stage ≠ .saved then done s
  else match (s.ctx ctx).images.find? (·.key == team) with
    | none => done s
    | some im => match s.restoreSaved im with
      | some s => done s
      | none => s

/-- Saved teams of a context are placed again as cores fit them (R184). -/
def State.placeHoming (s : State) (ctx : Nat) : State :=
  if (s.ctx ctx).escal.isSome || (s.ctx ctx).suspended then s else (s.ctx ctx).homing.foldl (fun s t => s.placeSaved ctx t) s

/-- The host answers an escalation with restore: paths return to what they did, saved teams are placed, the escalated lanes re-execute,
and stops in handlers are routed afresh (R184). -/
def State.answerRestore (s : State) (ctx : Nat) : State :=
  match (s.ctx ctx).escal with
  | none => s
  | some x =>
    let s := s.unsuspend (s.ctxGroups ctx) .management
    let s := s.resumeStops x.stops
    let s := (s.ctxGroups ctx).foldl (fun (s : State) k =>
      if (s.group k).isHandler then (s.group k).entries.foldl (fun (s : State) e =>
        if s.isStop k e.1 then s.post .handlerSpawn { a := k, b := e.1 } else s) s
      else s) s
    let s := s.updCtx ctx fun c => { c with escal := none, saving := c.saving.filter (·.mailbox),
                                            resuming := c.resuming ++ x.stops.filter fun y => c.homing.contains y.1 }
    s.placeHoming ctx

end Sys2Proof.Machine
end

