-- ==== Sys2Proof/Machine/Frozen.lean ====
section
/-! DEFINITION. The frozen-state instructions of a handler: FRD and FWR (R180, R243, R291), FRESUME and FKILL (R181, R292), FSTEP
and the end of a step (R293), ESCALATE (R294). -/

namespace Sys2Proof.Machine

/-! FRD and FWR. -/

/-- The classes that act lane by lane (R180). -/
def laneClass (c : Nat) : Bool := c == 0 || c == 2 || c == 7 || c == 8

/-- Class and index (R243), and below the frozen window for class 0 (R291). -/
def frIndexOk (cls idx window : Nat) : Bool :=
  match cls with
  | 0 => idx < 128 && idx < window
  | 1 => idx < 128
  | 3 => idx ≤ 1
  | 6 => idx ≤ 11
  | 7 => idx ≤ 17
  | 2 | 4 | 5 | 8 => idx == 0
  | _ => false

/-- The handler's register for a class (R243). -/
def frRegOk (g : Group) (d : BitVec 8) (cls : Nat) : Bool :=
  match cls with
  | 0 | 2 | 7 => isV g d
  | 8 => isVPair g d
  | 1 | 4 | 5 | 6 => isS d
  | 3 => isSPair d
  | _ => false

/-- Bits [54:2] alone, as PC and CLHDR hold (R30). -/
def pcOk (x : DWord) : Bool := fld x 63 55 == 0 && fld x 1 0 == 0

/-- Lane predicates as one byte, p0 true. -/
def Lane.predByte (ln : Lane) : Word := (ln.p ||| 1#8).setWidth 32

/-- A value that FWR turns away (R180, R186, R291). -/
def fwrBad (cls : Nat) (g : Group) (d : BitVec 8) (e : Path) (ln : Lane) : Bool :=
  match cls with
  | 3 => !pcOk (g.spair (sNum d))
  | 4 => let x : BitVec 32 := g.sreg (sNum d); x == 0 || x &&& ~~~e.mask != 0
  | 5 => !modeLegal (g.sreg (sNum d))
  | 7 => ln.reg d.toNat != 1 && ln.reg d.toNat != 2
  | _ => false

/-- What both instructions check, for a handler with capability `h` over group `f`; whether it is valid is given. -/
def frChecks (write valid : Bool) (d : BitVec 8) (cls idx : Nat) (g : Group) (h : HCap) (f : Group) : Checks :=
  let n := if cls = 3 ∨ cls = 8 then 2 else 1
  let e := f.path h.path
  { field := frIndexOk cls idx f.window && frRegOk g d cls && !(write && (cls == 6 || cls == 8)),
    uses := if write then readsRun d n else writesRun d n,
    late := fun _ ln =>
      if !valid || (3 ≤ cls && cls ≤ 5 && (e.state != .frozen || !e.heldSince h.given)) then some .handlerFault
      else if write && fwrBad cls g d e ln then some .illegalOperand else none }

/-- The cause that lanes with these causes give an unguarded word: the first in the order of the checks (R64). -/
def firstCause (xs : List Cause) : Option Cause := [Cause.hazard, .poison, .handlerFault, .illegalOperand].find? xs.contains

/-- The shared course of FRD and FWR: a lane class acts in active handler lanes that lie in MASK and are still frozen, and skips the others;
the other classes act once. A cause strikes every lane (R64); `waits` holds the path (R291). -/
def frozenOp (write : Bool) (d a b : BitVec 8) (waits : Group → List Nat → Bool)
    (lane : Group → Group → Nat → State → PathRef → HCap → State) (whole : Group → Group → State → PathRef → HCap → State)
    (s : State) : Res :=
  issuing s fun r g p =>
    match g.hcap with
    | none => s.stopAll r p .illegalOperand
    | some h =>
      let cls := a.toNat
      let f := s.group h.group
      let valid := s.capValid h && s.holdsGroup h
      let chk := frChecks write valid d cls b.toNat g h f
      if !chk.field then s.stopAll r p .illegalOperand
      else if laneClass cls then
        let gone := if valid then [] else [Cause.handlerFault]
        let held := if s.holdsGroup h then h.mask &&& f.frozenLanes h.given else 0
        let ok := (g.applied p).filter fun l => bit held l
        match firstCause (gone ++ ok.filterMap fun l => chk.guardedCause g p l) with
        | some x => s.stopAll r p x
        | none =>
          if waits f ok then s.hold r 31 else conclude r [] true (fun s => ok.foldl (fun s l => lane g f l s r h) s) s
      else
        match chk.cause g 0 {} with
        | some x => s.stopAll r p x
        | none => if waits f [] then s.hold r 31 else conclude r [] true (fun s => whole g f s r h) s

/-- FRD xD, class, index: reads frozen state; a poison mark goes with a register's value (R191). -/
def execFrd (d a b : BitVec 8) (s : State) : Res :=
  let i := b.toNat
  frozenOp false d a b
    (fun f ls => match a.toNat with
      | 0 => ls.any fun l => bit (f.lane l).vPend i
      | 1 => bit f.sPend i
      | _ => false)
    (fun _ f l s r _ =>
      let x := f.lane l
      s.onLanes r.group [l] fun _ ln => match a.toNat with
        | 0 => ln.setReg d.toNat (x.reg i) (bit x.vPoison i)
        | 2 => ln.setReg d.toNat x.predByte
        | 7 => ln.setReg d.toNat ((tget 0 x.marks i).setWidth 32)
        | _ => ln.setPair d.toNat x.faultAddr)
    (fun _ f s r h =>
      let e := f.path h.path
      s.updGroup r.group fun g => match a.toNat with
        | 1 => g.setSreg (sNum d) (f.sreg i) (bit f.sPoison i)
        | 3 => g.setSpair (sNum d) (if i = 0 then e.pc else e.clhdr)
        | 4 => g.setSreg (sNum d) e.mask
        | 5 => g.setSreg (sNum d) e.mode
        | _ => g.setSreg (sNum d) ((f.flag i).setWidth 32)) s

/-- Lanes of a FROZEN entry other than `keep` take a FROZEN entry of their own (R180). -/
def Group.shed (g : Group) (i : Nat) (keep : BitVec 32) : Group :=
  let p := g.path i
  let out := p.mask &&& ~~~keep
  if out = 0 then g else (g.setPath i { p with mask := p.mask &&& keep }).setPath g.emptyEntry { p with mask := out }

/-- The frozen entry takes a PC or a CLHDR; its clause is checked again when it resumes (R53). -/
def Path.movedTo (p : Path) (i : Nat) (x : DWord) : Path :=
  let p := { p with clause := none, wait := .nothing }
  if i = 0 then { p with pc := x } else { p with clhdr := x }

/-- FWR: writes frozen state. A register that is written loses its pending and poison bits, and a write still in flight for it
lands without changing it (R291). -/
def execFwr (d a b : BitVec 8) (s : State) : Res :=
  let i := b.toNat
  frozenOp true d a b (fun _ _ => false)
    (fun g _ l s _ h =>
      let v := (g.lane l).reg d.toNat
      match a.toNat with
      | 0 => (s.disown h.group [.vreg l i 0 false]).onLanes h.group [l] fun _ ln =>
          { ln.setReg i v with vPend := setBit ln.vPend i false }
      | 2 => (s.disown h.group ((List.range 7).map fun n => .pred l (n + 1) false false)).onLanes h.group [l] fun _ ln =>
          { ln with p := v.setWidth 8 ||| 1#8, pPend := 0, pPoison := 0 }
      | _ => s.onLanes h.group [l] fun _ ln => { ln with marks := tset 0 ln.marks i (v.setWidth 2) })
    (fun g _ s _ h =>
      let v := g.sreg (sNum d)
      match a.toNat with
      | 1 => (s.disown h.group [.sreg i 0 false]).updGroup h.group fun f =>
          { f.setSreg i v with sPend := setBit f.sPend i false }
      | 3 => s.updPath ⟨h.group, h.path⟩ fun e => e.movedTo i (g.spair (sNum d))
      | 4 => s.updGroup h.group fun f => f.shed h.path v
      | _ => s.updPath ⟨h.group, h.path⟩ fun e => { e with mode := v }) s

/-! FRESUME and FKILL. -/

/-- Every lane the capability names: MASK, and with WIDE the whole frozen set. -/
def State.named (s : State) (h : HCap) : BitVec 32 := (s.reach h).foldl (fun m e => m ||| e.2) h.mask

/-- FRESUME and FKILL: lanes named that the capability does not reach make it a HANDLER-FAULT; those no longer frozen are
ignored (R292). -/
def reachOp (a : BitVec 8) (act : HCap → Group → BitVec 32 → Nat → Group) (s : State) : Res :=
  issuing s fun r g p =>
    let m : BitVec 32 := g.sreg (sNum a)
    let chk : Checks :=
      { field := isS a && g.isHandler, uses := readsRun a 1,
        late := fun _ _ => match g.hcap with
          | some h => if !s.capValid h || m &&& ~~~(s.named h) != 0 then some .handlerFault else none
          | none => none }
    match chk.cause g 0 {}, g.hcap with
    | some x, _ => s.stopAll r p x
    | none, none => s.stopAll r p .illegalOperand
    | none, some h => conclude r [] true (fun s =>
        (s.reach h).foldl (fun (s : State) e => s.updGroup e.1 fun f => act h f (m &&& e.2 &&& f.frozenLanes h.given) s.clock) s) s

/-- FRESUME (R181, R292). -/
def execFresume (a : BitVec 8) (s : State) : Res := reachOp a (fun h f m now => f.resumeLanes m h.given now) s

/-- FKILL (R181, R292): the lanes exit; their operations still complete. -/
def execFkill (a : BitVec 8) (s : State) : Res := reachOp a (fun _ f m _ => f.exitLanes m) s

/-! FSTEP. -/

/-- The FROZEN entry, in the reach of a capability given at a clock, that holds all of the lanes. -/
def Group.frozenEntry (g : Group) (m : BitVec 32) (given : Nat) : Option Nat :=
  (g.entries.find? fun e => e.2.state == .frozen && e.2.heldSince given && m &&& ~~~e.2.mask == 0).map (·.1)

/-- Lanes of a FROZEN entry are stepped: they take an entry of their own where they are some of its lanes (R293), and the entry
executes from its checks; a path parked in MWAIT wakes (R310). -/
def Group.beginStep (g : Group) (i : Nat) (m : BitVec 32) (who : Freezer) : Group :=
  let p := g.path i
  let q := match p.wait with | .monitor _ => p.advance | _ => p
  let g := (lanesOf m).foldl (fun g l => g.updLane l fun ln => { ln with cause := none, faultAddr := 0 }) g
  let run := { q with mask := m, state := .stepping, freezer := who, before := .empty, wait := .nothing, warg := 0,
                      clause := none, tcode := 0, held := 0, retry := false, wants := [] }
  if m = p.mask then g.setPath i run
  else (g.setPath i { p with mask := p.mask &&& ~~~m }).setPath g.emptyEntry run

/-- FSTEP: the handler waits until the step is complete (R293). -/
def execFstep (a : BitVec 8) (s : State) : Res :=
  issuing s fun r g p =>
    let m : BitVec 32 := g.sreg (sNum a)
    let chk : Checks :=
      { field := isS a && g.isHandler, uses := readsRun a 1,
        late := fun _ _ => match g.hcap with
          | some h =>
            if !s.capValid h || m &&& ~~~h.mask != 0 then some .handlerFault
            else if m == 0 || ((s.group h.group).frozenEntry m h.given).isNone then some .illegalOperand else none
          | none => none }
    match chk.cause g 0 {}, g.hcap with
    | some x, _ => s.stopAll r p x
    | none, none => s.stopAll r p .illegalOperand
    | none, some h =>
      match (s.group h.group).frozenEntry m h.given with
      | none => s.stopAll r p .illegalOperand
      | some e =>
        let s := s.updGroup h.group fun f => f.beginStep e m .stop
        conclude r [] true (fun s => s) s (after := fun q => q.park .flagwait (.fstep m))

/-- A stepped entry freezes with cause STEP (R181, R209). -/
def Group.endStep (g : Group) (i : Nat) : Group :=
  let p := g.path i
  let g := (lanesOf p.mask).foldl (fun g l => g.updLane l fun ln => { ln with cause := some .step, faultAddr := 0 }) g
  g.setPath i { p with state := .frozen, rung := 0, held := 0, retry := false, wants := [], wait := match p.wait with | .monitor ls => .monitor ls | _ => .nothing }

/-- Some entry of the group that holds one of the lanes is being stepped. -/
def Group.stepping (g : Group) (m : BitVec 32) : Bool := g.entries.any fun e => e.2.state == .stepping && e.2.mask &&& m != 0

/-- The capability after a step of the lanes (R293): PATH is the entry of the lowest stepped lane, and the codes are the new
ones. -/
def HCap.stepped (h : HCap) (f : Group) (m : BitVec 32) : HCap :=
  let live := f.live &&& m
  let low := (lanesOf live).head?
  let e := low.bind fun l => (f.entries.find? fun e => bit e.2.mask l).map (·.1)
  let sum := f.summary live
  let causes := (lanesOf m).foldl (fun (t : Tbl (BitVec 8)) l =>
    tset 0 t l (BitVec.ofNat 8 (if bit live l then causeCode (f.lane l).cause else 0))) h.causes
  let path := e.getD h.path
  { h with path := path, causes := causes, summary := if sum = 0 then h.summary else sum,
           map := causes.any fun c => c.2 == 8,
           tcode := if causes.any fun c => c.2 == 13 || c.2 == 14 then (f.path path).tcode else 0 }

/-- The path behind an FSTEP that is complete. -/
def Path.stepDone (p : Path) (now : Nat) : Path :=
  match p.state with
  | .flagwait => p.release now
  | .frozen => { p.advance with wait := .nothing, before := .ready }
  | _ => { p.advance with wait := .stepped }

/-- The paths that wait for a step of group `k` go on once it is complete. -/
def State.finishSteps (s : State) (k : Nat) : State :=
  s.groups.foldl (fun (s : State) x =>
    match x.2.hcap with
    | none => s
    | some h =>
      if h.group != k then s
      else (s.group x.1).entries.foldl (fun (s : State) e =>
        match e.2.wait with
        | .fstep m =>
          if s.holdsGroup h && (s.group k).stepping m then s
          else
            let f := if s.holdsGroup h then s.group k else {}
            let now := s.clock
            s.updGroup x.1 fun g =>
              let g : Group := { g with hcap := g.hcap.map fun (h : HCap) => h.stepped f m }
              g.updPath e.1 (·.stepDone now)
        | _ => s) s) s

/-- The step of an entry is over: it freezes, the debugger is told where it was stepping (R209), and a waiting handler goes on. -/
def State.stepOver (s : State) (k i : Nat) : State :=
  let dbg := ((s.group k).path i).freezer == .debugger
  let s := s.updGroup k fun g => g.endStep i
  (if dbg then s.debugStop k i 0xFF else s).finishSteps k

/-! ESCALATE. -/

/-- ESCALATE (R294): the handler ends and the stop goes to the management core, whatever VALID holds. -/
def execEscalate (s : State) : Res :=
  issuing s fun r g p =>
    match g.hcap with
    | none => s.stopAll r p .illegalOperand
    | some h => s.escalate g.ctx (some h) (some r.group) 1

end Sys2Proof.Machine
end

