-- ==== Sys2Proof/Machine/Barriers.lean ====
section
/-! DEFINITION. How parked paths go on: flags (R57), REGANG (R35), TSYNC, the named barriers and CSYNC (R186, R239, R283, R311, R345),
BWAIT (R278), and the regrouping of COMPACT (R36). -/

namespace Sys2Proof.Machine

/-! Barriers by index (R180): 0 TSYNC, 1 to 16 NBAR, 17 CSYNC. -/

/-- The barrier at which a path waits. -/
def Path.atBarrier (p : Path) : Option Nat :=
  match p.state, p.wait with
  | .barwait, .tsync => some 0
  | .barwait, .nbar k => some (k + 1)
  | .barwait, .csync => some 17
  | _, _ => none

/-- Live lanes whose mark for a barrier is `v`. -/
def Group.marked (g : Group) (b : Nat) (v : BitVec 2) : BitVec 32 :=
  maskOf ((lanesOf g.live).filter fun l => tget 0 (g.lane l).marks b == v)

/-- Lanes that stand at a barrier. -/
def Group.standing (g : Group) (b : Nat) : BitVec 32 :=
  g.entries.foldl (fun m e => if e.2.atBarrier = some b then m ||| e.2.mask else m) 0#32

/-- Lanes that have arrived (R186): those that stand there, and those a handler marked. -/
def Group.arrived (g : Group) (b : Nat) : BitVec 32 := (g.standing b &&& ~~~g.marked b 2#2) ||| g.marked b 1#2

/-- Live lanes that have not arrived and are not withdrawn. -/
def Group.missing (g : Group) (b : Nat) : BitVec 32 := g.live &&& ~~~g.arrived b &&& ~~~g.marked b 2#2

/-- The phase of a barrier is complete: some lane of the groups `ws` waits there, and none of the participants `ks` is missing. -/
def State.phaseDone (s : State) (ws ks : List Nat) (b : Nat) : Bool :=
  (ws.any fun k => (s.group k).arrived b ||| (s.group k).standing b != 0) && ks.all fun k => (s.group k).missing b == 0

/-- The paths of a phase go on, and its marks end; lanes withdrawn and resumed since rejoin (R186). A path stays whose lanes had all
arrived by their marks, or were withdrawn: it stands there for the next phase. -/
def Group.leaveBarrier (g : Group) (b now : Nat) : Group :=
  let out := g.marked b 1#2 ||| g.marked b 2#2
  let frozen := g.entries.foldl (fun m e => if e.2.state = .frozen then m ||| e.2.mask else m) 0#32
  let g := g.entries.foldl (fun g e =>
    if e.2.atBarrier = some b ∧ e.2.mask &&& ~~~out ≠ 0 then g.setPath e.1 (e.2.release now) else g) g
  { g with lanes := g.lanes.map fun (e : Nat × Lane) =>
      if bit frozen e.1 && tget 0 e.2.marks b == 2#2 then e else (e.1, { e.2 with marks := tset 0 e.2.marks b 0 }) }

/-- Groups whose ROLE the mask of a named barrier holds (R311). -/
def State.nbarGroups (s : State) (team k : Nat) : List Nat :=
  (s.teamGroups team).filter fun x => bit (tget 0#8 (s.team team).nbarMask k) (s.group x).role.toNat

/-- Teams of a cluster that have started. -/
def State.clusterTeams (s : State) (team : Nat) : List Nat :=
  (s.teams.filter fun e => e.2.stage == .started && e.2.sameCluster (s.team team)).map (·.1)

/-- A team of the cluster is off its core and has not exited. -/
def State.clusterAway (s : State) (team : Nat) : Bool :=
  s.teams.any fun e => (e.2.stage == .placed || e.2.stage == .saved) && e.2.sameCluster (s.team team)

/-- Participants of the barrier at which a path of group `k` waits; a handler waits for its own lanes alone. -/
def State.participants (s : State) (k b : Nat) : List Nat :=
  let g := s.group k
  if g.isHandler then [k]
  else match b with
    | 0 => s.teamGroups g.team
    | 17 => (s.clusterTeams g.team).flatMap s.teamGroups
    | n + 1 => s.nbarGroups g.team n

/-- The groups whose paths may wait at the barrier: at a named one any of the team's, since a ROLE may be written behind an arrival
(R311). -/
def State.waiters (s : State) (k b : Nat) : List Nat :=
  let g := s.group k
  if g.isHandler || b == 0 || b == 17 then s.participants k b else s.teamGroups g.team

/-- One barrier is tested for the groups that share it; the paths that leave it go on behind what each of them has seen (R138). A named
barrier whose phase leaves nobody standing for the next forgets its mask. -/
def State.testBarrier (s : State) (k b : Nat) : State :=
  let g := s.group k
  let ks := s.waiters k b
  if (b = 17 && !g.isHandler && s.clusterAway g.team) || !s.phaseDone ks (s.participants k b) b then s
  else
    let here := ks.flatMap fun x => ((s.group x).entries.filter fun e => e.2.atBarrier == some b).map fun e =>
      (x, (s.group x).placed, e.1)
    let s := ks.foldl (fun (s : State) x => s.updGroup x fun g => g.leaveBarrier b s.clock) (s.mergeSeen here)
    match b with
    | 0 | 17 => s
    | n + 1 =>
      if g.isHandler || ks.any fun x => (s.group x).standing b != 0 then s
      else s.updTeam g.team fun t => { t with nbarMask := terase t.nbarMask n }

/-! REGANG (R35). -/

/-- Entries in state REGANG at one PC. -/
def Group.gang (g : Group) (x : DWord) : Tbl Path := g.entries.filter fun e => e.2.state == .regang && e.2.pc == x

/-- The paths at REGANG at `x` merge where every expected live lane is among them; of their pending release fences the widest stays
(log 3). -/
def Group.regang (g : Group) (x : DWord) (now : Nat) : Group :=
  let es := g.gang x
  let m := es.foldl (fun m e => m ||| e.2.mask) 0#32
  let need := es.foldl (fun m e => m ||| e.2.expected) 0#32 &&& g.live
  match es with
  | [] => g
  | (i, p) :: rest =>
    if need &&& ~~~m ≠ 0 then g
    else
      let low := ((lanesOf m).head?).getD 0
      let first := ((es.find? fun e => bit e.2.mask low).map (·.2)).getD p
      let fence := (es.filterMap (·.2.relFence)).foldl (fun f n => some (max (f.getD 0) n)) none
      let merged := { (p.goto p.following).ready now with mask := m, mode := first.mode, cycleh := first.cycleh, relFence := fence }
      rest.foldl (fun g e => g.setPath e.1 {}) (g.setPath i merged)

/-- Every REGANG of a group is tested. -/
def Group.regangs (g : Group) (now : Nat) : Group :=
  (distinct ((g.entries.filter fun e => e.2.state == .regang).map (·.2.pc))).foldl (fun g x => g.regang x now) g

/-! Flags and barrier objects. -/

/-- Every flag that a WAIT mask names is zero. -/
def Group.flagsZero (g : Group) (mask : Nat) : Bool := (List.range 12).all fun w => mask / 2 ^ w % 2 == 0 || g.flag w == 0

/-- The lowest-numbered named flag that is nonzero. -/
def Group.firstBusy (g : Group) (mask : Nat) : Nat :=
  ((List.range 12).find? fun w => mask / 2 ^ w % 2 == 1 && g.flag w != 0).getD 0

/-- What a path waits for has come: the flag wait of a clause, of WAITF, or the phase of a barrier object. The second says that the
path goes on behind the word at which it stands. -/
def State.waitOver (s : State) (g : Group) (p : Path) : Option Bool :=
  match p.wait with
  | .clauseFlags => if g.flagsZero (hWait p.cl.header) then some false else none
  | .flag w n => if (g.flag w).toNat ≤ n then some true else none
  | .object t off phase => if s.objectWord t off 0 != phase then some true else none
  | _ => none

/-- A path whose wait is over. A stepped path stays STEPPING: behind its instruction, its step is complete; one that still has its word to
issue checks the clause again where it was frozen or off its core meanwhile (R53). -/
def Path.goOn (p : Path) (behind : Bool) (now : Nat) : Path :=
  let q := if behind then p.advance else p
  if p.state = .stepping then
    { q with wait := if behind then .stepped else .nothing, clause := if p.recheck then none else q.clause, recheck := false }
  else q.ready now

/-- What a path that goes on by itself has seen: behind a WAITF what its group's paths have (R142), behind a BWAIT all (R138, log 3). -/
def State.seeWait (s : State) (r : PathRef) (w : Wait) : State :=
  match w with
  | .flag .. => s.seeFlag r.group
  | .object .. => s.seeAll r
  | _ => s

/-- A path in YIELDED whose flag reads 0 is due to resume, whatever the flag does then; its age is the clock at which it first did (R354). -/
def Path.unyield (p : Path) (now : Nat) : Path :=
  if p.state = .yielded ∧ p.wait = .yield then { p with wait := .nothing, age := readyAge now } else p

/-- Whether the path waits on a flag or an object and may go on by itself. -/
def Path.waits (p : Path) : Bool := p.state == .flagwait || p.state == .barwait || p.state == .stepping

/-- Paths of a group whose wait is over go on; the WAIT mask of a clause is tested where the flags alone decide it, and WARG names the
lowest flag that it still waits for (R57). -/
def State.testWaits (s : State) (k : Nat) : State :=
  (s.group k).entries.foldl (fun (s : State) e =>
    match (if e.2.waits then s.waitOver (s.group k) e.2 else none) with
    | some behind => (s.seeWait ⟨k, e.1⟩ e.2.wait).updGroup k fun g => g.updPath e.1 (·.goOn behind s.clock)
    | none =>
      if e.2.state = .yielded ∧ (s.group k).flag e.2.warg.toNat = 0 then s.updGroup k fun g => g.updPath e.1 (·.unyield s.clock)
      else if e.2.state = .flagwait ∧ e.2.wait = .clauseFlags then
        s.updGroup k fun g => g.updPath e.1 fun p => { p with warg := BitVec.ofNat 4 (g.firstBusy (hWait p.cl.header)) }
      else s) s

/-! COMPACT (R36). -/

/-- Every live lane of the team stands at a COMPACT and every flag of its groups is zero; untracked work ends before lanes move (log
60). -/
def State.compactReady (s : State) (team : Nat) : Bool :=
  let ks := s.teamGroups team
  (s.team team).stage == .started && !s.trailing team && ks.any (fun k => (s.group k).live != 0) &&
  ks.all fun k =>
    let g := s.group k
    g.entries.all (fun e => e.2.state == .barwait && e.2.wait == .compact) && g.w.all fun e => e.2 == 0

/-- A slice of four virtual lanes: where it stands, its group's number, its own, and its group's key. -/
structure Slice where
  pc  : DWord
  gid : Nat
  k   : Nat
  key : Nat
  deriving DecidableEq, Repr

/-- PCs at which the live lanes of slice `k` stand. -/
def Group.slicePcs (g : Group) (k : Nat) : List DWord :=
  distinct ((g.entries.filter fun e => e.2.mask &&& (0xF#32 <<< (4 * k)) != 0).map (·.2.pc))

/-- A group with a slice whose live lanes stand at more than one PC stays unchanged. -/
def Group.mixed (g : Group) : Bool := (List.range 8).any fun k => (g.slicePcs k).length > 1

/-- Order of slices: PC, old GROUPID, old virtual slice. -/
def Slice.le (a b : Slice) : Bool :=
  if a.pc != b.pc then a.pc < b.pc else if a.gid != b.gid then a.gid < b.gid else a.k ≤ b.k

/-- A slice takes its place in an ordered list. -/
def Slice.insert (x : Slice) : List Slice → List Slice
  | [] => [x]
  | y :: ys => if x.le y then x :: y :: ys else y :: x.insert ys

/-- Ordered slices with a live lane of some groups. -/
def State.slices (s : State) (ks : List Nat) : List Slice :=
  (ks.flatMap fun key =>
    (List.range 8).filterMap fun k =>
      ((s.group key).slicePcs k).head?.map fun pc => ({ pc := pc, gid := (s.group key).gid, k := k, key := key } : Slice)).foldr
    Slice.insert []

/-- The ordered slices cut into runs: a run ends after eight, or where the PC changes. -/
def cutRuns : List Slice → List Slice → List (List Slice)
  | [], run => if run.isEmpty then [] else [run]
  | x :: xs, run =>
    match run.head? with
    | some y => if run.length < 8 && y.pc == x.pc then cutRuns xs (run ++ [x]) else run :: cutRuns xs [x]
    | none => cutRuns xs [x]

/-- Uniform state of a resulting group: registers, predicates, ROLE and priority of the lowest participating group, and with them its key
slots (R100) and LFLAGS (R303). -/
def Group.takeUniform (g low : Group) : Group :=
  { g with s := low.s, sPend := low.sPend, sPoison := low.sPoison, q := low.q, role := low.role, prio := low.prio, seed := low.seed,
           stream := low.stream, lflags := low.lflags }

/-- A resulting group: its slices in order, one path at the clause behind the COMPACT, with the widest of the pending release fences
(log 3). -/
def State.formGroup (s : State) (g low : Group) (run : List Slice) : Group :=
  let moved := (run.zipIdx).flatMap fun e => (List.range 4).map fun j => (4 * e.2 + j, e.1.key, 4 * e.1.k + j)
  let live := maskOf ((moved.filter fun m => bit (s.group m.2.1).live m.2.2).map (·.1))
  let from_ (v : Nat) : Option Path :=
    (moved.find? fun m => m.1 == v).bind fun m => ((s.group m.2.1).entries.find? fun e => bit e.2.mask m.2.2).map (·.2)
  let p := (((lanesOf live).head?).bind from_).getD {}
  let fence := (moved.filterMap fun m => ((from_ m.1).bind (·.relFence))).foldl (fun f n => some (max (f.getD 0) n)) none
  { g.takeUniform low with
    lanes := moved.map fun m => (m.1, (s.group m.2.1).lane m.2.2),
    remap := (List.range 32).map fun v => match moved.find? fun m => m.1 == v with
      | some m => (s.group m.2.1).remap.getD m.2.2 0
      | none => g.remap.getD v 0,
    w := [], latch := none,
    paths := [(0, { (p.goto p.following).ready s.clock with mask := live, cycleh := 0, relFence := fence })] }

/-- Regrouping of the groups `ks` of one partition and one window; `low` is the lowest participating group of the partition. Where
the PCs ask for more groups than there are, the groups stay unchanged. -/
def State.regroup (s : State) (ks : List Nat) (low : Group) : State :=
  let runs := cutRuns (s.slices ks) []
  if runs.length > ks.length then s
  else
    let s' := (ks.zip runs).foldl (fun (t : State) e => t.setGroup e.1 (s.formGroup (s.group e.1) low e.2)) s
    (ks.drop runs.length).foldl State.freeGroup s'

/-- Group keys in ascending GROUPID. -/
def State.byGid (s : State) (ks : List Nat) : List Nat :=
  (List.range 16).flatMap fun i => ks.filter fun k => (s.group k).gid == i

/-- COMPACT_RELEASE: team. Each partition regroups its groups of one window size that have a live lane; every other path goes on, and CYCLEH is 0
in all of them (R36, R325). -/
def execCompactRelease (s : State) : Res :=
  let team := s.ev.a
  if !s.compactReady team then .next s
  else
    let ks := s.teamGroups team
    let s := (List.range 4).foldl (fun (s : State) part =>
      let G := s.byGid (ks.filter fun k => partOf k == part && (s.group k).live != 0 && !(s.group k).mixed)
      match G with
      | [] => s
      | k0 :: _ =>
        let low := s.group k0
        [16, 32, 48, 64, 80, 96, 112, 128].foldl (fun (s : State) n =>
          s.regroup (G.filter fun k => (s.group k).window == n) low) s) s
    let now := s.clock
    .next ((s.teamGroups team).foldl (fun (s : State) k => s.updGroup k fun g =>
      g.mapPaths fun p => if p.state = .barwait ∧ p.wait = .compact then { p.release now with cycleh := 0 } else p) s)

end Sys2Proof.Machine
end

