-- ==== Sys2Proof/Machine/Windows.lean ====
section
/-! DEFINITION. Register windows (R40 to R43, R317), the Glade (R37, R38, R318), and the events by which single paths go on or stop:
YIELDC (R354), MWAIT (R153), promotion (R44) and the watchdog (R45). -/

namespace Sys2Proof.Machine

/-! REGROW and REGFREE. -/

/-- A window size that REGROW and REGFREE take (R41, R43). -/
def windowCause (n : Word) : Option Cause := if windowOk n.toNat then none else some .illegalOperand

/-- Paths of a group that wait in REGROW or REGFREE: they are served in issue order (R317). -/
def Group.resizing (g : Group) : Tbl Path := g.entries.filter fun e =>
  (e.2.state == .flagwait || e.2.state == .stepping) && (match e.2.wait with | .regrow .. | .regfree _ => true | _ => false)

/-- The path is the first of its group that waits in REGROW or REGFREE. -/
def Group.servesNext (g : Group) (i : Nat) : Bool := ((leastBy (fun e => e.2.age) g.resizing).map (·.1)) == some i

/-- Change the count of units that REGFREE has freed on a group's partition and that its waiting REGROWs may take (R43). -/
def State.keepFreed (s : State) (k : Nat) (f : Nat → Nat) : State :=
  let n := if s.requested (coreOf k) (partOf k) then tget 0 (s.core (coreOf k)).freed (partOf k) else 0
  s.updCore (coreOf k) fun c => { c with freed := tset 0 c.freed (partOf k) (f n) }

/-- REGROW (R41): at once where the window is large enough and no other resizing of the group waits, else in FLAGWAIT; requests are as
old as they are issued. -/
def execRegrow (d : BitVec 3) (a : BitVec 8) (s : State) : Res :=
  controlOp (fun g _ => { field := d != 0 && isS a, uses := readsRun a 1, late := fun _ _ => windowCause (g.sreg (sNum a)) })
    (fun r g _ s =>
      let n := (g.sreg (sNum a)).toNat
      if n ≤ g.window ∧ g.resizing = [] then (s.setGroup r.group (g.setQ d.toNat true)).updPath r Path.advance
      else (s.keepFreed r.group id).updPath r fun p => { p.park .flagwait (.regrow d.toNat n) with age := readyAge s.clock }) s

/-- REGFREE (R43): it waits until no register that it frees is pending, and behind the group's earlier resizings (R317). -/
def execRegfree (a : BitVec 8) (s : State) : Res :=
  controlOp (fun g _ => { field := isS a, uses := readsRun a 1, late := fun _ _ => windowCause (g.sreg (sNum a)) })
    (fun r g _ s =>
      let n := (g.sreg (sNum a)).toNat
      s.updPath r fun p =>
        if n ≥ g.window ∧ g.resizing = [] then p.advance
        else { p.park .flagwait (.regfree n) with age := readyAge s.clock }) s

/-- The waiting requests of a partition, core × 4 + partition, that no earlier resizing of their group precedes: group, path, entry. -/
def State.requests (s : State) (cp : Nat) : List (Nat × Nat × Path) :=
  s.groups.flatMap fun g =>
    if g.2.used && coreOf g.1 * 4 + partOf g.1 == cp then
      (g.2.entries.filter fun e => e.2.request.isSome && g.2.servesNext e.1).map fun e => (g.1, e.1, e.2)
    else []

/-- The oldest waiting request of a partition. -/
def State.oldestRequest (s : State) (cp : Nat) : Option (Nat × Nat × Path) := leastBy (fun e => e.2.2.age) (s.requests cp)

/-- A request is answered: the predicate is written, and the path goes on. -/
def State.answerRequest (s : State) (k i : Nat) (grant : Bool) : State :=
  match ((s.group k).path i).request with
  | none => s
  | some (q, n) =>
    let s := if grant then s.keepFreed k (· - (n - (s.group k).window) / 16) else s
    s.updGroup k fun g =>
      let g := { g.setQ q grant with window := if grant then max g.window n else g.window }
      g.updPath i (·.goOn true s.clock)

/-- The units that a request asks beyond its group's window are free. -/
def State.grantable (s : State) (cp k n : Nat) : Bool :=
  (n - (s.group k).window) / 16 ≤ (s.partFree (cp / 4) (cp % 4)).1

/-- REGROW_GRANT: partition. The oldest request is granted where its units are free (R41). -/
def execRegrowGrant (s : State) : Res :=
  match s.oldestRequest s.ev.a with
  | some (k, i, p) =>
    match p.request with
    | some (_, n) => .next (if s.grantable s.ev.a k n then s.answerRequest k i true else s)
    | none => .next s
  | none => .next s

/-- Groups whose missing participants a path of group `k` waits for at a barrier; none for a wait that is no barrier, as a BWAIT is
(R42, log 63). -/
def State.missingAt (s : State) (k : Nat) (p : Path) : Option (List Nat) :=
  let g := s.group k
  let apart (w : Path → Bool) : List Nat :=
    (s.teamGroups g.team).filter fun x => (s.group x).entries.any fun e => !w e.2
  match p.atBarrier with
  | some b =>
    if b = 17 && s.clusterAway g.team then none
    else some ((s.participants k b).filter fun x => (s.group x).missing b != 0)
  | none =>
    match p.state, p.wait with
    | .barwait, .compact => some (apart fun q => q.state == .barwait && q.wait == .compact)
    | .barwait, .window _ => some (apart fun q => q.windowDest.isSome)
    | _, _ => none

/-- A group is blocked, given the groups taken as blocked (R42). -/
def State.blockedBy (s : State) (set : List Nat) (k : Nat) : Bool :=
  let g := s.group k
  !g.entries.isEmpty && g.entries.all fun e =>
    e.2.request.isSome || (match s.missingAt k e.2 with
      | some ks => ks.all set.contains
      | none => false)

/-- The largest set of groups each of which is blocked by the others. -/
def State.blockedSet (s : State) : Nat → List Nat → List Nat
  | 0, set => set
  | n + 1, set => s.blockedSet n (set.filter (s.blockedBy set))

/-- Keys of the groups on a partition, handlers apart. -/
def State.residents (s : State) (cp : Nat) : List Nat :=
  (s.groups.filter fun g => g.2.used && g.1 < 6144 && g.1 / 16 == cp).map (·.1)

/-- The request that a partition refuses: of the group placed last among those that wait in REGROW, where every resident group is
blocked (R42); of several such requests the oldest, and none of a handler (log 63). -/
def State.refused (s : State) (cp : Nat) : Option (Nat × Nat) :=
  let reqs := (s.requests cp).filter fun e => e.1 < 6144
  let all := (s.groups.filter fun g => g.2.used && g.1 < 6144).map (·.1)
  let blocked := s.blockedSet all.length all
  if reqs.isEmpty || !(s.residents cp).all blocked.contains then none
  else
    let young := reqs.foldl (fun n e => max n (s.group e.1).placed) 0
    (leastBy (fun e => e.2.2.age) (reqs.filter fun e => (s.group e.1).placed == young)).map fun e => (e.1, e.2.1)

/-- REGROW_REFUSAL: partition (R42). -/
def execRegrowRefusal (s : State) : Res :=
  match s.refused s.ev.a with
  | some (k, i) => .next (s.answerRequest k i false)
  | none => .next s

/-- Some lane has a pending register from v`n` up. -/
def Group.pendingFrom (g : Group) (n : Nat) : Bool := g.lanes.any fun e => (e.2.vPend >>> n) != 0

/-- The window shrinks to `n` registers, and the contents beyond are lost (R43). -/
def Group.shrink (g : Group) (n : Nat) : Group :=
  if n ≥ g.window then g
  else { g with window := n, lanes := g.lanes.map fun (e : Nat × Lane) =>
    (e.1, { e.2 with v := e.2.v.filter fun r => r.1 < n, vPoison := e.2.vPoison &&& BitVec.ofNat 128 (2 ^ n - 1) }) }

/-- REGFREE_SHRINK: group, path (R43). -/
def execRegfreeShrink (s : State) : Res :=
  let g := s.group s.ev.a
  let p := g.path s.ev.b
  match p.wait with
  | .regfree n =>
    if (p.state = .flagwait ∨ p.state = .stepping) ∧ g.servesNext s.ev.b ∧ (n ≥ g.window ∨ !g.pendingFrom n) then
      let s := s.keepFreed s.ev.a (· + (g.window - n) / 16)
      .next (s.setGroup s.ev.a ((g.shrink n).updPath s.ev.b (·.goOn true s.clock)))
    else .next s
  | _ => .next s

/-! The Glade. -/

/-- The Glade's room on a core (R37). -/
def State.gladeRoom (s : State) (core : Nat) : Nat := 4096 - (s.core core).glade.length

/-- REORDER (R37, R318): a path whose deposits find no room does not issue; the others wait for the flags of its group. -/
def execReorder (a b : BitVec 8) (s : State) : Res :=
  issuing s fun r g p =>
    let desc := if g.isHandler then none else (s.team g.team).reorder
    let n := (desc.map (·.n)).getD 0
    let c : Checks :=
      { field := desc.isSome && isV g a && isV g b && (n == 0 || b.toNat + n ≤ g.window),
        uses := (readsRun a 1).and (readsRun b n) }
    let applied := g.applied p
    let stops := applied.filterMap fun l => (c.guardedCause g p l).map fun x => ({ lane := l, cause := x } : Stop)
    let ok := applied.filter fun l => (c.guardedCause g p l).isNone
    if ok.length > s.gladeRoom (coreOf r.group) then s.hold r 18
    else conclude r stops true (fun s => s) s
      (after := fun q => if ok.isEmpty then q.advance else q.park .flagwait (.reorder a.toNat b.toNat (maskOf ok)))

/-- The deposits of lanes, in ascending virtual lane. -/
def Group.depositsOf (g : Group) (key base n : Nat) (m : BitVec 32) : List Deposit :=
  (lanesOf m).map fun l =>
    let ln := g.lane l
    { team := g.team, key := ln.reg key, payload := (List.range n).map fun i => ln.reg (base + i), prio := g.prio,
      replay := g.replay }

/-- REORDER_DEPOSIT: group, path (R37). -/
def execReorderDeposit (s : State) : Res :=
  let k := s.ev.a
  let g := s.group k
  let p := g.path s.ev.b
  match p.wait with
  | .reorder key base m =>
    let n := (((s.team g.team).reorder).map (·.n)).getD 0
    let m := m &&& p.mask
    let ds := g.depositsOf key base n m
    if (p.state = .flagwait ∨ p.state = .stepping) ∧ g.w.all (fun e => e.2 == 0) ∧ ds.length ≤ s.gladeRoom (coreOf k) then
      let s := s.updCore (coreOf k) fun c => { c with glade := c.glade ++ ds }
      .next (s.updGroup k fun g => (g.updPath s.ev.b (·.goOn true s.clock)).exitLanes m)
    else .next s
  | _ => .next s

/-- Insertion by key bits [31:16], behind equal keys (R38). -/
def insertDeposit (x : Deposit) : List Deposit → List Deposit
  | [] => [x]
  | y :: ys => if fld y.key 31 16 ≤ fld x.key 31 16 then y :: insertDeposit x ys else x :: y :: ys

/-- Deposits of a team in the order of R38. -/
def State.ordered (s : State) (team : Nat) : List Deposit := (s.deposits team).foldl (fun l x => insertDeposit x l) []

/-- The team has no live lane outside the Glade. -/
def State.noLiveLane (s : State) (team : Nat) : Bool := (s.teamGroups team).all fun k => (s.group k).live == 0

/-- The Glade relaunches a group of the team: 256 deposits or more, no live lane elsewhere, or the rest of those that it held when there
was none (R38). -/
def State.relaunchDue (s : State) (team : Nat) : Bool :=
  let n := (s.deposits team).length
  (s.team team).stage == .started && (n ≥ 256 || (n > 0 && ((s.team team).rest > 0 || s.noLiveLane team)))

/-- Deposits that are due for relaunch beyond those of a full Glade: all where the team has no live lane, else the rest of them. -/
def State.restOf (s : State) (team : Nat) : Nat := if s.noLiveLane team then (s.deposits team).length else (s.team team).rest

/-- Deposits of the next group (R38): 32, or the final ones. -/
def State.batchSize (s : State) (team : Nat) : Nat :=
  if (s.deposits team).length ≥ 256 then 32 else min 32 (s.restOf team)

/-- The partition of a relaunched group, where the core has room. -/
def State.relaunchPart (s : State) (team regs : Nat) : Option Nat :=
  if (s.teamGroups team).length ≥ 16 then none
  else bestPart ((List.range 4).map (s.partRoom (s.team team).core)) (regs / 16)

/-- The relaunched group (R38). -/
def relaunched (ctx team gid now : Nat) (d : Reorder) (batch : List Deposit) : Group :=
  let first : Option Deposit := batch.head?
  { ctx := ctx, team := team, gid := gid, window := d.regs, role := d.role, prio := (first.map (·.prio)).getD 0,
    replay := (first.map (·.replay)).getD false,
    lanes := (batch.zipIdx).map fun e => (e.2, { v := tputAll [] 0 e.1.payload }),
    paths := [(0, { state := .ready, mask := maskOf (List.range batch.length), mode := d.mode, pc := d.entry,
                    clhdr := d.entry, age := readyAge now })] }

/-- Deposits that are taken leave the Glade, each once. -/
def dropDeposits (batch glade : List Deposit) : List Deposit := batch.foldl (fun g x => g.erase x) glade

/-- GLADE_RELAUNCH: team (R38). -/
def execGladeRelaunch (s : State) : Res :=
  let team := s.ev.a
  let t := s.team team
  match t.reorder with
  | none => .next s
  | some d =>
    if !s.relaunchDue team then .next s
    else match s.relaunchPart team d.regs with
      | none => .next s
      | some part =>
        let batch := (s.ordered team).take (s.batchSize team)
        let rest := s.restOf team - batch.length
        let used := (s.teamGroups team).map fun k => (s.group k).gid
        let gid := ((List.range 16).find? fun i => !used.contains i).getD 15
        let s := s.updCore t.core fun c => { c with glade := dropDeposits batch c.glade }
        let s := s.updTeam team fun t => { t with rest := rest }
        .next (s.placeGroup t.core part (relaunched t.ctx team gid s.clock d batch))

/-! Single paths. -/

/-- YIELD_RESUME: group, path. The flag has read 0 (R354). -/
def execYieldResume (s : State) : Res :=
  let g := s.group s.ev.a
  let p := g.path s.ev.b
  .next (if p.state = .yielded ∧ p.wait = .nothing then
    s.setGroup s.ev.a (g.setPath s.ev.b { p.ready s.clock with age := p.age }) else s)

/-- MWAIT_WAKE: group, path. A write to an armed line, or without cause (R153). -/
def execMwaitWake (s : State) : Res :=
  let g := s.group s.ev.a
  let p := g.path s.ev.b
  .next (match p.state, p.wait with
    | .barwait, .monitor _ => s.setGroup s.ev.a (g.setPath s.ev.b (p.release s.clock))
    | _, _ => s)

/-- PATH_PROMOTION: group, path. A READY path that has gone 64 cycles eligible without issuing is promoted (R44). -/
def execPathPromotion (s : State) : Res :=
  let p := (s.group s.ev.a).path s.ev.b
  .next (if p.state = .ready ∧ clocks (coreOf s.ev.a) p.waited ≥ 64
    then s.updPath ⟨s.ev.a, s.ev.b⟩ fun p => { p with promoted := true } else s)

/-- Every live path of the team is FROZEN or STEPPING (R45). A placed team has no path yet. -/
def State.allFrozen (s : State) (team : Nat) : Bool :=
  (s.team team).stage == .started && (s.teamGroups team).all fun k => (s.group k).entries.all fun e => e.2.state == .frozen || e.2.state == .stepping

/-- The watchdog's interval of a resident team has passed (R45, R46, R172). -/
def State.noProgress (s : State) (team : Nat) : Bool :=
  let t := s.team team
  t.onCore && clocks t.core t.idle ≥ 2 ^ fld (s.core t.core).wdog 5 0

/-- WATCHDOG_NOPROGRESS: team. Every path not frozen stops with NOPROGRESS at its PC, and the counter clears (R45); while
the pending queue is full the stop waits (log 64). -/
def execWatchdogNoprogress (s : State) : Res :=
  let team := s.ev.a
  if !s.noProgress team || (s.teamGroups team).any s.pendingFull then .next s
  else
    let s := (s.teamGroups team).foldl (fun (s : State) k =>
      (s.group k).entries.foldl (fun (s : State) e =>
        if e.2.state = .frozen then s
        else s.stop ⟨k, e.1⟩ ((lanesOf e.2.mask).map fun l => { lane := l, cause := .noProgress })) s) s
    .next (s.updTeam team fun t => { t with idle := 0 })

end Sys2Proof.Machine
end

