-- ==== Sys2Proof/Machine/HostRegs.lean ====
section
/-! DEFINITION. The register region (R7, R156, R157, R259, R260, R262), host writes to device and host memory (R113, R270), and the
common part of the mailbox commands (R262 to R264). -/

namespace Sys2Proof.Machine

/-! Host writes to memory. -/

/-- The host reaches device memory through CXL.mem from stage 2 on (R261). -/
def State.cxlMem (s : State) : Bool := s.host.stage ≥ 2

/-- One byte that the host writes to device memory: discarded with SEALW where the frame is sealed (R270). -/
def State.hostByte (s : State) (pa : Nat) (b : Byte) : State :=
  if !s.frameUsable (pa / pageSize) then s
  else if tget false s.sealed (pa / pageSize) then s.updHost fun h => { h with sealw := true }
  else (s.setByte (.dev pa) b).touch (.dev pa)

/-- Bytes from an address upward. -/
def State.hostWrite (s : State) (pa : Nat) : List Byte → State
  | [] => s
  | b :: bs => (s.hostByte pa b).hostWrite (pa + 1) bs

/-- HOST_MEMORY_WRITE: address, bytes. A CXL.mem write (R270); before stage 2 there is none (R261). -/
def execHostMemoryWrite (s : State) : Res := .next (if s.cxlMem then s.hostWrite s.ev.a s.ev.data else s)

/-- HOST_SIDE_COHERENCE: address, bytes. A write to host memory reaches the device, wakes monitors and is visible (R113). -/
def execHostSideCoherence (s : State) : Res :=
  .next ((s.ev.data.zipIdx).foldl (fun (s : State) e =>
    (s.setByte (.host (s.ev.a + e.2)) e.1).touch (.host (s.ev.a + e.2))) s)

/-! The data buffer. -/

/-- The buffer as the command under way found it (R262); what the host writes while a command waits changes nothing for it. -/
def Mgmt.given (h : Mgmt) : Tbl Byte := h.operands.getD h.buffer
/-- Bytes of the data buffer (R259), for the command under way. -/
def Mgmt.buf (h : Mgmt) (off n : Nat) : List Byte := (List.range n).map fun i => tget 0 h.given (off + i)
/-- A number of the buffer, for the command under way. -/
def Mgmt.num (h : Mgmt) (off n : Nat) : Nat := natOfBytes (h.buf off n)
/-- Write the buffer. -/
def Mgmt.setBuf (h : Mgmt) (off : Nat) (bs : List Byte) : Mgmt :=
  { h with buffer := (bs.zipIdx).foldl (fun t e => tset 0 t (off + e.2) e.1) h.buffer }

/-- Every byte of 0 to 63 that no named range (offset, size) covers is zero (R264). -/
def Mgmt.unnamedZero (h : Mgmt) (named : List (Nat × Nat)) : Bool :=
  (List.range 64).all fun i => named.any (fun r => decide (r.1 ≤ i) && decide (i < r.1 + r.2)) || tget 0 h.given i == 0

/-! Mailbox commands. -/

/-- CMD and CTX of MBCMD (R262). -/
def Mgmt.cmd (h : Mgmt) : Nat := fld h.mbcmd 7 0
def Mgmt.cmdCtx (h : Mgmt) : Nat := fld h.mbcmd 31 16

/-- The instruction of a command code (R263, R266); CTXREG by its OP byte. -/
def commandOf (cmd op : Nat) : Option Instr :=
  match cmd with
  | 0 => some .ident | 1 => some .attest | 2 => some .keyset | 3 => some .seal | 4 => some .unseal | 5 => some .signonly
  | 6 => some .event | 7 => some .answer
  | 8 => some (if op = 0 then .ctxregRead else .ctxregWrite)
  | 9 => some .mailboxTlbinv | 10 => some .preempt | 11 => some .restore | 12 => some .pooladd | 13 => some .objregion
  | 14 => some .ctxkill
  | 0x20 => some .attach | 0x21 => some .detach | 0x22 => some .setreg | 0x23 => some .freeze | 0x24 => some .resume
  | 0x25 => some .step | 0x26 => some .rstep | 0x27 => some .boroiviWindow | 0x28 => some .read | 0x29 => some .write
  | 0x2A => some .boroiviRewind | 0x2B => some .memread | 0x2C => some .memwrite
  | _ => none

/-- The command in progress. -/
def Mgmt.command (h : Mgmt) : Option Instr := if h.busy then commandOf h.cmd (h.num 0 1) else none

/-- A command ends with a status, and results where it is done. -/
def State.mbEnd (s : State) (status : Nat) : State :=
  s.updHost fun h => { h with busy := false, status := BitVec.ofNat 8 status, operands := none, tlbAfter := none }
/-- A command that has begun waits: its operands stay what they were. -/
def State.mbWait (s : State) : State := s.updHost fun h => { h with operands := some h.given }
/-- A command is done, with a result from byte `off` of the buffer. -/
def State.mbDone (s : State) (off : Nat) (result : List Byte) : State := (s.updHost fun h => h.setBuf off result).mbEnd 0

/-- Whether a command names a context: 12 bits of it are numbers of contexts. -/
def namesContext (cmd : Nat) : Bool := cmd != 0 && cmd != 6 && cmd != 12

/-- A mailbox command `code` of stage `stage` on: status 2 before it, status 1 where an unnamed byte is not zero or the operands do
not pass; else its effect. Nothing happens where it is not the command in progress (R262 to R264). -/
def mailbox (code : Instr) (stage : Nat) (named : List (Nat × Nat)) (ok : State → Nat → Bool) (eff : State → Nat → State)
    (s : State) : Res :=
  let h := s.host
  let ctx := h.cmdCtx
  if h.command != some code then .next s
  else if h.stage < stage then .next (s.mbEnd 2)
  else if !h.unnamedZero named || (namesContext h.cmd && ctx > 4095) || !ok s ctx then .next (s.mbEnd 1)
  else .next (eff s ctx)

/-- A write of MBCMD: ignored while a command runs or before the mailbox is up; reserved bits refuse it; a code that no command has
ends at once with status 1 (R262, R263). -/
def State.writeMbcmd (s : State) (v : Word) : State :=
  let h := s.host
  if h.busy || (!h.booted && h.fail != 1) then s
  else if fld v 15 8 != 0 then s.updHost fun h => { h with status := 1 }
  else
    let s := s.updHost fun h => { h with mbcmd := v, busy := true }
    match s.host.command with
    | some i => s.post i
    | none => s.mbEnd 1

/-! The region. -/

/-- Start of the queue registers, of WINBASE, and of the memory window (R259). -/
def queueBase : Nat := 0x10000
def winbaseAt : Nat := 0x11000
def windowAt : Nat := 0x100000

/-- A write in the block of a queue (R156, R157). -/
def State.writeQueueReg (s : State) (q off size : Nat) (v : DWord) : State :=
  match off, size with
  | 0, 8 => s.writeQbasePart q 0 v
  | 0, 4 => s.writeQbasePart q 1 v
  | 4, 4 => s.writeQbasePart q 2 v
  | 8, 4 => s.writeQctl q (loWord v)
  | 12, 4 => s.writeQctx q (loWord v)
  | 20, 4 => s.writeQtail q (loWord v)
  | 16, 4 => s.queueErr q
  | 24, 4 => if bit v 0 then s.updQueue q fun x => { x with err := false } else s
  | 28, 4 => s
  | _, _ => s

/-- A write at an offset and of a size that name a register of a block (R157). -/
def queueWriteOk (off size : Nat) : Bool :=
  [(0, 8), (0, 4), (4, 4), (8, 4), (12, 4), (16, 4), (20, 4), (24, 4), (28, 4)].contains (off, size)

/-- A write that touches queue registers: of a register's own size and alignment, or ignored, and every queue whose block it touches sets
ERR (R157). -/
def State.writeQueues (s : State) (off size : Nat) (v : DWord) : State :=
  if off ≥ queueBase ∧ queueWriteOk (off % 32) size then s.writeQueueReg ((off - queueBase) / 32) (off % 32) size v
  else ((List.range 64).filter fun q => decide (off < queueBase + 32 * (q + 1)) && decide (queueBase + 32 * q < off + size)).foldl
    State.queueErr s

/-- The bytes of a write. -/
def writeBytes (size : Nat) (v : DWord) (data : List Byte) : List Byte := if data.isEmpty then bytesOfNat size v.toNat else data

/-- WINBASE with some of its bytes written; bits [15:0] read zero. -/
def Mgmt.writeWinbase (h : Mgmt) (off : Nat) (bs : List Byte) : Mgmt :=
  let old := bytesOfNat 8 h.winbase.toNat
  let new := (List.range 8).map fun i => if off ≤ i ∧ i < off + bs.length then bs.getD (i - off) 0 else old.getD i 0
  { h with winbase := BitVec.ofNat 64 (natOfBytes new / 65536 * 65536) }

/-- A write to the register region (R7, R259): each register by its access code; an offset that names none is ignored. -/
def State.registerWrite (s : State) (off size : Nat) (v : DWord) (data : List Byte) : State :=
  let bs := writeBytes size v data
  if off < 4 then
    if bit (v <<< (8 * off)) 10 && decide (off * 8 ≤ 10) then s.updHost fun h => { h with sealw := false } else s
  else if off = 0x100 ∧ size = 4 then s.writeMbcmd (loWord v)
  else if off = 0x108 ∧ size = 4 then s.updHost fun h => { h with evcfg := loWord v &&& 0x800007FF#32 }
  else if 0x1000 ≤ off ∧ off + bs.length ≤ 0x2000 then s.updHost fun h => h.setBuf (off - 0x1000) bs
  else if off < queueBase + 2048 ∧ queueBase < off + bs.length then s.writeQueues off bs.length v
  else if winbaseAt ≤ off ∧ off + bs.length ≤ winbaseAt + 8 then s.updHost fun h => h.writeWinbase (off - winbaseAt) bs
  else if windowAt ≤ off ∧ off + bs.length ≤ windowAt + pageSize ∧ s.host.stage ≥ 1 then
    s.hostWrite (s.host.winbase.toNat + (off - windowAt)) bs
  else s

/-- REGISTER_WRITE: offset, size, value, or bytes in place of a value. -/
def execRegisterWrite (s : State) : Res := .next (s.registerWrite s.ev.a s.ev.b s.ev.v s.ev.data)

/-- DEVSTAT (R260). -/
def Mgmt.devstat (h : Mgmt) : Word :=
  BitVec.ofNat 32 (h.fail * 65536 + h.dies % 16 * 4096 + h.throt.toNat * 2048 + h.sealw.toNat * 1024 +
    (!h.events.isEmpty).toNat * 512 + h.stage)

/-- MBSTAT (R262). -/
def Mgmt.mbstat (h : Mgmt) : Word := BitVec.ofNat 32 (h.busy.toNat * 2 ^ 31 + h.status.toNat)

/-- QSTAT (R156). -/
def Queue.qstat (x : Queue) : Word := BitVec.ofNat 32 (x.age.toNat * 256 + x.blocked.toNat * 2 + x.err.toNat)

/-- A read in the block of a queue; of any other size or alignment it is zero (R157). -/
def Queue.readReg (x : Queue) (off size : Nat) : DWord :=
  match off, size with
  | 0, 8 => x.base
  | 8, 4 => x.ctl.setWidth 64
  | 12, 4 => x.ctx.setWidth 64
  | 16, 4 => x.head.setWidth 64
  | 20, 4 => x.tail.setWidth 64
  | 24, 4 => x.qstat.setWidth 64
  | _, _ => 0

/-- What the host reads at an offset of the register region (R259). -/
def State.registerRead (s : State) (off size : Nat) : DWord :=
  let h := s.host
  if off = 0 ∧ size = 4 then h.devstat.setWidth 64
  else if off = 0x100 ∧ size = 4 then h.mbcmd.setWidth 64
  else if off = 0x104 ∧ size = 4 then h.mbstat.setWidth 64
  else if off = 0x108 ∧ size = 4 then h.evcfg.setWidth 64
  else if 0x1000 ≤ off ∧ off + size ≤ 0x2000 then BitVec.ofNat 64 (({ h with operands := none } : Mgmt).num (off - 0x1000) size)
  else if queueBase ≤ off ∧ off < queueBase + 2048 then (s.queue ((off - queueBase) / 32)).readReg (off % 32) size
  else if off = winbaseAt ∧ size = 8 then h.winbase
  else if windowAt ≤ off ∧ off + size ≤ windowAt + pageSize ∧ h.stage ≥ 1 then
    BitVec.ofNat 64 (s.numAt (.dev (h.winbase.toNat + (off - windowAt))) size)
  else 0

end Sys2Proof.Machine
end

