-- ==== Sys2Proof/Machine/Ecdsa.lean ====
section
/-! DEFINITION. ECDSA over P-256 (R84, R263, R264, R269): the spec names the algorithm, which FIPS 186-5 and SP 800-186 give. -/

namespace Sys2Proof.Machine

/-! The curve y² = x³ − 3x + b over the integers modulo `fieldP`, and its group of order `orderN`. -/

def fieldP : Nat := 0xffffffff00000001000000000000000000000000ffffffffffffffffffffffff
def orderN : Nat := 0xffffffff00000000ffffffffffffffffbce6faada7179e84f3b9cac2fc632551
def curveB : Nat := 0x5ac635d8aa3a93e7b3ebbd55769886bc651d06b0cc53b0f63bce3c3e27d2604b

/-- A point of the group; none is the neutral one. -/
abbrev Point := Option (Nat × Nat)

/-- The base point. -/
def basePoint : Point :=
  some (0x6b17d1f2e12c4247f8bce6e563a440f277037d812deb33a0f4a13945d898c296,
        0x4fe342e2fe1a7f9b8ee7eb4a7c0f9e162bce33576b315ececbb6406837bf51f5)

/-- x to the power e modulo m; e has at most `n` bits. -/
def powMod (m : Nat) : Nat → Nat → Nat → Nat
  | 0, _, _ => 1 % m
  | n + 1, x, e =>
    let y := powMod m n (x * x % m) (e / 2)
    if e % 2 = 1 then x * y % m else y

/-- The inverse modulo a prime of 256 bits. -/
def invMod (m x : Nat) : Nat := powMod m 256 x (m - 2)
/-- The difference modulo m. -/
def subMod (m x y : Nat) : Nat := (x + (m - y % m)) % m

/-- The third point of the line with slope `l` through (x1, y1) and x2, mirrored. -/
def thirdPoint (l x1 y1 x2 : Nat) : Point :=
  let x := subMod fieldP (l * l) (x1 + x2)
  some (x, subMod fieldP (l * subMod fieldP x1 x) y1)

/-- The sum of two points. -/
def Point.plus (a b : Point) : Point :=
  match a, b with
  | none, q => q
  | p, none => p
  | some (x1, y1), some (x2, y2) =>
    if x1 ≠ x2 then thirdPoint (subMod fieldP y2 y1 * invMod fieldP (subMod fieldP x2 x1) % fieldP) x1 y1 x2
    else if (y1 + y2) % fieldP = 0 then none
    else thirdPoint (subMod fieldP (3 * x1 * x1) 3 * invMod fieldP (2 * y1 % fieldP) % fieldP) x1 y1 x1

/-- k times a point; k has at most `n` bits. -/
def Point.times (p : Point) : Nat → Nat → Point
  | 0, _ => none
  | n + 1, k =>
    let q := Point.times p n (k / 2)
    let q := q.plus q
    if k % 2 = 1 then q.plus p else q

/-- The points with a given x: none, or two. -/
def pointsAt (x : Nat) : List Point :=
  let c := (x * x * x + subMod fieldP curveB (3 * x)) % fieldP
  let y := powMod fieldP 256 c ((fieldP + 1) / 4)
  if x < fieldP ∧ y * y % fieldP = c then [some (x, y), some (x, (fieldP - y) % fieldP)] else []

/-- A point's bytes: x, then y, each 32 bytes big-endian (R263). -/
def Point.bytes : Point → List Byte
  | some (x, y) => beBytes 32 x ++ beBytes 32 y
  | none => List.replicate 64 0

/-- A signature r, s over a digest verifies under a public key. -/
def ecdsaVerify (key : Point) (digest r s : Nat) : Bool :=
  let w := invMod orderN s
  0 < r && r < orderN && 0 < s && s < orderN && key.isSome &&
  (match (Point.times basePoint 256 (digest * w % orderN)).plus (Point.times key 256 (r * w % orderN)) with
   | some (x, _) => x % orderN == r
   | none => false)

/-- The public keys under which a signature over a digest can verify: every one is r⁻¹(sR − eG) of a point R whose x is r modulo the
order. -/
def ecdsaKeys (digest r s : Nat) : List Point :=
  let w := invMod orderN r
  ((pointsAt r) ++ pointsAt (r + orderN)).map fun p =>
    (Point.times p 256 (s * w % orderN)).plus (Point.times basePoint 256 ((orderN - digest * w % orderN) % orderN))

/-- Whether 64 bytes r, s are a signature over a digest by the signer whose public key, in uncompressed point form, has the SHA-256
digest `signer` (R84). -/
def ecdsaVerifies (signer digest sig : List Byte) : Bool :=
  let e := beNat digest
  let r := beNat (sig.take 32)
  let s := beNat ((sig.drop 32).take 32)
  (ecdsaKeys e r s).any fun k => sha256 (0x04#8 :: k.bytes) == signer && ecdsaVerify k e r s

/-- A scalar from 1 to the order less one. -/
def scalarOf (x : Nat) : Nat := 1 + x % (orderN - 1)

/-- The private half of the identity key, which no software reads (R269). -/
def identityScalar : Nat := scalarOf Config.identitySeed

/-- The identity public key (R263, R269). -/
def identityKey : List Byte := (Point.times basePoint 256 identityScalar).bytes

/-- A signature by a private key over a digest with the scalar k; none where r or s is zero. -/
def signWith (d digest k : Nat) : Option (Nat × Nat) :=
  match Point.times basePoint 256 k with
  | some (x, _) =>
    let r := x % orderN
    let s := invMod orderN k * (digest + r * d) % orderN
    if r = 0 ∨ s = 0 then none else some (r, s)
  | none => none

/-- The signature of the identity key over a digest, r then s; its scalars are the device's secret (R269). -/
def identitySignature (digest : List Byte) (free : Nat) : List Byte :=
  match (List.range 16).findSome? fun i => signWith identityScalar (beNat digest) (scalarOf (Config.identityNonce free i)) with
  | some (r, s) => beBytes 32 r ++ beBytes 32 s
  | none => List.replicate 64 0

end Sys2Proof.Machine
end

