-- ==== Sys2Proof/Machine/Images.lean ====
section
/-! DEFINITION. Image files of the Pelcia Object Format (R81 to R84): what a reader of one checks, the words that its relocations patch,
its handler table, and what the loader and system software do with an image (R79, R80, R123, log 8). -/

namespace Sys2Proof.Machine

/-! The section table. -/

/-- A section of an image file (R81). -/
structure Section where
  kind : Nat
  off  : Nat
  size : Nat
  info : Nat
  deriving DecidableEq, Repr

/-- The section table of an image file. -/
def sectionsOf (f : List Byte) : List Section :=
  (List.range (blkNum f 12 2)).map fun i =>
    let a := blkNum f 16 8 + 32 * i
    { kind := blkNum f (a + 4) 1, off := blkNum f (a + 8) 8, size := blkNum f (a + 16) 8, info := blkNum f (a + 24) 4 }

/-- The contents of a section. -/
def Section.bytes (x : Section) (f : List Byte) : List Byte := (f.drop x.off).take x.size

/-- Sections of a kind, with their indices. -/
def ofKind (secs : List Section) (k : Nat) : List (Nat × Section) := (secs.zipIdx.filter fun e => e.1.kind == k).map fun e => (e.2, e.1)

/-- The contents of the one section of a kind; nothing where the file has none. -/
def oneOf (f : List Byte) (secs : List Section) (k : Nat) : List Byte := ((secs.find? (·.kind == k)).map (·.bytes f)).getD []

/-- The header of an image (R81). -/
def headerOk (f : List Byte) : Bool :=
  f.take 8 == [0x7F, 0x50, 0x4F, 0x46, 1, 0, 1, 2] && blkNum f 8 4 ≤ 1 && blkZero f 14 2 && blkZero f 32 32 &&
  blkNum f 24 8 == f.length && blkNum f 16 8 % 8 == 0 && blkNum f 16 8 + 32 * blkNum f 12 2 ≤ f.length

/-- An entry of the section table: kind, alignment, reserved bytes, INFO of its kind, and contents that the file holds. -/
def entryOk (f : List Byte) (secs : List Section) (i : Nat) (x : Section) : Bool :=
  let a := blkNum f 16 8 + 32 * i
  1 ≤ x.kind && x.kind ≤ 11 && blkNum f (a + 5) 1 ≤ 16 && blkZero f (a + 6) 2 && blkZero f (a + 28) 4 &&
  (match x.kind with
   | 5 => x.info ≤ 15 && x.size != 0
   | 8 => x.info < secs.length
   | _ => x.info == 0) && x.off + x.size ≤ f.length

/-- At most one section of each of the kinds that a file holds once, and one RELOCS for each section patched. -/
def countsOk (secs : List Section) : Bool :=
  [4, 6, 7, 9, 10, 11].all (fun k => (ofKind secs k).length ≤ 1) &&
  (ofKind secs 8).all fun e => ((ofKind secs 8).filter fun x => x.2.info == e.2.info).length == 1

/-! CODE (R47, R81). -/

/-- The literal words of a run of clauses, by number; none where the words are no whole run. -/
def clauseLits : Nat → Nat → List Word → Option (List Nat)
  | 0, _, ws => if ws.isEmpty then some [] else none
  | fuel + 1, at_, ws =>
    match ws with
    | [] => some []
    | h :: rest =>
      let n := 1 + hNins h
      if fld h 31 30 != 2 || rest.length < n + hNlit h then none
      else (clauseLits fuel (at_ + 1 + n + hNlit h) (rest.drop (n + hNlit h))).map fun ls =>
        ((List.range (hNlit h)).map fun i => at_ + 1 + n + i) ++ ls

/-- The words of some bytes. -/
def wordsOf (b : List Byte) : List Word := (List.range (b.length / 4)).map fun i => BitVec.ofNat 32 (blkNum b (4 * i) 4)

/-- The literal words of a CODE section. -/
def Section.lits (x : Section) (f : List Byte) : Option (List Nat) :=
  if x.size % 4 != 0 then none else clauseLits (x.size / 4) 0 (wordsOf (x.bytes f))

/-! Relocations (R82). -/

/-- A relocation. -/
structure Reloc where
  at_   : Nat
  sym   : Nat
  rtype : Nat
  part  : Nat
  deriving DecidableEq, Repr

/-- The relocations of a RELOCS section. -/
def Section.relocs (x : Section) (f : List Byte) : List Reloc :=
  (List.range (x.size / 24)).map fun i =>
    let a := x.off + 24 * i
    { at_ := blkNum f a 8, sym := blkNum f (a + 8) 4, rtype := blkNum f (a + 12) 1, part := blkNum f (a + 13) 1 }

/-- The relocations of a section as an image may hold them: known codes, no reserved byte, and in CODE a literal word (R47, R82). -/
def relocsOk (f : List Byte) (secs : List Section) (x : Section) : Bool :=
  let target := secs[x.info]?
  x.size % 24 == 0 && (List.range (x.size / 24)).all (fun i => blkZero f (x.off + 24 * i + 14) 2) &&
  (x.relocs f).all fun y =>
    1 ≤ y.rtype && y.rtype ≤ 5 && y.part ≤ 2 && (y.rtype != 1 || y.part == 0) &&
    (match target with
     | some t =>
       y.at_ + (if y.part = 2 then 8 else 4) ≤ t.size &&
       (t.kind != 1 || (y.part != 2 && y.at_ % 4 == 0 && ((t.lits f).getD []).contains (y.at_ / 4)))
     | none => false)

/-- Numbers of the words of CODE section `i` that the file's relocations patch. -/
def patchedWords (f : List Byte) (secs : List Section) (i : Nat) : List Nat :=
  ((ofKind secs 8).filter fun x => x.2.info == i).flatMap fun x => (x.2.relocs f).map fun y => y.at_ / 4

/-! Kernels and handlers (R82, R83). -/

/-- A KDESC record has no reserved bit, and its REGS, TILES, GROUPS and SCRATCH lie within the limits of R78; its CSHAPE and reorder
fields are taken as they stand (DESIGN CHOICE, log 8). -/
def kdescOk (b : List Byte) (i : Nat) : Bool :=
  let a := 64 * i
  windowOk (blkNum b (a + 4) 1) && blkNum b (a + 5) 1 ≤ 16 && 1 ≤ blkNum b (a + 6) 1 && blkNum b (a + 6) 1 ≤ 16 &&
  blkNum b (a + 8) 4 % 4096 == 0 && blkNum b (a + 8) 4 ≤ 524288 && blkNum b (a + 12) 4 ≤ 3 && blkZero b (a + 30) 2 &&
  blkZero b (a + 39) 1 && blkZero b (a + 44) 20

/-- The address of a symbol, given the addresses of the sections: absolute, or an offset in its section. -/
def symbolAt (syms : List Byte) (bases : List DWord) (i : Nat) : Option DWord :=
  let v : DWord := BitVec.ofNat 64 (blkNum syms (24 * i + 8) 8)
  if 24 * (i + 1) > syms.length then none
  else match blkNum syms (24 * i + 4) 2 with
    | 0xFFFF => some v
    | n => (bases[n]?).map (· + v)

/-- The kernel that a symbol names. -/
def kernelOf (f : List Byte) (secs : List Section) (bases : List DWord) (sym : Nat) : Option HKernel :=
  let ks := oneOf f secs 9
  ((List.range (ks.length / 64)).find? fun i => blkNum ks (64 * i) 4 == sym).bind fun i =>
    (symbolAt (oneOf f secs 6) bases sym).map fun e =>
      { entry := e, regs := blkNum ks (64 * i + 4) 1, scratch := blkNum ks (64 * i + 8) 4, tiles := blkNum ks (64 * i + 5) 1 }

/-- The handler table of an image (R83): entry c is for cause code c, entry 31 the default. An entry whose symbol
has no KDESC record is no entry (DESIGN CHOICE, log 8). -/
def handlersOf (f : List Byte) (secs : List Section) (bases : List DWord) : Tbl HKernel :=
  let hs := oneOf f secs 10
  (List.range (hs.length / 4)).filterMap fun c =>
    let sym := blkNum hs (4 * c) 4
    if sym = 0xFFFFFFFF then none else (kernelOf f secs bases sym).map fun k => (c, k)

/-- What a reader of an image file checks before it takes anything from it (R81 to R84). -/
def imageOk (f : List Byte) : Bool :=
  let secs := sectionsOf f
  headerOk f && (secs.zipIdx.all fun e => entryOk f secs e.2 e.1) && countsOk secs &&
  (ofKind secs 1).all (fun e => (e.2.lits f).isSome) && (ofKind secs 8).all (fun e => relocsOk f secs e.2) &&
  (ofKind secs 6).all (fun e => e.2.size % 24 == 0) &&
  (ofKind secs 9).all (fun e => e.2.size % 64 == 0 && (List.range (e.2.size / 64)).all (kdescOk (e.2.bytes f))) &&
  (ofKind secs 10).all (fun e => e.2.size == 128) &&
  (ofKind secs 11).all (fun e => e.2.size == 96 && e.2.off + 96 == f.length) &&
  (blkNum f 8 4 == 1) == (secs.any (·.kind == 11))

/-- The signature section names a signer that a slot holds, and verifies (R84, R270). -/
def signatureOk (f : List Byte) (keys : List (BitVec 256)) (x : Section) : Bool :=
  let d := (x.bytes f).take 32
  let slot : BitVec 256 := BitVec.ofNat 256 (natOfBytes d)
  slot != 0 && keys.contains slot && ecdsaVerifies d (sha256 (f.take x.off)) ((x.bytes f).drop 32)

/-! The loader. -/

/-- Bytes of an object that exists take their place in its pages; a page that is absent takes none. -/
def State.fillObject (s : State) (ctx : Nat) (base : DWord) : Nat → List Byte → State
  | _, [] => s
  | i, b :: bs =>
    let va := base + BitVec.ofNat 64 i
    let s := match s.walk ctx va with
      | .leaf e _ _ => s.setByte (.dev (leafFrame e * pageSize + fld va 15 0)) b
      | _ => s
    s.fillObject ctx base (i + 1) bs

/-- An `.object` section becomes an object: strong count 1, held by the loaded image, and the priority of INFO (R79, R123). Its
bytes are those of the file, relocations that patch it left to the host (DESIGN CHOICE, log 8). -/
def State.loadObject (s : State) (ctx : Nat) (f : List Byte) (x : Section) : State :=
  let need := s.hnewNeeds ctx x.size
  let s := if s.poolFree < need then s.reclaim need else s
  match s.hnew ctx x.size with
  | (s, a) =>
    if a = 0 then s
    else
      let o := s.obj ctx (oaIndex a)
      (s.setObj ctx (oaIndex a) { o with prio := x.info % 16 }).fillObject ctx o.base 0 (x.bytes f)

/-- What the loader and system software do at the device with an image (R79, R80): a file that R81 to R84 reject is left alone. -/
def State.load (s : State) : Loading → State
  | .objects ctx f =>
    let secs := sectionsOf f
    if imageOk f then (ofKind secs 5).foldl (fun (s : State) e => s.loadObject ctx f e.2) s else s
  | .unload ctx objects => objects.foldl (fun (s : State) a => if (s.obj ctx (oaIndex a)).scount = 0 then s else s.unhold ctx a) s
  | .handlers ctx f bases =>
    if imageOk f then s.updCtx ctx fun c => { c with handlers := handlersOf f (sectionsOf f) bases } else s

end Sys2Proof.Machine
end

