-- ==== Sys2Proof/Machine/Mailbox.lean ====
section
/-! DEFINITION. Mailbox commands 0 to 14 (R263 to R265, R267 to R270, R184, R188). -/

namespace Sys2Proof.Machine

/-! Identity, signers and seals. -/

/-- IDENT (R263): the identity public key. -/
def execIdent (s : State) : Res := mailbox .ident 0 [] (fun _ _ => true) (fun s _ => s.mbDone 0 identityKey) s

/-- CTXHASH (R269): over the key slots and the SIGNONLY flag; zero at stage 0. -/
def State.ctxHash (s : State) (ctx : Nat) : List Byte :=
  if s.host.stage = 0 then List.replicate 32 0
  else sha256 (((List.range 4).flatMap fun i => bytesOfNat 32 (tget 0 (s.ctx ctx).keys i).toNat) ++
    Config.signonlyBytes (s.ctx ctx).signonly)

/-- Bytes 0 to 103 of the attestation report (R269). -/
def State.report (s : State) (ctx : Nat) (nonce : List Byte) : List Byte :=
  [0x41, 0x5A, 0x41, 0x54, 1, BitVec.ofNat 8 s.host.stage, 0, 0] ++ bytesOfNat 32 Config.firmwareHash.toNat ++ s.ctxHash ctx ++ nonce

/-- ATTEST (R269). -/
def execAttest (s : State) : Res :=
  mailbox .attest 0 [(0, 32)] (fun _ _ => true)
    (fun s ctx =>
      let r := s.report ctx (s.host.buf 0 32)
      let s := s.mbDone 0 (r ++ identitySignature (sha256 r) s.free)
      { s with free := s.free + 1 }) s

/-- KEYSET (R264): an all-zero digest empties the slot. -/
def execKeyset (s : State) : Res :=
  mailbox .keyset 1 [(0, 1), (8, 32)] (fun s _ => s.host.num 0 1 ≤ 3)
    (fun s ctx => (s.updCtx ctx fun c =>
      { c with keys := tset 0 c.keys (s.host.num 0 1) (BitVec.ofNat 256 (s.host.num 8 32)) }).mbEnd 0) s

/-- SIGNONLY (R264). -/
def execSignonly (s : State) : Res :=
  mailbox .signonly 1 [(0, 1)] (fun s _ => s.host.num 0 1 ≤ 1)
    (fun s ctx => (s.updCtx ctx fun c => { c with signonly := s.host.num 0 1 == 1 }).mbEnd 0) s

/-- The loaded CODE equals the file's, patched words apart (R264). -/
def codeEqual (file mem : List Byte) (patched : List Nat) : Bool :=
  (List.range ((file.length + 3) / 4)).all fun i =>
    patched.contains i || (file.drop (4 * i)).take 4 == (mem.drop (4 * i)).take 4

/-- The leaves that map a range of ordinary addresses; none where a page is absent. -/
def State.leavesOf (s : State) (ctx : Nat) (va : DWord) (n : Nat) : Option (List DWord) :=
  let first := va.toNat / pageSize
  (List.range ((va.toNat + n - 1) / pageSize - first + 1)).foldl (fun acc i =>
    match acc, s.walk ctx (BitVec.ofNat 64 ((first + i) * pageSize)) with
    | some l, .leaf e _ large =>
      some (l ++ [if large then e + BitVec.ofNat 64 ((first + i) % 8192 * pageSize) else e])
    | _, _ => none) (some [])

/-- Where the CODE sections of an image stand, the first at the address that SEAL was given, each further one on the next 64 KiB boundary
behind (log 7). -/
def codePlaces : Nat → List (Nat × Section) → List (Nat × Nat × Section)
  | _, [] => []
  | at_, (i, c) :: rest => (at_, i, c) :: codePlaces ((at_ + c.size + pageSize - 1) / pageSize * pageSize) rest

/-- One CODE section as it is loaded: it equals the file's, and every leaf that maps it has W = 0; its frames, or none. -/
def State.sealable (s : State) (ctx : Nat) (f : List Byte) (secs : List Section) (c : Nat × Nat × Section) : State × Option (List Nat) :=
  let va : DWord := BitVec.ofNat 64 c.1
  match s.distRead ctx va c.2.2.size, s.leavesOf ctx va c.2.2.size with
  | (s, some mem), some leaves =>
    if c.2.2.size != 0 && codeEqual (c.2.2.bytes f) (s.segBytes mem) (patchedWords f secs c.2.1) && leaves.all fun e => !leafW e
    then (s, some ((leaves.filter fun e => !leafHost e).map leafFrame))
    else (s, none)
  | (s, _), _ => (s, none)

/-- All of them; none where one fails. -/
def State.sealables (ctx : Nat) (f : List Byte) (secs : List Section) : List (Nat × Nat × Section) → State → State × Option (List Nat)
  | [], s => (s, some [])
  | c :: cs, s =>
    match s.sealable ctx f secs c with
    | (s, none) => (s, none)
    | (s, some fs) =>
      match State.sealables ctx f secs cs s with
      | (s, none) => (s, none)
      | (s, some gs) => (s, some (fs ++ gs))

/-- SEAL's verification: the seal, or none (R264, R270); of all CODE sections (log 7). -/
def State.verifySeal (s : State) (ctx : Nat) (file load : DWord) (n : Nat) : State × Option Seal :=
  match s.distRead ctx file n with
  | (s, none) => (s, none)
  | (s, some segs) =>
    let f := s.segBytes segs
    let secs := sectionsOf f
    let code := codePlaces load.toNat (ofKind secs 1)
    match secs.find? (·.kind == 11) with
    | none => (s, none)
    | some sg =>
      if code.isEmpty || !imageOk f || !signatureOk f ((s.ctx ctx).keys.map (·.2)) sg then (s, none)
      else match State.sealables ctx f secs code s with
        | (s, none) => (s, none)
        | (s, some frames) => (s, some { load := load, ranges := code.map fun c => (c.1, c.2.2.size), frames := frames })

/-- SEAL (R264). -/
def execSeal (s : State) : Res :=
  mailbox .seal 1 [(0, 24)]
    (fun s _ => s.host.num 0 8 < 2 ^ 55 && s.host.num 8 8 ≤ 2 ^ 32 && s.host.num 16 8 < 2 ^ 55)
    (fun s ctx =>
      match s.verifySeal ctx (BitVec.ofNat 64 (s.host.num 0 8)) (BitVec.ofNat 64 (s.host.num 16 8)) (s.host.num 8 8) with
      | (s, none) => s.mbEnd 3
      | (s, some x) =>
        let s : State := { s with sealed := x.frames.foldl (fun t f => tset false t f true) s.sealed }
        (s.updCtx ctx fun c => { c with seals := c.seals ++ [x] }).mbEnd 0) s

/-- The frames that some seal still holds are sealed, and no other (R270). -/
def State.resealed (s : State) : State :=
  { s with sealed := (s.ctxs.flatMap fun c => c.2.seals.flatMap (·.frames)).foldl (fun t f => tset false t f true) [] }

/-- UNSEAL (R264, R270): the seals given this load address end. -/
def execUnseal (s : State) : Res :=
  mailbox .unseal 1 [(0, 8)] (fun s ctx => (s.ctx ctx).seals.any fun x => x.load.toNat == s.host.num 0 8)
    (fun s ctx => (s.updCtx ctx fun c =>
      { c with seals := c.seals.filter fun x => x.load.toNat != s.host.num 0 8 }).resealed.mbEnd 0) s

/-! Events and answers. -/

/-- The oldest record, with LOST; a record of KIND 0 where there is none (R265). -/
def Mgmt.takeEvent (h : Mgmt) : Mgmt × List Byte :=
  match h.events with
  | r :: rest => ({ h with events := rest, lost := 0 }.refill, patch r 1 (bytesOfNat 1 h.lost))
  | [] => ({ h with lost := 0 }, patch (List.replicate 64 0) 1 (bytesOfNat 1 h.lost))

/-- EVENT (R265). -/
def execEvent (s : State) : Res :=
  mailbox .event 1 [] (fun _ _ => true)
    (fun s _ =>
      let (h, r) := s.host.takeEvent
      ({ s with host := h }).mbDone 0 r) s

/-- Every grid of a context that has nothing left to run completes now (R262, R264). -/
def State.completeSpent (s : State) (ctx : Nat) : State :=
  s.grids.foldl (fun (s : State) e =>
    match s.grid? e.1 with
    | some g =>
      if g.ctx = ctx ∧ g.spent then
        (s.finishGrid g.ctx g.queue g.no g.packet g.status g.failed g.unrun).updGrid e.1 fun g => { g with complete := true }
      else s
    | none => s) s

/-- A context is killed and its affected grids complete. -/
def State.killWhole (s : State) (ctx : Nat) : State × Nat :=
  let (s, n) := s.killCtx ctx
  (s.completeSpent ctx, n)

/-- ANSWER (R184, R264). -/
def execAnswer (s : State) : Res :=
  mailbox .answer 1 [(0, 1)] (fun s ctx => s.host.num 0 1 ≤ 1 && (s.ctx ctx).escal.isSome)
    (fun s ctx => (if s.host.num 0 1 = 0 then s.answerRestore ctx else (s.killWhole ctx).1).mbEnd 0) s

/-- CTXKILL (R264). -/
def execCtxkill (s : State) : Res :=
  mailbox .ctxkill 1 [] (fun _ _ => true)
    (fun s ctx =>
      let (s, n) := s.killWhole ctx
      s.mbDone 0 (bytesOfNat 4 n)) s

/-! CTXREG (R267). -/

/-- Scope of a selector as CTXREG takes it: 0 context, 1 core, 2 device. -/
def selScope (b : Nat) : Option Nat :=
  if b = 0x18 || b = 0x19 || (0x1C ≤ b && b ≤ 0x22) then some 0
  else if b = 0x07 || b = 0x08 || b = 0x0A || b = 0x12 || (0x23 ≤ b && b ≤ 0x26) then some 1
  else if b = 0x10 || b = 0x11 || b = 0x1A || b = 0x1B then some 2
  else none

/-- CORE is in range for the register's scope; 0xFFFF only for a write. -/
def coreFieldOk (scope core : Nat) (write : Bool) : Bool :=
  if scope = 1 then core < 96 || (write && core == 0xFFFF) else core == 0

/-- CTXREG, read (R267). -/
def execCtxregRead (s : State) : Res :=
  mailbox .ctxregRead 1 [(0, 1), (2, 2), (4, 4), (8, 8)]
    (fun s _ => match selScope (s.host.num 4 4) with
      | some sc => coreFieldOk sc (s.host.num 2 2) false
      | none => false)
    (fun s ctx =>
      let b := s.host.num 4 4
      let v := if selScope b = some 0 then (s.ctx ctx).special b else s.coreSpecial (s.host.num 2 2) b
      s.mbDone 0 (bytesOfNat 8 v.toNat)) s

/-- LOGCFG from the host: `enable` with the held LOGBASE, or `disable` for zero (R267). -/
def State.hostLogcfg (s : State) (ctx : Nat) (v : Word) : Option State :=
  let base := (s.ctx ctx).logheld
  if v = 0 then some (s.updCtx ctx fun c => { c.discard with logEn := false })
  else if !logcfgOk v || !s.ringOk base (fld v 4 0) then none
  else some (s.updCtx ctx fun c => c.enableLog base v)

/-- A host write of one register; none where it is refused (R267). -/
def State.hostReg (s : State) (ctx core b : Nat) (v : Word) : Option State :=
  match b with
  | 0x12 => s.writeWdog core v
  | 0x18 => some (s.writePtroot ctx v)
  | 0x19 => some (s.updCtx ctx fun c => { c with objtab := v })
  | 0x1B => s.writePoolmark v
  | 0x1C => some (s.updCtx ctx fun c => { c with logheld := v })
  | 0x1D => s.hostLogcfg ctx v
  | 0x20 => s.writeTkbase ctx v
  | 0x21 => s.writeTkcfg ctx v
  | 0x22 => s.writeFltcfg ctx v
  | 0x23 => s.writePreth core v
  | 0x24 => s.writeProfcfg core v
  | 0x25 => some (s.updCore core fun c => { c with profbase := v })
  | _ => none

/-- One core's copy, or every core's. -/
def State.hostRegs (s : State) (ctx core b : Nat) (v : Word) : Option State :=
  if core = 0xFFFF then (List.range 96).foldl (fun (a : Option State) c => a.bind fun s => s.hostReg ctx c b v) (some s)
  else s.hostReg ctx core b v

/-- CTXREG, write (R267). -/
def execCtxregWrite (s : State) : Res :=
  mailbox .ctxregWrite 1 [(0, 1), (2, 2), (4, 4), (8, 8)]
    (fun s _ => s.host.num 0 1 == 1 && (match selScope (s.host.num 4 4) with
      | some sc => coreFieldOk sc (s.host.num 2 2) true
      | none => false))
    (fun s ctx =>
      match s.hostRegs ctx (s.host.num 2 2) (s.host.num 4 4) (BitVec.ofNat 32 (s.host.num 8 4)) with
      | some s => s.mbEnd 0
      | none => s.mbEnd 1) s

/-! Memory commands. -/

/-- TLBINV from the host (R264, R342): it drops the translations, and ends once the accesses issued before that are done. -/
def execMailboxTlbinv (s : State) : Res :=
  mailbox .mailboxTlbinv 1 [(0, 1), (8, 8), (16, 4)]
    (fun s _ =>
      let f := s.host.num 0 1
      let va := s.host.num 8 8
      let n := s.host.num 16 4
      f ≤ 3 && (if f % 2 = 1 then va == 0 && n == 0 else va < 2 ^ 55 && n != 0 && va / pageSize + n ≤ 2 ^ 39))
    (fun s ctx =>
      let f := s.host.num 0 1
      let range := if f % 2 = 1 then none else some (s.host.num 8 8 / pageSize, s.host.num 16 4)
      match s.host.tlbAfter with
      | none => (s.invalidate ctx range (f ≥ 2)).updHost fun h => { h with tlbAfter := some s.nextOp, operands := some h.given }
      | some n => if s.accessing n ctx (f ≥ 2) then s.mbWait else s.mbEnd 0) s

/-- Two ranges of frames meet. -/
def framesMeet (a n b m : Nat) : Bool := decide (a < b + m) && decide (b < a + n)

/-- POOLADD (R264). -/
def execPooladd (s : State) : Res :=
  mailbox .pooladd 1 [(0, 8)]
    (fun s _ =>
      let f := s.host.num 0 4
      let n := s.host.num 4 4
      1 ≤ n && n ≤ 2 ^ 24 && f + n ≤ deviceFrames && (List.range (min n 12)).all (fun i => s.frameUsable (f + i)) &&
      s.pool.all fun e => !framesMeet f n e.1 e.2)
    (fun s _ =>
      let s : State := { s with pool := s.pool ++ [(s.host.num 0 4, s.host.num 4 4)] }
      s.mbDone 0 (bytesOfNat 4 s.poolFree)) s

/-- OBJREGION (R264): not while an object of the context is alive. -/
def execObjregion (s : State) : Res :=
  mailbox .objregion 1 [(0, 16)]
    (fun s ctx =>
      let b := s.host.num 0 8
      let n := s.host.num 8 8
      b < 2 ^ 55 && b % pageSize == 0 && n % pageSize == 0 && n ≤ 2 ^ 54 &&
      !((s.ctx ctx).ranges.any fun r => (s.obj ctx r.2.2).alive))
    (fun s ctx => (s.updCtx ctx fun c =>
      { c with objBase := BitVec.ofNat 64 (s.host.num 0 8), objSize := BitVec.ofNat 64 (s.host.num 8 8) }).mbEnd 0) s

/-! Pre-emption (R188, R268). -/

/-- What a pre-emption does with each resident team: 0 DRAIN, 1 FLUSH, 2 SAVE. -/
def State.preemptPlan (s : State) (ctx : Nat) : List (Nat × Nat) :=
  let ts := s.ctxTeams ctx
  ts.map fun t => (t, s.clusterChoice ts t)

/-- Bytes of the area that the images of the plan may take, behind the directory: of teams to be saved, and of those whose drain may turn
into a save. -/
def State.planSize (s : State) (plan : List (Nat × Nat)) : Nat :=
  plan.foldl (fun n e => if e.2 = 1 then n else align64 n + s.imageBound e.1 (e.2 == 0)) pageSize

/-- A save area lies in device memory that the start stage makes usable (R261); its frames come in twelves. -/
def State.areaOk (s : State) (base size : Nat) : Bool :=
  base % pageSize == 0 && base + size ≤ deviceFrames * pageSize &&
  (List.range (min ((size + pageSize - 1) / pageSize) 12)).all fun i => s.frameUsable (base / pageSize + i)

/-- PREEMPT (R268): the command ends with the directory, when every team has been taken off. -/
def execPreempt (s : State) : Res :=
  if (s.ctx s.host.cmdCtx).saving.any (·.mailbox) then .next s
  else
    mailbox .preempt 1 [(0, 16)]
      (fun s ctx =>
        s.areaOk (s.host.num 0 8) (s.host.num 8 8) && s.planSize (s.preemptPlan ctx) ≤ s.host.num 8 8)
      (fun s ctx =>
        let plan := s.preemptPlan ctx
        let s := s.updCtx ctx fun c => { c with suspended := true, saveArea := some (s.host.num 0 8, s.host.num 8 8),
                                                saving := some { waiting := plan, mailbox := true } }
        plan.foldl (fun (s : State) e =>
          if e.2 = 0 then s.updTeam e.1 fun t => { t with drain := some 0 }
          else if e.2 = 2 then s.holdTeam e.1 else s) s) s

/-- The save whose body stands behind a header at a physical address. -/
def State.saveAt (s : State) (pa : Nat) : Option Image :=
  s.saves.reverse.find? fun i => s.bytesAt (.dev (pa + 64)) (i.size - 64) == i.bytes.drop 64

/-- The team of an image can be placed: it is saved, or the part knows nothing of it (log 32). -/
def State.absent (s : State) (team : Nat) : Bool := (s.team team).stage == .saved || (s.team team).stage == .none

/-- The image as it now stands: a debugger may have changed a saved team since its save (R266). -/
def State.current (s : State) (i : Image) : Image :=
  ((s.ctx i.team.ctx).images.find? fun x => x.key == i.key && x.body == i.body).getD i

/-- Status of a restore from the image at a physical address (R190). -/
def State.restoreStatus (s : State) (ctx pa : Nat) : Nat × Option Image :=
  let h := s.bytesAt (.dev pa) 64
  let save := s.saveAt pa
  let size := blkNum h 32 8
  if h.take 4 != [0x41, 0x5A, 0x53, 0x56] || size < 64 || save.any (fun i => size != i.size) || !blkZero h 40 24 || blkNum h 28 4 > 3
  then (1, none)
  else if blkNum h 4 1 != 1 then (2, none)
  else if blkNum h 5 1 != 32 then (3, none)
  else match save with
    | none => (1, none)
    | some i => if h == i.bytes.take 64 && i.team.ctx == ctx && s.absent i.key then (0, some (s.current i)) else (1, none)

/-- RESTORE (R268). -/
def execRestore (s : State) : Res :=
  mailbox .restore 1 [(0, 9)] (fun s _ => s.host.num 8 1 ≤ 1)
    (fun s ctx =>
      let pa := s.host.num 0 8
      let resume := s.host.num 8 1 == 1
      let unsuspended (s : State) : State := if resume then s.updCtx ctx fun c => { c with suspended := false } else s
      if pa = 0 ∧ resume then (unsuspended s).mbDone 0 [0]
      else match s.restoreStatus ctx pa with
        | (n, none) => s.mbDone 0 (bytesOfNat 1 n)
        | (_, some im) =>
          match s.restoreSaved im with
          | none => s.mbDone 0 [4]
          | some s => (unsuspended s).mbDone 0 [0]) s

end Sys2Proof.Machine
end

