-- ==== Sys2Proof/Machine/Boroivi.lean ====
section
/-! DEFINITION. Boroivi, the debugger's commands (R266), with the debug registers of R208, steps (R209), reverse steps (R205) and
windows and rewinds on the debugger's behalf (R199, R202, R356). -/

namespace Sys2Proof.Machine

/-! Operands. -/

/-- TID, GROUP, PATH and lane mask, as the buffer holds them. -/
def Mgmt.tid (h : Mgmt) : Nat := h.num 4 4
def Mgmt.group (h : Mgmt) : Nat := h.num 8 1
def Mgmt.path (h : Mgmt) : Nat := h.num 9 1
def Mgmt.mask (h : Mgmt) : BitVec 32 := BitVec.ofNat 32 (h.num 12 4)

/-- The team that TID names, where it stands on a core. -/
def State.residentTeam (s : State) (ctx tid : Nat) : Option Nat :=
  if tid < 4194304 && (s.team (teamKey ctx tid)).onCore then some (teamKey ctx tid) else none

/-- The group of a team with a GROUPID. -/
def State.groupAt (s : State) (team gid : Nat) : Option Nat := (s.teamGroups team).find? fun k => (s.group k).gid == gid

/-- The group that a command names. -/
def State.namedGroup (s : State) (ctx : Nat) : Option Nat :=
  (s.residentTeam ctx s.host.tid).bind fun t => s.groupAt t s.host.group

/-- The non-empty path-table entry that a command names. -/
def State.namedPath (s : State) (ctx : Nat) : Option PathRef :=
  (s.namedGroup ctx).bind fun k =>
    if ((s.group k).path s.host.path).state != .empty && s.host.path < 32 then some ⟨k, s.host.path⟩ else none

/-- A command for an attached context. -/
def boroivi (code : Instr) (named : List (Nat × Nat)) (ok : State → Nat → Bool) (eff : State → Nat → State) : State → Res :=
  mailbox code 1 named (fun s ctx => (s.ctx ctx).attached && ok s ctx) eff

/-! Attaching. -/

/-- ATTACH. -/
def execAttach (s : State) : Res :=
  mailbox .attach 1 [] (fun s ctx => !(s.ctx ctx).attached)
    (fun s ctx => (s.updCtx ctx fun c => { c with attached := true }).mbEnd 0) s

/-- Every lane that the debugger froze or is stepping goes on. -/
def Group.undebug (g : Group) (now : Nat) : Group :=
  g.entries.foldl (fun g e =>
    if e.2.freezer = .debugger ∧ (e.2.state = .frozen ∨ e.2.state = .stepping) then g.resume e.1 e.2.mask now
    else g.updPath e.1 fun p => { p with dbgHeld := false }) g

/-- Change every image of a context. -/
def Ctx.mapImages (c : Ctx) (f : Nat → Group → Group) : Ctx :=
  { c with images := c.images.map fun (i : Image) => { i with groups := i.groups.map fun (e : Nat × Group) => (e.1, f i.key e.2) } }

/-- DETACH. -/
def execDetach (s : State) : Res :=
  boroivi .detach [] (fun _ _ => true)
    (fun s ctx =>
      let off (t : Tbl Word) : Tbl Word := t.map fun e => (e.1, e.2 &&& 0x7FFFFFFF#32)
      let s := (s.ctxGroups ctx).foldl (fun (s : State) k => s.updGroup k (·.undebug s.clock)) s
      (s.updCtx ctx fun c =>
        { c.mapImages (fun _ g => g.undebug s.clock) with
          bpctl := off c.bpctl, wpctl := off c.wpctl, rstep := none, attached := false }).mbEnd 0) s

/-! Debug registers (R208). -/

/-- The value of a WPADDR is a multiple of the range that its WPCTL names. -/
def Ctx.wpAligned (c : Ctx) (i : Nat) (v : DWord) : Bool := v.toNat % 2 ^ fld (tget 0#32 c.wpctl i) 16 12 == 0

/-- A value that R208 lets a debug register take. -/
def Ctx.debugRegOk (c : Ctx) (kind i : Nat) (v : DWord) : Bool :=
  match kind with
  | 0 => pcOk v
  | 1 => fld v 18 0 == 0
  | 2 | 6 => fld v 31 22 == 0
  | 3 | 7 => true
  | 4 => c.wpAligned i v
  | 5 => fld v 11 0 == 0 && fld v 16 12 ≤ 16
  | _ => false

/-- Write a debug register. -/
def Ctx.setDebugReg (c : Ctx) (kind i : Nat) (v : DWord) : Ctx :=
  match kind with
  | 0 => { c with bpaddr := tput c.bpaddr i v }
  | 1 => { c with bpctl := tput c.bpctl i (loWord v) }
  | 2 => { c with bptid := tput c.bptid i (loWord v) }
  | 3 => { c with bpmask := tput c.bpmask i (loWord v) }
  | 4 => { c with wpaddr := tput c.wpaddr i v }
  | 5 => { c with wpctl := tput c.wpctl i (loWord v) }
  | 6 => { c with wptid := tput c.wptid i (loWord v) }
  | _ => { c with wpmask := tput c.wpmask i (loWord v) }

/-- SETREG. -/
def execSetreg (s : State) : Res :=
  boroivi .setreg [(0, 2), (8, 8)]
    (fun s ctx => s.host.num 1 1 ≤ 15 && (s.ctx ctx).debugRegOk (s.host.num 0 1) (s.host.num 1 1) (BitVec.ofNat 64 (s.host.num 8 8)))
    (fun s ctx => (s.updCtx ctx fun c =>
      c.setDebugReg (s.host.num 0 1) (s.host.num 1 1) (BitVec.ofNat 64 (s.host.num 8 8))).mbEnd 0) s

/-! FREEZE, RESUME and STEP. -/

/-- The groups of a context's saved team. -/
def Ctx.imageOf (c : Ctx) (team : Nat) : Option Image := c.images.find? fun i => i.key == team

/-- What FREEZE names exists: the context, a team, or a path of it, resident or saved. -/
def State.freezeOk (s : State) (ctx : Nat) : Bool :=
  let h := s.host
  let team := teamKey ctx h.tid
  match h.num 0 1 with
  | 0 => true
  | 1 => (s.residentTeam ctx h.tid).isSome || ((s.ctx ctx).imageOf team).isSome
  | 2 => (s.namedPath ctx).isSome || h.path < 32 && (match (s.ctx ctx).imageOf team with
      | some im => im.groups.any fun e => e.2.gid == h.group && (e.2.path h.path).state != .empty
      | none => false)
  | _ => false

/-- FREEZE: no cause code (R266). -/
def execFreeze (s : State) : Res :=
  boroivi .freeze [(0, 1), (4, 6)] (·.freezeOk ·)
    (fun s ctx =>
      let h := s.host
      let team := teamKey ctx h.tid
      let now := s.clock
      let all (g : Group) : Group := g.mapPaths (·.suspend .debugger now)
      let s := match h.num 0 1 with
        | 0 => (s.suspend (s.ctxGroups ctx) .debugger).updCtx ctx fun c => c.mapImages fun _ g => all g
        | 1 => (s.suspend (s.teamGroups team) .debugger).updCtx ctx fun c => c.mapImages fun k g => if k = team then all g else g
        | _ => match s.namedPath ctx with
          | some r => s.updPath r (·.suspend .debugger now)
          | none => s.updCtx ctx fun c => c.mapImages fun k g =>
              if k = team ∧ g.gid = h.group then g.updPath h.path (·.suspend .debugger now) else g
      s.mbEnd 0) s

/-- The entry that a command names, frozen by the debugger or stopped with a debugger cause. -/
def State.debugFrozen (s : State) (ctx : Nat) : Option PathRef :=
  (s.namedPath ctx).bind fun r =>
    if (s.path r).state = .frozen ∧ ((s.path r).freezer = .debugger ∨ (s.path r).dbgHeld) then some r else none

/-- The debugger lets lanes of an entry go: they resume where it had frozen them, and are held by it no more where another had. -/
def Group.letGo (g : Group) (i : Nat) (m : BitVec 32) (now : Nat) : Group :=
  let p := g.path i
  let n := p.mask &&& m
  let free := { p with dbgHeld := false }
  if p.freezer = .debugger then g.resume i m now
  else if n = 0 then g
  else if n = p.mask then g.setPath i free
  else (g.setPath i { p with mask := p.mask &&& ~~~n }).setPath g.emptyEntry { free with mask := n }

/-- RESUME. -/
def execResume (s : State) : Res :=
  boroivi .resume [(4, 6), (12, 4)]
    (fun s ctx => match s.debugFrozen ctx with
      | some r => s.host.mask &&& ~~~(s.path r).mask == 0
      | none => false)
    (fun s ctx => match s.debugFrozen ctx with
      | some r =>
        let g := s.group r.group
        let t := s.setGroup r.group (g.letGo r.path s.host.mask s.clock)
        (if s.isStop r.group r.path && t.isStop r.group g.emptyEntry
         then t.post .handlerSpawn { a := r.group, b := g.emptyEntry } else t).mbEnd 0
      | none => s.mbEnd 1) s

/-- The entry that STEP names can be stepped: no handler's stop or rewind, and no step, has it. -/
def State.steppable (s : State) (ctx : Nat) : Option PathRef :=
  (s.namedPath ctx).bind fun r =>
    let p := s.path r
    if p.state = .stepping ∨ p.mgmtHeld ∨ (p.state = .frozen ∧ p.freezer ≠ .debugger) then none else some r

/-- STEP (R209): the record arrives as an event when the step ends. -/
def execStep (s : State) : Res :=
  boroivi .step [(4, 6)] (fun s ctx => (s.steppable ctx).isSome)
    (fun s ctx => match s.steppable ctx with
      | some r => (s.updGroup r.group fun g => g.beginStep r.path (g.path r.path).mask .debugger).mbEnd 0
      | none => s.mbEnd 1) s

/-! RSTEP (R205). -/

/-- The lanes of an entry are among those of a reverse step. -/
def Replay.on (x : Replay) (p : Path) : Bool := p.mask &&& x.lanes != 0

/-- After the rewind: the paths that hold lanes of L re-execute, and every other path of the context is the debugger's to resume. -/
def State.beginReplay (s : State) (ctx k : Nat) (x : Replay) : State :=
  let now := s.clock
  let s := ((s.ctxGroups ctx).filter fun j => !(s.group j).isHandler).foldl (fun (s : State) j => s.updGroup j fun g =>
    g.mapPaths fun p =>
      if p.state = .frozen ∧ p.freezer = .rewound then
        if j = k ∧ x.on p then p.unsuspend .rewound now else { p with freezer := .debugger }
      else if j = k ∧ x.on p then p else p.suspend .debugger now) s
  s.updCtx ctx fun c => { c with rstep := some x }

/-- RSTEP: the replay to be made, from what the lanes hold now, with the digests of their group's last stop; where the window is older
than the team's own last one, RCNT begins again at each that the team opens on the way (R199). -/
def State.replayOf (s : State) (ctx k : Nat) : Replay :=
  let g := s.group k
  let ls := lanesOf s.host.mask
  let back := s.host.num 20 4
  let c := s.ctx ctx
  let tid := (s.team g.team).tid
  let stop := tget (0, 0) c.stopAt (tid * 16 + g.gid)
  let open_ := (c.openSeq (BitVec.ofNat 32 (s.host.num 16 4))).getD 0
  { team := g.team, gid := g.gid, lanes := s.host.mask,
    targets := ls.map fun l => (l, BitVec.ofNat 32 ((g.lane l).rcnt.toNat - back)),
    origs := ls.map fun l => (l, (g.lane l).rcnt),
    digests := c.ring.filter fun e => e.kind == 7 && e.tid == tid && decide (stop.1 < e.seq) && decide (e.seq ≤ stop.2),
    passes := (c.ring.filter fun e => e.kind == 5 && e.tid == tid && decide (open_ < e.seq)).length }

/-- The lanes of RSTEP are live lanes of its group, and none has retired fewer issues than it is to step back. -/
def State.rstepOk (s : State) (ctx : Nat) : Bool :=
  match s.namedGroup ctx with
  | some k =>
    let g := s.group k
    s.host.mask != 0 && s.host.mask &&& ~~~g.live == 0 &&
    (lanesOf s.host.mask).all fun l => s.host.num 20 4 ≤ (g.lane l).rcnt.toNat
  | none => false

/-- RSTEP: the command ends with the rewind's status, 0 where it was accepted. -/
def execRstep (s : State) : Res :=
  boroivi .rstep [(4, 5), (12, 12)] (·.rstepOk ·)
    (fun s ctx =>
      match s.namedGroup ctx with
      | none => s.mbEnd 1
      | some k =>
        let x := s.replayOf ctx k
        match s.rewind ctx (some x.team) none (BitVec.ofNat 32 (s.host.num 16 4)) false with
        | (s, none) => s.mbWait
        | (s, some w) =>
          if fld w 7 0 != 0 then s.mbDone 0 (bytesOfNat 4 w.toNat)
          else
            let k := (s.groupAt x.team x.gid).getD k
            (s.beginReplay ctx k x).mbDone 0 (bytesOfNat 4 0)) s

/-! WINDOW (R199, R356). -/

/-- SNAP entries of an image (R199). -/
def Image.pieces (i : Image) : Nat :=
  1 + i.groups.foldl (fun n e => n + 2 * e.2.window + e.2.window / 8 + 32) 0 + 16 * i.team.tiles + 384 * i.team.validTiles

/-- Images of every team of a context that has started and not exited, resident or saved. -/
def State.liveImages (s : State) (ctx window : Nat) : List Image :=
  (((s.ctxTeams ctx).filter fun t => (s.team t).stage == .started).map (s.image window)) ++
  (s.ctx ctx).images.map fun (i : Image) => { i with at_ := window }

/-- The snapshots of a context-wide window. -/
def State.snapshotAll (s : State) (ctx : Nat) (ims : List Image) : State :=
  ims.foldl (fun (s : State) i =>
    { (s.updLog ctx fun c => { c.appendPieces s.free (BitVec.ofNat 32 i.at_) i.team.tid i.pieces with snaps := c.snaps ++ [i] }) with
      free := s.free + 1 }) s

/-- The context runs again, unless an escalation keeps it frozen. -/
def State.thaw (s : State) (ctx : Nat) : State :=
  if (s.ctx ctx).escal.isSome then s else s.unsuspend (s.ctxGroups ctx) .management

/-- WINDOW. -/
def execBoroiviWindow (s : State) : Res :=
  boroivi .boroiviWindow [] (fun _ _ => true)
    (fun s ctx =>
      let s := s.suspend (s.ctxGroups ctx) .management
      if !s.quiet (s.ctxTeams ctx) then s.mbWait
      else
        let n := (s.ctx ctx).nextWin
        let ims := s.liveImages ctx n.toNat
        let off (s : State) : State := (s.thaw ctx).mbDone 0 (bytesOfNat 4 0xFFFFFFFF)
        match s.reserve ctx (1 + ims.foldl (fun a i => a + i.pieces) 0) with
        | none => (s.thaw ctx).mbEnd 1
        | some s =>
          if !(s.ctx ctx).logging then off s
          else (((s.updLog ctx fun c => c.openWindow 0 3).snapshotAll ctx ims).thaw ctx).mbDone 0 (bytesOfNat 4 n.toNat)) s

/-! READ and WRITE. -/

/-- The entry of a group that holds a lane. -/
def Group.entryOf (g : Group) (l : Nat) : Option Nat := (g.entries.find? fun e => bit e.2.mask l).map (·.1)

/-- Every lane of a mask is frozen. -/
def Group.lanesFrozen (g : Group) (m : BitVec 32) : Bool :=
  (lanesOf m).all fun l => match g.entryOf l with | some e => (g.path e).state == .frozen | none => false

/-- The class, the index and the lanes of a READ or a WRITE; classes 3 to 5 take the entry of the lowest lane. -/
def State.frozenArgs (s : State) (ctx : Nat) : Option (Nat × Nat) :=
  let h := s.host
  (s.namedGroup ctx).bind fun k =>
    let g := s.group k
    let cls := h.num 9 1
    let e := ((lanesOf h.mask).head?).bind g.entryOf
    if frIndexOk cls (h.num 10 1) g.window && g.lanesFrozen h.mask && (e.isSome || !(3 ≤ cls && cls ≤ 5)) then some (k, e.getD 0)
    else none

/-- The value of a lane in the buffer, or at bytes 64 to 71. -/
def Mgmt.frValue (h : Mgmt) (cls l : Nat) : DWord :=
  BitVec.ofNat 64 (if laneClass cls then h.num (64 + 8 * l) (if cls = 8 then 8 else 4) else h.num 64 (if cls = 3 then 8 else 4))

/-- A value of a lane class, with the bytes it takes. -/
def Lane.frRead (ln : Lane) (cls i : Nat) : List Byte :=
  match cls with
  | 0 => bytesOfNat 4 (ln.reg i).toNat
  | 2 => bytesOfNat 4 ln.predByte.toNat
  | 7 => bytesOfNat 4 (tget 0 ln.marks i).toNat
  | _ => bytesOfNat 8 ln.faultAddr.toNat

/-- A value of the other classes, at bytes 64 to 71. -/
def Group.frRead (g : Group) (e : Path) (cls i : Nat) : List Byte :=
  match cls with
  | 1 => bytesOfNat 8 (g.sreg i).toNat
  | 3 => bytesOfNat 8 (if i = 0 then e.pc else e.clhdr).toNat
  | 4 => bytesOfNat 8 e.mask.toNat
  | 5 => bytesOfNat 8 e.mode.toNat
  | _ => bytesOfNat 8 (g.flag i).toNat

/-- READ waits while the register that it reads is pending, as FRD does (R291). -/
def Group.frPending (g : Group) (cls i : Nat) (m : BitVec 32) : Bool :=
  match cls with
  | 0 => (lanesOf m).any fun l => bit (g.lane l).vPend i
  | 1 => bit g.sPend i
  | _ => false

/-- READ. -/
def execRead (s : State) : Res :=
  boroivi .read [(4, 7), (12, 4)] (fun s ctx => (s.frozenArgs ctx).isSome)
    (fun s ctx =>
      let h := s.host
      let cls := h.num 9 1
      let i := h.num 10 1
      match s.frozenArgs ctx with
      | none => s.mbEnd 1
      | some (k, e) =>
        let g := s.group k
        if g.frPending cls i h.mask then s.mbWait
        else if laneClass cls then
          ((lanesOf h.mask).foldl (fun (s : State) l => s.updHost fun h => h.setBuf (64 + 8 * l) ((g.lane l).frRead cls i)) s).mbEnd 0
        else s.mbDone 64 (g.frRead (g.path e) cls i)) s

/-- A value that WRITE turns away (R180, R186, R291). -/
def frValueOk (cls : Nat) (e : Path) (v : DWord) : Bool :=
  match cls with
  | 3 => pcOk v
  | 4 => loWord v != 0 && loWord v &&& ~~~e.mask == 0
  | 5 => modeLegal (loWord v)
  | 7 => v == 1 || v == 2
  | _ => true

/-- One lane's register takes a value, and loses its pending and poison bits (R180, R291). -/
def State.frWriteLane (s : State) (k cls i l : Nat) (v : Word) : State :=
  match cls with
  | 0 => (s.disown k [.vreg l i 0 false]).onLanes k [l] fun _ ln => { ln.setReg i v with vPend := setBit ln.vPend i false }
  | 2 => (s.disown k ((List.range 7).map fun n => .pred l (n + 1) false false)).onLanes k [l] fun _ ln =>
      { ln with p := v.setWidth 8 ||| 1#8, pPend := 0, pPoison := 0 }
  | _ => s.onLanes k [l] fun _ ln => { ln with marks := tset 0 ln.marks i (v.setWidth 2) }

/-- What belongs to the group or the entry takes a value. -/
def State.frWriteWhole (s : State) (k e cls i : Nat) (v : DWord) : State :=
  match cls with
  | 1 => (s.disown k [.sreg i 0 false]).updGroup k fun f => { f.setSreg i (loWord v) with sPend := setBit f.sPend i false }
  | 3 => s.updPath ⟨k, e⟩ fun p => p.movedTo i v
  | 4 => s.updGroup k fun f => f.shed e (loWord v)
  | _ => s.updPath ⟨k, e⟩ fun p => { p with mode := loWord v }

/-- WRITE: all of it or, where one value is turned away, none. -/
def execWrite (s : State) : Res :=
  boroivi .write [(4, 7), (12, 4)]
    (fun s ctx =>
      let h := s.host
      let cls := h.num 9 1
      match s.frozenArgs ctx with
      | some (k, e) => cls != 6 && cls != 8 &&
        (if laneClass cls then lanesOf h.mask else [0]).all fun l => frValueOk cls ((s.group k).path e) (h.frValue cls l)
      | none => false)
    (fun s ctx =>
      let h := s.host
      let cls := h.num 9 1
      let i := h.num 10 1
      match s.frozenArgs ctx with
      | none => s.mbEnd 1
      | some (k, e) =>
        if laneClass cls then
          ((lanesOf h.mask).foldl (fun (s : State) l => s.frWriteLane k cls i l (loWord (h.frValue cls l))) s).mbEnd 0
        else (s.frWriteWhole k e cls i (h.frValue cls 0)).mbEnd 0) s

/-! REWIND (R202, R204). -/

/-- What a rewind froze is now the debugger's to resume. -/
def State.toDebugger (s : State) (ks : List Nat) : State :=
  s.mapPaths ks fun p => if p.state = .frozen ∧ p.freezer = .rewound then { p with freezer := .debugger } else p

/-- REWIND: the command ends with the status word. -/
def execBoroiviRewind (s : State) : Res :=
  boroivi .boroiviRewind [(0, 1), (4, 4), (16, 4)]
    (fun s ctx =>
      let f := s.host.num 0 1
      f ≤ 3 && (if f / 2 = 1 then s.host.tid == 0
                else s.host.tid < 4194304 && ((s.team (teamKey ctx s.host.tid)).stage != .none && (s.team (teamKey ctx s.host.tid)).stage != .saved)))
    (fun s ctx =>
      let f := s.host.num 0 1
      let team := if f / 2 = 1 then none else some (teamKey ctx s.host.tid)
      match s.rewind ctx team none (BitVec.ofNat 32 (s.host.num 16 4)) (f % 2 == 1) with
      | (s, none) => s.mbWait
      | (s, some w) =>
        let ks := match team with | some t => s.teamGroups t | none => s.ctxGroups ctx
        (if fld w 7 0 = 0 ∨ fld w 7 0 = 7 then s.toDebugger ks else s).mbDone 0 (bytesOfNat 4 w.toNat)) s

/-! MEMREAD and MEMWRITE. -/

/-- Address and length that the buffer names: ordinary or object space. -/
def Mgmt.memArgsOk (h : Mgmt) : Bool := h.num 0 8 < 2 ^ 63 && 1 ≤ h.num 8 4 && h.num 8 4 ≤ 3072

/-- MEMREAD. -/
def execMemread (s : State) : Res :=
  boroivi .memread [(0, 12)] (fun s _ => s.host.memArgsOk)
    (fun s ctx =>
      match s.readRegion (distributor ctx) 1 (BitVec.ofNat 64 (s.host.num 0 8)) (s.host.num 8 4) with
      | (s, .ok segs) => s.mbDone 1024 (s.segBytes segs)
      | (s, .error _) => s.mbEnd 1) s

/-- Where each of `n` bytes from an address stands for a write by the host; none where one has no translation or no permission. A
seal discards the write and is no failure (R270). -/
def State.hostPlaces (ctx : Nat) : Nat → DWord → State → State × Option (List Loc)
  | 0, _, s => (s, some [])
  | n + 1, a, s =>
    let kept := s.sealed
    match State.access { s with sealed := [] } (distributor ctx) .store 1 a with
    | (s, .ok l) =>
      match State.hostPlaces ctx n (a + 1) { s with sealed := kept } with
      | (s, some ls) => (s, some (l :: ls))
      | (s, none) => (s, none)
    | (s, .error _) => ({ s with sealed := kept }, none)

/-- A byte that the host writes through a translation. -/
def State.hostPut (s : State) (l : Loc) (b : Byte) : State :=
  match l with
  | .dev pa => s.hostByte pa b
  | .host pa => (s.setByte (.host pa) b).touch (.host pa)
  | _ => s

/-- MEMWRITE: not logged, and nothing where a byte fails. -/
def execMemwrite (s : State) : Res :=
  boroivi .memwrite [(0, 12)] (fun s _ => s.host.memArgsOk)
    (fun s ctx =>
      match State.hostPlaces ctx (s.host.num 8 4) (BitVec.ofNat 64 (s.host.num 0 8)) s with
      | (s, some ls) => ((ls.zip (s.host.buf 1024 (s.host.num 8 4))).foldl (fun (s : State) e => s.hostPut e.1 e.2) s).mbEnd 0
      | (s, none) => s.mbEnd 1) s

end Sys2Proof.Machine
end

