-- ==== Sys2Proof/Machine/Uniform.lean ====
section
/-! DEFINITION. Uniform arithmetic (R321, R322): one value for the whole group, whatever the guard. -/

namespace Sys2Proof.Machine

/-- The ETYPE reads operands unsigned (R321). -/
def unsignedMode (p : Path) : Bool := eUnsigned (mEtype p.mode)
/-- A word as the integer it stands for under the ETYPE. -/
def uniformInt (p : Path) (x : Word) : Int := if unsignedMode p then (x.toNat : Int) else x.toInt

/-- sD := f(x, y), with x = sA and y the B operand; `late` rejects a value of y. -/
def uniformChecked (late : Word → Bool) (f : Path → Word → Word → Word) (d a : BitVec 8) (b : Opnd) : State → Res :=
  fun s => groupOp (fun g p =>
      { field := isS d && isS a && b.okS p, uses := ((readsRun a 1).and (b.uses 1)).and (writesRun d 1),
        late := fun _ _ => if late (b.word g p) then none else some .illegalOperand })
    (fun g p => g.setSreg (sNum d) (f p (g.sreg (sNum a)) (b.word g p))) s

/-- sD := f(x, y) for every y. -/
def uniform2 (f : Path → Word → Word → Word) (d a : BitVec 8) (b : Opnd) : State → Res :=
  uniformChecked (fun _ => true) f d a b

/-- Bits [63:32] of the product (SMULH). -/
def mulHigh (p : Path) (x y : Word) : Word := BitVec.ofInt 32 (uniformInt p x * uniformInt p y / 2 ^ 32)
/-- The smaller operand. -/
def uniformMin (p : Path) (x y : Word) : Word := if uniformInt p x ≤ uniformInt p y then x else y
/-- The larger operand. -/
def uniformMax (p : Path) (x y : Word) : Word := if uniformInt p x ≤ uniformInt p y then y else x
/-- A comparison by its code 0 to 5 (R321). -/
def condHolds (c : Nat) (x y : Int) : Bool :=
  match c with
  | 0 => x == y
  | 1 => x != y
  | 2 => x < y
  | 3 => x ≤ y
  | 4 => y < x
  | _ => y ≤ x
/-- The field w at o of x (SBFE). -/
def fieldExtract (x y : Word) : Word := BitVec.ofNat 32 (x.toNat / 2 ^ fld y 4 0 % 2 ^ fld y 13 8)
/-- An SBFE selector in its limits (R322). -/
def fieldOk (y : Word) : Bool := fld y 13 8 ≤ 32 && fld y 7 5 == 0 && fld y 31 14 == 0
/-- Number of one bits. -/
def popCount {n : Nat} (x : BitVec n) : Nat := ((List.range n).filter fun i => x.getLsbD i).length

/-- SCMP (R321, R322). -/
def uniformCmp (c q : BitVec 3) (a : BitVec 8) (b : Opnd) : State → Res :=
  fun s => groupOp (fun _ p =>
      { field := c.toNat ≤ 5 && q != 0 && isS a && b.okS p, uses := (readsRun a 1).and (b.uses 1) })
    (fun g p => g.setQ q.toNat (condHolds c.toNat (uniformInt p (g.sreg (sNum a))) (uniformInt p (b.word g p)))) s

/-- SSEL: sD is also read (R322). -/
def uniformSel (d : BitVec 8) (n : BitVec 3) (b : Opnd) : State → Res :=
  fun s => groupOp (fun _ p =>
      { field := isS d && b.okS p, uses := ((readsRun d 1).and (b.uses 1)).and (writesRun d 1) })
    (fun g p => g.setSreg (sNum d) (if g.qpred n.toNat then b.word g p else g.sreg (sNum d))) s

/-- SMOV. -/
def uniformMov (d : BitVec 8) (b : Opnd) : State → Res :=
  fun s => groupOp (fun _ p => { field := isS d && b.okS p, uses := (b.uses 1).and (writesRun d 1) })
    (fun g p => g.setSreg (sNum d) (b.word g p)) s

/-- SADD64 on even pairs. -/
def uniformAdd64 (d a : BitVec 8) (b : Opnd) : State → Res :=
  fun s => groupOp (fun _ p =>
      { field := isSPair d && isSPair a && b.okS64 p, uses := ((readsRun a 2).and (b.uses 2)).and (writesRun d 2) })
    (fun g p => g.setSpair (sNum d) (g.spair (sNum a) + b.dword g p)) s

/-- SPOPC. -/
def execSpopc (d a : BitVec 8) (s : State) : Res :=
  groupOp (fun _ _ => { field := isS d && isS a, uses := (readsRun a 1).and (writesRun d 1) })
    (fun g _ => g.setSreg (sNum d) (BitVec.ofNat 32 (popCount (g.sreg (sNum a))))) s

/-- SADD, register form (R321). -/
def execSadd (d a b : BitVec 8) (s : State) : Res := uniform2 (fun _ x y => x + y) d a (.reg b) s

/-- SADD, K form (R321). -/
def execSaddK (d a k : BitVec 8) (s : State) : Res := uniform2 (fun _ x y => x + y) d a (.k k) s

/-- SSUB, register form (R321). -/
def execSsub (d a b : BitVec 8) (s : State) : Res := uniform2 (fun _ x y => x - y) d a (.reg b) s

/-- SSUB, K form (R321). -/
def execSsubK (d a k : BitVec 8) (s : State) : Res := uniform2 (fun _ x y => x - y) d a (.k k) s

/-- SMUL, register form (R321). -/
def execSmul (d a b : BitVec 8) (s : State) : Res := uniform2 (fun _ x y => x * y) d a (.reg b) s

/-- SMUL, K form (R321). -/
def execSmulK (d a k : BitVec 8) (s : State) : Res := uniform2 (fun _ x y => x * y) d a (.k k) s

/-- SMULH, register form (R321). -/
def execSmulh (d a b : BitVec 8) (s : State) : Res := uniform2 mulHigh d a (.reg b) s

/-- SAND, register form (R321). -/
def execSand (d a b : BitVec 8) (s : State) : Res := uniform2 (fun _ x y => x &&& y) d a (.reg b) s

/-- SAND, K form (R321). -/
def execSandK (d a k : BitVec 8) (s : State) : Res := uniform2 (fun _ x y => x &&& y) d a (.k k) s

/-- SOR, register form (R321). -/
def execSor (d a b : BitVec 8) (s : State) : Res := uniform2 (fun _ x y => x ||| y) d a (.reg b) s

/-- SOR, K form (R321). -/
def execSorK (d a k : BitVec 8) (s : State) : Res := uniform2 (fun _ x y => x ||| y) d a (.k k) s

/-- SXOR, register form (R321). -/
def execSxor (d a b : BitVec 8) (s : State) : Res := uniform2 (fun _ x y => x ^^^ y) d a (.reg b) s

/-- SXOR, K form (R321). -/
def execSxorK (d a k : BitVec 8) (s : State) : Res := uniform2 (fun _ x y => x ^^^ y) d a (.k k) s

/-- SSHL, register form (R321). -/
def execSshl (d a b : BitVec 8) (s : State) : Res := uniform2 (fun _ x y => x <<< fld y 4 0) d a (.reg b) s

/-- SSHL, K form (R321). -/
def execSshlK (d a k : BitVec 8) (s : State) : Res := uniform2 (fun _ x y => x <<< fld y 4 0) d a (.k k) s

/-- SSHR, register form (R321). -/
def execSshr (d a b : BitVec 8) (s : State) : Res := uniform2 (fun _ x y => x >>> fld y 4 0) d a (.reg b) s

/-- SSHR, K form (R321). -/
def execSshrK (d a k : BitVec 8) (s : State) : Res := uniform2 (fun _ x y => x >>> fld y 4 0) d a (.k k) s

/-- SSRA, register form (R321). -/
def execSsra (d a b : BitVec 8) (s : State) : Res := uniform2 (fun _ x y => x.sshiftRight (fld y 4 0)) d a (.reg b) s

/-- SSRA, K form (R321). -/
def execSsraK (d a k : BitVec 8) (s : State) : Res := uniform2 (fun _ x y => x.sshiftRight (fld y 4 0)) d a (.k k) s

/-- SMIN, register form (R321). -/
def execSmin (d a b : BitVec 8) (s : State) : Res := uniform2 uniformMin d a (.reg b) s

/-- SMIN, K form (R321). -/
def execSminK (d a k : BitVec 8) (s : State) : Res := uniform2 uniformMin d a (.k k) s

/-- SMAX, register form (R321). -/
def execSmax (d a b : BitVec 8) (s : State) : Res := uniform2 uniformMax d a (.reg b) s

/-- SMAX, K form (R321). -/
def execSmaxK (d a k : BitVec 8) (s : State) : Res := uniform2 uniformMax d a (.k k) s

/-- SBFE, register form (R321). -/
def execSbfe (d a b : BitVec 8) (s : State) : Res := uniformChecked fieldOk (fun _ x y => fieldExtract x y) d a (.reg b) s

/-- SBFE, K form (R321). -/
def execSbfeK (d a k : BitVec 8) (s : State) : Res := uniformChecked fieldOk (fun _ x y => fieldExtract x y) d a (.k k) s

/-- SCMP, register form (R321). -/
def execScmp (c q : BitVec 3) (a b : BitVec 8) (s : State) : Res := uniformCmp c q a (.reg b) s

/-- SCMP, K form (R321). -/
def execScmpK (c q : BitVec 3) (a k : BitVec 8) (s : State) : Res := uniformCmp c q a (.k k) s

/-- SSEL, register form (R321). -/
def execSsel (d : BitVec 8) (n : BitVec 3) (b : BitVec 8) (s : State) : Res := uniformSel d n (.reg b) s

/-- SSEL, K form (R321). -/
def execSselK (d : BitVec 8) (n : BitVec 3) (k : BitVec 8) (s : State) : Res := uniformSel d n (.k k) s

/-- SMOV, register form (R321). -/
def execSmov (d b : BitVec 8) (s : State) : Res := uniformMov d (.reg b) s

/-- SMOV, K form (R321). -/
def execSmovK (d k : BitVec 8) (s : State) : Res := uniformMov d (.k k) s

/-- SADD64, register form (R321). -/
def execSadd64 (d a b : BitVec 8) (s : State) : Res := uniformAdd64 d a (.reg b) s

/-- SADD64, K form (R321). -/
def execSadd64K (d a k : BitVec 8) (s : State) : Res := uniformAdd64 d a (.k k) s

end Sys2Proof.Machine
end

