-- ==== Sys2Proof/Machine/VectorInt.lean ====
section
/-! DEFINITION. Vector integer instructions (R347 to R349, R243): one operation over the live elements of each active lane. -/

namespace Sys2Proof.Machine

/-- Replace every live element of a register image (R65, R86); dead elements keep their bits. -/
def mapLive (e live : Nat) (d : DWord) (f : Nat → Nat) : DWord :=
  (List.range (eCount e)).foldl (fun x h => if eLive e live h then putElem e h x (f h) else x) d

/-- What a vector instruction computes of one element: ETYPE, SAT, and the elements x, y, d. -/
abbrev ElemFn := Nat → Bool → Nat → Nat → Nat → Nat

/-- The ETYPE by which the registers of an instruction are single or pairs: only the vector integer instructions take pairs under
i64 and n64 (R347, R288, R243). -/
def pairType (pairs : Bool) (e : Nat) : Nat := if pairs then e else 0

/-- The checks of `vD, vA, B` (R347): operands of their kinds, the ETYPE admitted, and vD read where `readsD` says so. -/
def vecChecks (admits : Nat → Bool) (readsD : Bool) (d a : BitVec 8) (b : Opnd) (g : Group) (p : Path) : Checks :=
  let e := mEtype p.mode
  let k := pairType (admits 0) e
  { field := isVE k g d && isVE k g a && b.okV k g p,
    mode := admits e,
    uses := (((readsRun a (eRegs e)).and (b.uses (eRegs e))).and (if readsD then readsRun d (eRegs e) else {})).and
      (writesRun d (eRegs e)) }

/-- vD := f(vA, B, vD) in one lane. -/
def vecLane (f : ElemFn) (d a : BitVec 8) (b : Opnd) (g : Group) (p : Path) (ln : Lane) : Lane :=
  let e := mEtype p.mode
  let x := ln.image e a.toNat
  let y := b.image e g p ln
  let z := ln.image e d.toNat
  ln.setImage e d.toNat (mapLive e (mLive p.mode) z fun h => f e (mSat p.mode) (elemOf e h x) (elemOf e h y) (elemOf e h z))

/-- A vector integer instruction `vD, vA, B`. -/
def vec3 (admits : Nat → Bool) (readsD : Bool) (f : ElemFn) (d a : BitVec 8) (b : Opnd) : State → Res :=
  laneOp (vecChecks admits readsD d a b) (fun g p _ ln => vecLane f d a b g p ln)

/-- A vector instruction `vD, vA` with no B. -/
def vec2 (admits : Nat → Bool) (f : ElemFn) (d a : BitVec 8) : State → Res :=
  laneOp (fun g p =>
      let e := mEtype p.mode
      let k := pairType (admits 2) e
      { field := isVE k g d && isVE k g a, mode := admits e,
        uses := (readsRun a (eRegs e)).and (writesRun d (eRegs e)) })
    (fun g p _ ln => vecLane f d a (.reg a) g p ln)

/-! Elements. -/

/-- i32 and n32 alone. -/
def only32 (e : Nat) : Bool := e ≤ 1
/-- An exact integer function, brought into the type (R94). -/
def exactInt (f : Int → Int → Int → Int) : ElemFn := fun e sat x y d => intoType e sat (f (elemInt e x) (elemInt e y) (elemInt e d))
/-- A function of the bits. -/
def bitwise (f : Nat → Nat → Nat) : ElemFn := fun _ _ x y _ => f x y
/-- VMULH: the upper half of the exact product. -/
def elemMulHigh : ElemFn := fun e _ x y _ => wrapTo (eWidth e) (elemInt e x * elemInt e y / 2 ^ eWidth e)
/-- VSHL. -/
def elemShl : ElemFn := fun e _ x y _ => x * 2 ^ (y % eWidth e)
/-- VSHR: zero fill. -/
def elemShr : ElemFn := fun e _ x y _ => x / 2 ^ (y % eWidth e)
/-- VSRA: sign fill, whatever the type. -/
def elemSra : ElemFn := fun e _ x y _ => wrapTo (eWidth e) (signedOf (eWidth e) x / 2 ^ (y % eWidth e))
/-- VBFE: the field of width w at o; sign-extended from its top bit for i32. -/
def elemBfe : ElemFn := fun e _ x y _ =>
  let o := y % 32
  let w := y / 256 % 64
  let v := x / 2 ^ o % 2 ^ w
  if e = 0 ∧ w ≠ 0 then wrapTo 32 (signedOf w v) else v
/-- VBFI: bits [o + w − 1 : o] of d replaced by the low bits of x; what lies above bit 31 is dropped. -/
def elemBfi : ElemFn := fun _ _ x y d =>
  let o := y % 32
  let w := min (y / 256 % 64) (32 - o)
  d - d / 2 ^ o % 2 ^ w * 2 ^ o + x % 2 ^ w * 2 ^ o

/-- VBFE and VBFI: the selector in B is within its limits in the lane, else ILLEGAL-OPERAND (R348). -/
def fieldOp (readsD : Bool) (f : ElemFn) (d a : BitVec 8) (b : Opnd) : State → Res :=
  laneOp (fun g p => { vecChecks only32 readsD d a b g p with
      late := fun _ ln => if fieldOk (loWord (b.image 0 g p ln)) then none else some .illegalOperand })
    (fun g p _ ln => vecLane f d a b g p ln)

/-- VSEL: y where pN is true in the lane, d otherwise; under every ETYPE. -/
def vselOp (d : BitVec 8) (n : BitVec 3) (b : Opnd) : State → Res :=
  laneOp (fun g p =>
      let e := mEtype p.mode
      { field := isVE e g d && b.okV e g p,
        uses := (((b.uses (eRegs e)).and (readsRun d (eRegs e))).and { pr := [n.toNat] }).and (writesRun d (eRegs e)) })
    (fun g p _ ln => if ln.pred n.toNat then vecLane (fun _ _ _ y _ => y) d d b g p ln
                     else vecLane (fun _ _ _ _ z => z) d d b g p ln)

/-- VMOV: y; under every ETYPE. -/
def vmovOp (d : BitVec 8) (b : Opnd) : State → Res :=
  laneOp (fun g p =>
      let e := mEtype p.mode
      { field := isVE e g d && b.okV e g p, uses := (b.uses (eRegs e)).and (writesRun d (eRegs e)) })
    (fun g p _ ln => vecLane (fun _ _ _ y _ => y) d d b g p ln)

/-- A comparison of every live element writes a predicate (R349, R290). -/
def cmpOp (admits : Nat → Bool) (condOk : Bool) (holds : Path → Nat → Nat → Bool × FFlags) (q : BitVec 3) (a : BitVec 8)
    (b : Opnd) : State → Res :=
  laneOp (fun g p =>
      let e := mEtype p.mode
      let k := pairType (admits 0) e
      { field := condOk && q != 0 && isVE k g a && b.okV k g p, mode := admits e,
        uses := ((readsRun a (eRegs e)).and (b.uses (eRegs e))).and { pw := [q.toNat] } })
    (fun g p _ ln =>
      let e := mEtype p.mode
      let x := ln.image e a.toNat
      let y := b.image e g p ln
      let rs := ((List.range (eCount e)).filter (eLive e (mLive p.mode))).map fun h => holds p (elemOf e h x) (elemOf e h y)
      (ln.raise (rs.foldl (fun f r => f.or r.2) {})).setPred q.toNat (rs.all (·.1)))

/-- VCMP: signed for i types, unsigned for n types; no flag. -/
def vcmpOp (c q : BitVec 3) (a : BitVec 8) (b : Opnd) : State → Res :=
  cmpOp eInt (c.toNat ≤ 5)
    (fun p x y => (condHolds c.toNat (elemInt (mEtype p.mode) x) (elemInt (mEtype p.mode) y), {})) q a b

/-- Zero bits above the highest one bit. -/
def leadingZeros (x : Nat) : Nat := 32 - (if x = 0 then 0 else Nat.log2 x + 1)

/-! The instructions. -/

/-- VADD (R348). -/
def execVadd (d a b : BitVec 8) (s : State) : Res := vec3 eInt false (exactInt fun x y _ => x + y) d a (.reg b) s

/-- VADD, K form (R348). -/
def execVaddK (d a k : BitVec 8) (s : State) : Res := vec3 eInt false (exactInt fun x y _ => x + y) d a (.k k) s

/-- VSUB (R348). -/
def execVsub (d a b : BitVec 8) (s : State) : Res := vec3 eInt false (exactInt fun x y _ => x - y) d a (.reg b) s

/-- VSUB, K form (R348). -/
def execVsubK (d a k : BitVec 8) (s : State) : Res := vec3 eInt false (exactInt fun x y _ => x - y) d a (.k k) s

/-- VMUL (R348). -/
def execVmul (d a b : BitVec 8) (s : State) : Res := vec3 eInt false (exactInt fun x y _ => x * y) d a (.reg b) s

/-- VMUL, K form (R348). -/
def execVmulK (d a k : BitVec 8) (s : State) : Res := vec3 eInt false (exactInt fun x y _ => x * y) d a (.k k) s

/-- VMULH (R348). -/
def execVmulh (d a b : BitVec 8) (s : State) : Res := vec3 (fun e => eInt e && !eWide e) false elemMulHigh d a (.reg b) s

/-- VMAD (R348). -/
def execVmad (d a b : BitVec 8) (s : State) : Res := vec3 eInt true (exactInt fun x y d => x * y + d) d a (.reg b) s

/-- VMAD, K form (R348). -/
def execVmadK (d a k : BitVec 8) (s : State) : Res := vec3 eInt true (exactInt fun x y d => x * y + d) d a (.k k) s

/-- VAND (R348). -/
def execVand (d a b : BitVec 8) (s : State) : Res := vec3 (fun _ => true) false (bitwise fun x y => x &&& y) d a (.reg b) s

/-- VAND, K form (R348). -/
def execVandK (d a k : BitVec 8) (s : State) : Res := vec3 (fun _ => true) false (bitwise fun x y => x &&& y) d a (.k k) s

/-- VOR (R348). -/
def execVor (d a b : BitVec 8) (s : State) : Res := vec3 (fun _ => true) false (bitwise fun x y => x ||| y) d a (.reg b) s

/-- VOR, K form (R348). -/
def execVorK (d a k : BitVec 8) (s : State) : Res := vec3 (fun _ => true) false (bitwise fun x y => x ||| y) d a (.k k) s

/-- VXOR (R348). -/
def execVxor (d a b : BitVec 8) (s : State) : Res := vec3 (fun _ => true) false (bitwise fun x y => x ^^^ y) d a (.reg b) s

/-- VXOR, K form (R348). -/
def execVxorK (d a k : BitVec 8) (s : State) : Res := vec3 (fun _ => true) false (bitwise fun x y => x ^^^ y) d a (.k k) s

/-- VSHL (R348). -/
def execVshl (d a b : BitVec 8) (s : State) : Res := vec3 eInt false elemShl d a (.reg b) s

/-- VSHL, K form (R348). -/
def execVshlK (d a k : BitVec 8) (s : State) : Res := vec3 eInt false elemShl d a (.k k) s

/-- VSHR (R348). -/
def execVshr (d a b : BitVec 8) (s : State) : Res := vec3 eInt false elemShr d a (.reg b) s

/-- VSHR, K form (R348). -/
def execVshrK (d a k : BitVec 8) (s : State) : Res := vec3 eInt false elemShr d a (.k k) s

/-- VSRA (R348). -/
def execVsra (d a b : BitVec 8) (s : State) : Res := vec3 eInt false elemSra d a (.reg b) s

/-- VSRA, K form (R348). -/
def execVsraK (d a k : BitVec 8) (s : State) : Res := vec3 eInt false elemSra d a (.k k) s

/-- VMIN (R348). -/
def execVmin (d a b : BitVec 8) (s : State) : Res := vec3 eInt false (exactInt fun x y _ => min x y) d a (.reg b) s

/-- VMIN, K form (R348). -/
def execVminK (d a k : BitVec 8) (s : State) : Res := vec3 eInt false (exactInt fun x y _ => min x y) d a (.k k) s

/-- VMAX (R348). -/
def execVmax (d a b : BitVec 8) (s : State) : Res := vec3 eInt false (exactInt fun x y _ => max x y) d a (.reg b) s

/-- VMAX, K form (R348). -/
def execVmaxK (d a k : BitVec 8) (s : State) : Res := vec3 eInt false (exactInt fun x y _ => max x y) d a (.k k) s

/-- VBFE (R348). -/
def execVbfe (d a b : BitVec 8) (s : State) : Res := fieldOp false elemBfe d a (.reg b) s

/-- VBFE, K form (R348). -/
def execVbfeK (d a k : BitVec 8) (s : State) : Res := fieldOp false elemBfe d a (.k k) s

/-- VBFI (R348). -/
def execVbfi (d a b : BitVec 8) (s : State) : Res := fieldOp true elemBfi d a (.reg b) s

/-- VBFI, K form (R348). -/
def execVbfiK (d a k : BitVec 8) (s : State) : Res := fieldOp true elemBfi d a (.k k) s

/-- VABS (R348). -/
def execVabs (d a : BitVec 8) (s : State) : Res := vec2 eInt (exactInt fun x _ _ => x.natAbs) d a s

/-- VNEG (R348). -/
def execVneg (d a : BitVec 8) (s : State) : Res := vec2 eInt (exactInt fun x _ _ => -x) d a s

/-- VPOPC (R243). -/
def execVpopc (d a : BitVec 8) (s : State) : Res := vec2 only32 (fun _ _ x _ _ => popCount (BitVec.ofNat 32 x)) d a s

/-- VCLZ (R243). -/
def execVclz (d a : BitVec 8) (s : State) : Res := vec2 only32 (fun _ _ x _ _ => leadingZeros x) d a s

/-- VCMP (R349). -/
def execVcmp (c p : BitVec 3) (a b : BitVec 8) (s : State) : Res := vcmpOp c p a (.reg b) s

/-- VCMP, K form (R349). -/
def execVcmpK (c p : BitVec 3) (a k : BitVec 8) (s : State) : Res := vcmpOp c p a (.k k) s

/-- VSEL (R348). -/
def execVsel (d : BitVec 8) (n : BitVec 3) (b : BitVec 8) (s : State) : Res := vselOp d n (.reg b) s

/-- VSEL, K form (R348). -/
def execVselK (d : BitVec 8) (n : BitVec 3) (k : BitVec 8) (s : State) : Res := vselOp d n (.k k) s

/-- VMOV (R348). -/
def execVmov (d b : BitVec 8) (s : State) : Res := vmovOp d (.reg b) s

/-- VMOV, K form (R348). -/
def execVmovK (d k : BitVec 8) (s : State) : Res := vmovOp d (.k k) s

end Sys2Proof.Machine
end

