-- ==== Sys2Proof/Machine/VectorFloat.lean ====
section
/-! DEFINITION. Vector floating point (R288 to R290): one operation over the live elements of each active lane. -/

namespace Sys2Proof.Machine

/-- Results of the live elements of a packed value, with the flags of all of them (R95); dead elements keep their bits. -/
def mapLiveF (e live : Nat) (d : DWord) (f : Nat → Nat × FFlags) : DWord × FFlags :=
  (List.range (eCount e)).foldl (fun (x : DWord × FFlags) h =>
    if eLive e live h then (putElem e h x.1 (f h).1, x.2.or (f h).2) else x) (d, {})

/-- vD := o(vA, B) or o(vA, B, vD) in one lane. -/
def floatLane (o : FOp) (d a : BitVec 8) (b : Opnd) (g : Group) (p : Path) (ln : Lane) : Lane :=
  let e := mEtype p.mode
  let x := ln.image e a.toNat
  let y := b.image e g p ln
  let z := ln.image e d.toNat
  let r := mapLiveF e (mLive p.mode) z fun h =>
    o.elem (fmtOf e) (mRnd p.mode) (g.srBits p ln (eCount e) h) (mFtz p.mode) (mSat p.mode) (elemOf e h x) (elemOf e h y)
      (elemOf e h z)
  (ln.setImage e d.toNat r.1).raise r.2

/-- A floating-point instruction `vD, vA, B`; FFMA also reads vD. -/
def float3 (o : FOp) (d a : BitVec 8) (b : Opnd) : State → Res :=
  laneOp (vecChecks eFloat (o == .fma) d a b) (fun g p _ ln => floatLane o d a b g p ln)

/-- A floating-point instruction `vD, vA`. -/
def float2 (o : UOp) (d a : BitVec 8) : State → Res :=
  laneOp (fun g p =>
      let e := mEtype p.mode
      { field := isV g d && isV g a, mode := eFloat e,
        uses := (readsRun a (eRegs e)).and (writesRun d (eRegs e)) })
    (fun g p _ ln =>
      let e := mEtype p.mode
      let x := ln.image e a.toNat
      let r := mapLiveF e (mLive p.mode) (ln.image e d.toNat) fun h =>
        o.elem (fmtOf e) (mRnd p.mode) (g.srBits p ln (eCount e) h) (mFtz p.mode) (mSat p.mode) (elemOf e h x)
      (ln.setImage e d.toNat r.1).raise r.2)

/-- FCMP (R290): every condition code has a meaning. -/
def fcmpOp (c q : BitVec 3) (a : BitVec 8) (b : Opnd) : State → Res :=
  cmpOp eFloat true (fun p x y => fcmpElem (fmtOf (mEtype p.mode)) (mFtz p.mode) c.toNat x y) q a b

/-! The instructions. -/

/-- FADD (R289). -/
def execFadd (d a b : BitVec 8) (s : State) : Res := float3 .add d a (.reg b) s

/-- FADD, K form (R289). -/
def execFaddK (d a k : BitVec 8) (s : State) : Res := float3 .add d a (.k k) s

/-- FSUB (R289). -/
def execFsub (d a b : BitVec 8) (s : State) : Res := float3 .sub d a (.reg b) s

/-- FSUB, K form (R289). -/
def execFsubK (d a k : BitVec 8) (s : State) : Res := float3 .sub d a (.k k) s

/-- FMUL (R289). -/
def execFmul (d a b : BitVec 8) (s : State) : Res := float3 .mul d a (.reg b) s

/-- FMUL, K form (R289). -/
def execFmulK (d a k : BitVec 8) (s : State) : Res := float3 .mul d a (.k k) s

/-- FFMA (R289). -/
def execFfma (d a b : BitVec 8) (s : State) : Res := float3 .fma d a (.reg b) s

/-- FFMA, K form (R289). -/
def execFfmaK (d a k : BitVec 8) (s : State) : Res := float3 .fma d a (.k k) s

/-- FMIN (R289). -/
def execFmin (d a b : BitVec 8) (s : State) : Res := float3 .min d a (.reg b) s

/-- FMIN, K form (R289). -/
def execFminK (d a k : BitVec 8) (s : State) : Res := float3 .min d a (.k k) s

/-- FMAX (R289). -/
def execFmax (d a b : BitVec 8) (s : State) : Res := float3 .max d a (.reg b) s

/-- FMAX, K form (R289). -/
def execFmaxK (d a k : BitVec 8) (s : State) : Res := float3 .max d a (.k k) s

/-- FCMP (R290). -/
def execFcmp (c p : BitVec 3) (a b : BitVec 8) (s : State) : Res := fcmpOp c p a (.reg b) s

/-- FCMP, K form (R290). -/
def execFcmpK (c p : BitVec 3) (a k : BitVec 8) (s : State) : Res := fcmpOp c p a (.k k) s

/-- FRCP (R289). -/
def execFrcp (d a : BitVec 8) (s : State) : Res := float2 .rcp d a s

/-- FRSQ (R289). -/
def execFrsq (d a : BitVec 8) (s : State) : Res := float2 .rsq d a s

/-- FSQRT (R289). -/
def execFsqrt (d a : BitVec 8) (s : State) : Res := float2 .sqrt d a s

/-- FEXP2 (R289). -/
def execFexp2 (d a : BitVec 8) (s : State) : Res := float2 .exp2 d a s

/-- FLOG2 (R289). -/
def execFlog2 (d a : BitVec 8) (s : State) : Res := float2 .log2 d a s

/-- FSIN (R289). -/
def execFsin (d a : BitVec 8) (s : State) : Res := float2 .sin d a s

/-- FCOS (R289). -/
def execFcos (d a : BitVec 8) (s : State) : Res := float2 .cos d a s

/-- FTANH (R289). -/
def execFtanh (d a : BitVec 8) (s : State) : Res := float2 .tanh d a s

/-- FSIGM (R289). -/
def execFsigm (d a : BitVec 8) (s : State) : Res := float2 .sigm d a s

end Sys2Proof.Machine
end

