-- ==== Sys2Proof/Machine/Convert.lean ====
section
/-! DEFINITION. Conversions: CVT (R284, R285), QUANT (R99, R315), DEQ (R286), PACK (R313) and UNPK (R346), by R96 and R97. -/

namespace Sys2Proof.Machine

/-- What a conversion reads from or writes into: an ETYPE's element, or a binary8 format. -/
inductive Elem where
  | of (e : Nat)
  | b8 (f : B8)
  deriving DecidableEq, Repr

/-- Width of one element. -/
def Elem.width : Elem → Nat
  | .of e => eWidth e
  | .b8 _ => 8

/-- The value of an element: an integer, or a floating-point value, whose subnormals FTZ reads as zero; a binary8 value
is never flushed (R94). -/
def Elem.read (t : Elem) (ftz : Bool) (x : Nat) : FV × Option Int :=
  match t with
  | .b8 f => (f.read x, none)
  | .of e => if eInt e then (FV.ofInt (elemInt e x), some (elemInt e x)) else ((fmtOf e).read ftz x, none)

/-- A value converted into an element (R96, R97): rounded once; a signalling NaN raises NV (R87). -/
def Elem.write (t : Elem) (rnd r16 : Nat) (ftz sat : Bool) (v : FV × Option Int) : Nat × FFlags :=
  match t with
  | .b8 f => let r := f.write rnd r16 v.1; (r.1, r.2.or { nv := v.1.isSnan })
  | .of e =>
    if eInt e then
      match v.2 with
      | some i => (intoType e sat i, {})
      | none => intoInt e rnd r16 v.1
    else let r := (fmtOf e).write rnd r16 ftz sat v.1; (r.1, r.2.or { nv := v.1.isSnan })

/-- Element h of width w of a run read as one little-endian number. -/
def runElem (w h x : Nat) : Nat := x / 2 ^ (w * h) % 2 ^ w
/-- The run with element h replaced. -/
def putRun (w h x y : Nat) : Nat := x - runElem w h x * 2 ^ (w * h) + y % 2 ^ w * 2 ^ (w * h)
/-- The registers from r upward as one number. -/
def Lane.run (ln : Lane) (r n : Nat) : Nat := natOfBytes ((List.range n).flatMap fun i => bytesOfNat 4 (ln.reg (r + i)).toNat)
/-- Write registers from r upward. -/
def Lane.setRun (ln : Lane) (r n x : Nat) : Lane :=
  (List.range n).foldl (fun ln i => ln.setReg (r + i) (BitVec.ofNat 32 (x / 2 ^ (32 * i)))) ln

/-- Elements h < n converted, with the flags of all of them: `live` keeps the old bits of the others. -/
def convertRun (src dst : Elem) (n : Nat) (live : Nat → Bool) (rnd : Nat) (ftzIn ftzOut sat : Bool) (r16 : Nat → Nat)
    (x old : Nat) : Nat × FFlags :=
  (List.range n).foldl (fun (y : Nat × FFlags) h =>
    if live h then
      let r := dst.write rnd (r16 h) ftzOut sat (src.read ftzIn (runElem src.width h x))
      (putRun dst.width h y.1 r.1, y.2.or r.2)
    else y) (old, {})

/-- CVT's selector (R284). -/
def cvtTarget (b : BitVec 8) : Option Elem :=
  if bit b 7 then (b8Of b.toNat).map .b8
  else if b.toNat ≤ 10 then some (.of b.toNat) else none

/-- CVT (R284, R285). -/
def cvtOp (d a b : BitVec 8) : State → Res :=
  let dst := (cvtTarget b).getD (.of 0)
  let regs (e : Nat) := max 1 (eCount e * dst.width / 32)
  laneOp (fun g p =>
      let e := mEtype p.mode
      { field := (cvtTarget b).isSome && isVE e g a && isRun g d (regs e) (regs e),
        uses := (readsRun a (eRegs e)).and (writesRun d (regs e)) })
    (fun g p _ ln =>
      let e := mEtype p.mode
      let c := eCount e
      let ftz := mFtz p.mode
      let old := ln.run d.toNat (regs e) % 2 ^ (c * dst.width)
      let r := convertRun (.of e) dst c (eLive e (mLive p.mode)) (mRnd p.mode) ftz ftz (mSat p.mode) (g.srBits p ln c)
        (ln.image e a.toNat).toNat old
      (ln.setRun d.toNat (regs e) r.1).raise r.2)

/-- PACK's and UNPK's selector (R313): binary8, BF16, FP16, i8 or n8. -/
def packFormat (b : BitVec 8) : Option Elem :=
  if bit b 7 then (b8Of b.toNat).map .b8
  else match b.toNat with
    | 0 => some (.of 10)
    | 1 => some (.of 9)
    | 2 => some (.of 6)
    | 3 => some (.of 7)
    | _ => none

/-- ETYPEs of PACK and UNPK: f32, i32, n32. -/
def single32 (e : Nat) : Bool := e == 0 || e == 1 || e == 8

/-- PACK (R313). -/
def packOp (d a b : BitVec 8) : State → Res :=
  let t := (packFormat b).getD (.of 6)
  let n := 32 / t.width
  laneOp (fun g p => { field := (packFormat b).isSome && isV g d && isRun g a n n, mode := single32 (mEtype p.mode),
                       uses := (readsRun a n).and (writesRun d 1) })
    (fun g p _ ln =>
      let ftz := mFtz p.mode
      let r := convertRun (.of (mEtype p.mode)) t n (fun _ => true) (mRnd p.mode) ftz ftz (mSat p.mode) (g.srBits p ln n)
        (ln.run a.toNat n) 0
      (ln.setRun d.toNat 1 r.1).raise r.2)

/-- UNPK (R346): SAT and LIVE are not read, and FTZ acts on inputs alone. -/
def unpkOp (d a b : BitVec 8) : State → Res :=
  let t := (packFormat b).getD (.of 6)
  let n := 32 / t.width
  laneOp (fun g p => { field := (packFormat b).isSome && isV g a && isRun g d n n, mode := single32 (mEtype p.mode),
                       uses := (readsRun a 1).and (writesRun d n) })
    (fun g p _ ln =>
      let r := convertRun t (.of (mEtype p.mode)) n (fun _ => true) (mRnd p.mode) (mFtz p.mode) false false
        (g.srBits p ln n) (ln.reg a.toNat).toNat 0
      (ln.setRun d.toNat n r.1).raise r.2)

/-- The word in B of DEQ: a vector or a uniform register. -/
def Group.regWord (g : Group) (ln : Lane) (b : BitVec 8) : Word := if isS b then g.sreg (sNum b) else ln.reg b.toNat

/-- DEQ (R286): four codes times one scale. -/
def deqOp (d a b : BitVec 8) : State → Res :=
  laneOp (fun g p => { field := isRun g d 4 4 && isV g a && isReg g b, mode := mEtype p.mode == 7,
                       uses := ((readsRun a 1).and (readsRun b 1)).and (writesRun d 4),
                       late := fun _ ln =>
                         let w := g.regWord ln b
                         if fld w 31 16 = 0 ∧ (b8Of (fld w 7 0)).isSome then none else some .illegalOperand })
    (fun g p _ ln =>
      let w := g.regWord ln b
      let f := (b8Of (fld w 7 0)).getD ⟨1, false, false, 0⟩
      let x := (ln.reg a.toNat).toNat
      ((List.range 4).filter (eLive 7 (mLive p.mode))).foldl (fun t h =>
        let v := (f.read (runElem 8 h x)).mul (scaleOf (fld w 15 8))
        let r := fmt32.write (mRnd p.mode) (g.srBits p ln 4 h) (mFtz p.mode) (mSat p.mode) v.1
        (t.setReg (d.toNat + h) (BitVec.ofNat 32 r.1)).raise (r.2.or { nv := v.2 })) ln)

/-! The block quantiser (R99). -/

/-- A value times 2^n. -/
def FV.scale (v : FV) (n : Int) : FV := match v with | .fin s m e => .fin s m (e + n) | v => v
/-- |v|. -/
def FV.abs (v : FV) : FV := if v.isNeg then v.neg else v

/-- ceil(log2(a / b)) of two positive values. -/
def ceilLog2 (a b : FV) : Int :=
  match a, b with
  | .fin _ m e, .fin _ n f =>
    let k := leadExp m e - leadExp n f
    if (b.scale k).lt a then k + 1 else k
  | _, _ => 0

/-- The codes of a block under the scale 2^e: RNE and SATFINITE. -/
def quantCodes (f : B8) (e : Int) (xs : List FV) : List Nat :=
  xs.map fun x => ({ f with ovf := 0 }.write 0 0 (x.scale (-e))).1

/-- Summed squared error of a block's codes, each step rounded to f32 by RNE. -/
def quantError (f : B8) (e : Int) (xs : List FV) (qs : List Nat) : FV :=
  (xs.zip qs).foldl (fun err xq =>
    let d := (xq.1.add 0 ((f.read xq.2).scale e).neg).1
    val32 (f32 (err.add 0 (val32 (f32 (d.mul d).1))).1)) (.fin false 0 0)

/-- The scale code and the codes of a block, and whether the NaN rule applied. -/
def quantBlock (f : B8) (xs : List FV) : Nat × List Nat × Bool :=
  if xs.any (fun x => match x with | .fin .. => false | _ => true) then (0xFF, xs.map fun _ => f.nanCode, true)
  else
    let amax := xs.foldl (fun m x => if m.lt x.abs then x.abs else m) (.fin false 0 0)
    if amax.isZero then (0x80, xs.map fun _ => 0, false)
    else
      let e0 := ceilLog2 amax (f.read f.maxCode)
      let best := [e0, e0 + 1, e0 - 1].foldl (fun (best : Option (Int × List Nat × FV)) e =>
        if e < -127 || e > 126 then best
        else
          let q := quantCodes f e xs
          let err := quantError f e xs q
          match best with
          | none => some (e, q, err)
          | some b => if err.lt b.2.2 then some (e, q, err) else best) none
      match best with
      | some b => ((b.1 + 128).toNat, b.2.1, false)
      | none => let e : Int := if e0 < 0 then -127 else 126; ((e + 128).toNat, quantCodes f e xs, false)

/-- QUANT's checks of sB, and of A and D for L = 64 (R315). -/
def quantOk (g : Group) (d a : BitVec 8) (w : Word) : Bool :=
  fld w 31 10 == 0 && fld w 9 8 != 0 && (b8Of (fld w 7 0)).isSome &&
  (fld w 9 8 != 3 || (isRun g a 2 2 && isRun g d 2 2))

/-- One block quantised: the lanes that take part, one or two registers each. -/
def quantLanes (f : B8) (ftz : Bool) (d a : Nat) (regs : List Nat) (ls : List Nat) (g : Group) : Group :=
  if ls.isEmpty then g
  else
    let at_ := regs.flatMap fun r => ls.map fun l => (r, l)
    let (sc, qs, nan) := quantBlock f (at_.map fun e => fmt32.read ftz ((g.lane e.2).reg (a + e.1)).toNat)
    let g := (at_.zip qs).foldl (fun g e => g.updLane e.1.2 fun ln =>
      ln.setReg (d + e.1.1) (BitVec.ofNat 32 (e.2 + 256 * sc))) g
    if nan then ls.foldl (fun g l => g.updLane l fun ln => ln.raise { nv := true }) g else g

/-- QUANT (R315). -/
def quantOp (d a b : BitVec 8) : State → Res :=
  guardedOp (fun g p =>
      let w := g.sreg (sNum b)
      let n := if fld w 9 8 = 3 then 2 else 1
      { field := isV g d && isV g a && isS b, mode := mEtype p.mode == 8,
        uses := ((readsRun a n).and (readsRun b 1)).and (writesRun d n),
        late := fun _ _ => if quantOk g d a w then none else some .illegalOperand })
    (fun r g p ls s => s.updGroup r.group fun g' =>
      let w := g.sreg (sNum b)
      let f := (b8Of (fld w 7 0)).getD ⟨1, false, false, 0⟩
      let go := quantLanes f (mFtz p.mode) d.toNat a.toNat
      match fld w 9 8 with
      | 1 => go [0] (ls.filter (· ≥ 16)) (go [0] (ls.filter (· < 16)) g')
      | 2 => go [0] ls g'
      | _ => go [0, 1] ls g')

/-- CVT (R284). -/
def execCvt (d a b : BitVec 8) (s : State) : Res := cvtOp d a b s

/-- QUANT (R315). -/
def execQuant (d a b : BitVec 8) (s : State) : Res := quantOp d a b s

/-- DEQ (R286). -/
def execDeq (d a b : BitVec 8) (s : State) : Res := deqOp d a b s

/-- PACK (R313). -/
def execPack (d a b : BitVec 8) (s : State) : Res := packOp d a b s

/-- UNPK (R346). -/
def execUnpk (d a b : BitVec 8) (s : State) : Res := unpkOp d a b s

end Sys2Proof.Machine
end

