-- ==== Sys2Proof/Machine/Copy.lean ====
section
/-! DEFINITION. COPY (R240, R282): the requests are checked at issue, and their units are written one at a time. -/

namespace Sys2Proof.Machine

/-- A copy request as read from scratchpad (R240). -/
structure CopyReq where
  src   : DWord
  dst   : DWord
  len   : Nat
  bar   : Nat
  dkind : Nat
  dpos  : Nat
  rest  : Nat
  deriving DecidableEq, Repr

/-- Read request `i` at an offset. -/
def State.copyReq (s : State) (team off : Nat) : CopyReq :=
  let at_ (o n : Nat) : Nat := s.numAt (.pad team (off + o)) n
  { src := BitVec.ofNat 64 (at_ 0 8), dst := BitVec.ofNat 64 (at_ 8 8), len := at_ 16 4, bar := at_ 20 4, dkind := at_ 24 1,
    dpos := at_ 25 1, rest := at_ 26 6 }

/-- Scratchpad of the team that an on-chip destination names; none where R120 rejects the address by itself. -/
def State.onChipScratch (s : State) (team : Nat) (a : DWord) : Option Nat :=
  if fld a 63 62 = 2 ∧ fld a 47 44 = 0 then (s.clusterTeam team (fld a 55 48)).map fun t => (s.team t).scratch else none

/-- A request is within the limits of R240. -/
def State.copyOk (s : State) (g : Group) (q : CopyReq) : Bool :=
  q.src.toNat % 16 == 0 && fld q.src 63 62 ≤ 2 && q.dst.toNat % 16 == 0 && q.len % 16 == 0 && 16 ≤ q.len &&
  q.len ≤ 16777216 && q.dkind ≤ 1 && q.rest == 0 &&
  (q.bar == 0xFFFFFFFF || (q.bar % 16 == 0 && q.bar + 16 ≤ s.scratchOf g)) &&
  (if q.dkind = 0 then
     q.dpos == 0 && fld q.dst 63 62 ≤ 2 &&
     (match s.onChipScratch g.team q.dst with | some n => fld q.dst 43 0 + q.len ≤ n | none => true)
   else
     q.dst.toNat < 2 ^ 32 && q.dpos < (s.team g.team).cw * (s.team g.team).ch &&
     (match s.clusterPos g.team q.dpos with | some t => q.dst.toNat + q.len ≤ (s.team t).scratch | none => false))

/-- Pieces of a region that an engine accesses in units of 16 bytes; each piece's first and last unit is checked. -/
def State.copyPieces (ag : Agent) (kind : Acc) :
    List (DWord × Nat) → State → State × Except (Cause × DWord) (List (Loc × Nat))
  | [], s => (s, .ok [])
  | (a, m) :: rest, s =>
    match s.access ag kind 16 a with
    | (s, .error c) => (s, .error (c, a))
    | (s, .ok l) =>
      match s.access ag kind 16 (a + BitVec.ofNat 64 (m - 16)) with
      | (s, .error c) => (s, .error (c, a))
      | (s, .ok _) =>
        match State.copyPieces ag kind rest s with
        | (s, .error c) => (s, .error c)
        | (s, .ok ls) => (s, .ok ((l, m) :: ls))

/-- The 16-byte units of pieces, in order. -/
def unitsOf (segs : List (Loc × Nat)) : List Loc := segs.flatMap fun e => (List.range (e.2 / 16)).map fun i => e.1.plus (16 * i)

/-- One request becomes its units (R240). -/
def State.copyUnits (s : State) (g : Group) (ag : Agent) (q : CopyReq) : State × Except (Cause × DWord) (List CopyUnit) :=
  let pieces (a : DWord) := pagePieces a (q.len / pageSize + 2) q.len
  match State.copyPieces ag .strongRead (pieces q.src) s with
  | (s, .error c) => (s, .error c)
  | (s, .ok src) =>
    let dst : State × Except (Cause × DWord) (List (Loc × Nat)) :=
      if q.dkind = 0 then State.copyPieces ag .engineWrite (pieces q.dst) s
      else (s, .ok [(.pad ((s.clusterPos g.team q.dpos).getD 0) q.dst.toNat, q.len)])
    match dst with
    | (s, .error c) => (s, .error c)
    | (s, .ok dst) =>
      (s, .ok (((unitsOf src).zip (unitsOf dst)).map fun e =>
        { src := e.1, dst := e.2, bar := if q.bar = 0xFFFFFFFF then none else some (g.team, q.bar) }))

/-- The units of every request of an issue. -/
def State.copyAll (g : Group) (ag : Agent) : List CopyReq → State → State × Except (Cause × DWord) (List CopyUnit)
  | [], s => (s, .ok [])
  | q :: qs, s =>
    match s.copyUnits g ag q with
    | (s, .error c) => (s, .error c)
    | (s, .ok us) =>
      match State.copyAll g ag qs s with
      | (s, .error c) => (s, .error c)
      | (s, .ok vs) => (s, .ok (us ++ vs))

/-- COPY: a fault in any request stops the whole issue. -/
def copyOp (n : BitVec 4) (b : BitVec 8) (s : State) : Res :=
  issuing s fun r g p =>
    let chk : Checks := { field := isS b, uses := readsRun b 1 }
    match chk.cause g 0 {} with
    | some x => s.stopAll r p x
    | none =>
      let off := (g.sreg (sNum b)).toNat
      let count := n.toNat + 1
      if s.blockPoison g off (32 * count) then s.stopAll r p .poison
      else if off % 32 ≠ 0 ∨ off + 32 * count > s.scratchOf g then s.stopAll r p .illegalOperand
      else
        let qs := (List.range count).map fun i => s.copyReq g.team (off + 32 * i)
        if !qs.all (s.copyOk g) then s.stopAll r p .illegalOperand
        else
          let before := s
          match State.copyAll g (g.agent r.group none) qs s with
          | (s, .error c) =>
            if s.lacks ≠ before.lacks then before.stallCopies s r else s.stopAll r p c.1 c.2
          | (s, .ok us) =>
            match s.reserve g.ctx (unitEntries us) g.isHandler with
            | none => s.stopAll r p .logFull
            | some s => conclude r [] true (fun s =>
                ((s.saw r [(.pad g.team off, 32 * count)]).spendFence r 16 ((us.head?).map (·.dst)).toList).issueOp r
                  (p.flagFor .nonReturning) [] (work := .copy us) (lane := p.lowLane)) s

/-- One unit is written, with the update of its barrier object, in one indivisible step; poison goes with the bytes
(R191, R240). In a frame that has been lost since its issue it reads zeros and writes nothing (R114). -/
def State.writeUnit (s : State) (w : Writer) (u : CopyUnit) : State :=
  let u := { u with src := s.nowAt u.src, dst := s.nowAt u.dst }
  let bytes := (List.range 16).map fun i => (s.byteAt (u.src.plus i), s.poisonAt (u.src.plus i))
  let s := s.logWrite w 3 u.dst 16
  let s := ((List.range 16).zip bytes).foldl (fun (s : State) e => s.setByte (u.dst.plus e.1) e.2.1 e.2.2) s
  let s := s.touch u.dst
  match u.bar with
  | some (t, off) => s.updBarrier w 3 t off fun o => { o with bytes := o.bytes - 16 }
  | none => s

/-- COPY (R282). -/
def execCopy (n : BitVec 4) (b : BitVec 8) (s : State) : Res := copyOp n b s

/-- COPY_UNIT_WRITE: unit `idx` of operation `op` is written (R240). -/
def execCopyUnitWrite (s : State) : Res :=
  match s.ops.find? (·.id == s.ev.a) with
  | none => .next s
  | some o =>
    match o.work with
    | .copy us =>
      match us[s.ev.b]? with
      | none => .next s
      | some u =>
        let idx := s.ev.b
        let s := (s.sawFor o u.src 16).writeUnit (s.opWriter o) u
        .next { s with free := s.free + 1, ops := s.ops.map fun x =>
          if x.id = o.id then { x with work := .copy (us.eraseIdx idx) } else x }
    | _ => .next s

end Sys2Proof.Machine
end

