-- ==== Sys2Proof/Machine/Cross.lean ====
section
/-! DEFINITION. Cross-lane instructions (R301 to R303) and the generator's instructions (R155, R254, R319). -/

namespace Sys2Proof.Machine

/-! Cross-lane. L is the set of active lanes, in ascending virtual lane. -/

/-- What a cross-lane word reads and writes, for the lanes of L. -/
structure CrossUses where
  /-- vector registers read: lane, register -/
  reads : List (Nat × Nat) := []
  /-- vector registers whose pending bit strikes the whole of L, though they are only written -/
  push  : List (Nat × Nat) := []
  /-- a lane predicate read in every lane of L -/
  pred  : Option Nat := none
  sr    : List Nat := []
  sw    : List Nat := []
  /-- vector register that each lane of L writes in itself -/
  own   : Option Nat := none
  deriving DecidableEq, Repr

/-- A register that the word reads in any lane, or that LPUSH writes, is pending: HAZARD in every lane of L (R302). The
guard is such a register (R65). -/
def CrossUses.hazard (u : CrossUses) (g : Group) (p : Path) (ls : List Nat) : Bool :=
  (lanesOf p.mask).any (fun l => p.guardPending (g.lane l)) ||
  (u.reads ++ u.push).any (fun e => bit (g.lane e.1).vPend e.2) ||
  (match u.pred with | some n => ls.any fun l => bit (g.lane l).pPend n | none => false) ||
  (u.sr ++ u.sw).any (bit g.sPend ·)

/-- A value that the word reads, the guard among them, is poisoned: POISON in every lane of L. -/
def CrossUses.poison (u : CrossUses) (g : Group) (p : Path) (ls : List Nat) : Bool :=
  ls.any (fun l => p.guardPoisoned (g.lane l)) || u.reads.any (fun e => bit (g.lane e.1).vPoison e.2) ||
  (match u.pred with | some n => ls.any fun l => bit (g.lane l).pPoison n | none => false) || u.sr.any (bit g.sPoison ·)

/-- The cause of a cross-lane word in a lane: the whole of L takes it, but for a pending register that the lane alone
writes (R58, R64, R302). -/
def crossCause (field mode : Bool) (u : CrossUses) (late : Bool) (g : Group) (p : Path) (ls : List Nat) (l : Nat) :
    Option Cause :=
  if !field then some .illegalOperand
  else if !mode then some .illegalMode
  else if u.hazard g p ls then some .hazard
  else if (match u.own with | some r => bit (g.lane l).vPend r | none => false) then some .hazard
  else if u.poison g p ls then some .poison
  else if late then none else some .illegalOperand

/-- A cross-lane word. -/
def crossOp (field : Group → Path → Bool) (mode : Path → Bool) (uses : Group → List Nat → CrossUses) (late : Group → Bool)
    (eff : Group → Path → List Nat → Group) (s : State) : Res :=
  issuing s fun r g p =>
    let applied := g.applied p
    let ls := g.activeLanes p
    let cause := crossCause (field g p) (mode p) (uses g ls) (late g) g p ls
    let stops := applied.filterMap fun l => (cause l).map fun x => ({ lane := l, cause := x } : Stop)
    let ok := ls.filter fun l => (cause l).isNone
    conclude r stops (applied.isEmpty || !ok.isEmpty)
      (fun s => s.updGroup r.group fun g' => if ok.isEmpty then g' else eff g' p ok) s

/-- The lane that an index register names, for a lane. -/
def Group.laneIndex (g : Group) (b : BitVec 8) (l : Nat) : Nat :=
  fld (if isS b then g.sreg (sNum b) else (g.lane l).reg b.toNat) 4 0

/-- The vector registers that an index operand reads in the lanes of L. -/
def indexReads (b : BitVec 8) (ls : List Nat) : List (Nat × Nat) := if isS b then [] else ls.map fun l => (l, b.toNat)

/-- The sub-elements of a register that LIVE marks live are replaced; all of it under a type that is not packed. -/
def moveLive (p : Path) (old x : Word) : Word :=
  let e := mEtype p.mode
  if eCount e = 1 then x
  else loWord (mapLive e (mLive p.mode) (old.setWidth 64) fun h => elemOf e h (x.setWidth 64))

/-- LBALLOT. -/
def lballotOp (d : BitVec 8) (a : BitVec 3) : State → Res :=
  crossOp (fun _ _ => isS d) (fun _ => true) (fun _ _ => { pred := some a.toNat, sw := [sNum d] }) (fun _ => true)
    (fun g _ ls => g.setSreg (sNum d) (maskOf (ls.filter fun l => (g.lane l).pred a.toNat)))

/-- LBCAST: any virtual lane may be the source. -/
def lbcastOp (d a b : BitVec 8) : State → Res :=
  crossOp (fun g _ => isS d && isV g a && isS b) (fun _ => true)
    (fun g _ => { reads := [(fld (g.sreg (sNum b)) 4 0, a.toNat)], sr := [sNum b], sw := [sNum d] })
    (fun g => fld (g.sreg (sNum b)) 31 5 == 0)
    (fun g _ _ => g.setSreg (sNum d) ((g.lane (fld (g.sreg (sNum b)) 4 0)).reg a.toNat))

/-- LSHUF: every source is read as it stands at issue. -/
def lshufOp (d a b : BitVec 8) : State → Res :=
  crossOp (fun g _ => isV g d && isV g a && isReg g b) (fun _ => true)
    (fun g ls => { reads := indexReads b ls ++ ls.map fun l => (g.laneIndex b l, a.toNat), own := some d.toNat,
                   sr := if isS b then [sNum b] else [] }) (fun _ => true)
    (fun g p ls => ls.foldl (fun g' l => g'.updLane l fun ln =>
      ln.setReg d.toNat (moveLive p (ln.reg d.toNat) ((g.lane (g.laneIndex b l)).reg a.toNat))) g)

/-- LPUSH: a push to a lane outside L is dropped, and the highest source lane wins. -/
def lpushOp (d a b : BitVec 8) : State → Res :=
  crossOp (fun g _ => isV g d && isV g a && isReg g b) (fun _ => true)
    (fun g ls => { reads := indexReads b ls ++ ls.map fun l => (l, a.toNat),
                   push := (ls.filter fun l => ls.contains (g.laneIndex b l)).map fun l => (g.laneIndex b l, d.toNat),
                   sr := if isS b then [sNum b] else [] }) (fun _ => true)
    (fun g p ls => ls.foldl (fun g' l =>
      let j := g.laneIndex b l
      if ls.contains j then
        g'.updLane j fun ln => ln.setReg d.toNat (moveLive p (ln.reg d.toNat) ((g.lane l).reg a.toNat))
      else g') g)

/-- The combine function of LREDUCE and LSCAN, with the flags of an f32 step, which draws by the lane it adds (R302). -/
def combine (sel : Nat) (g : Group) (p : Path) (ln : Lane) (r x : Word) : Word × FFlags :=
  let e := mEtype p.mode
  if eFloat e then
    let o : FOp := match sel with | 0 => .add | 1 => .min | _ => .max
    let z := o.elem fmt32 (mRnd p.mode) (g.srBits p ln 1 0) (mFtz p.mode) (mSat p.mode) r.toNat x.toNat 0
    (BitVec.ofNat 32 z.1, z.2)
  else
    let a := elemInt e r.toNat
    let b := elemInt e x.toNat
    (BitVec.ofNat 32 (match sel with
      | 0 => intoType e (mSat p.mode) (a + b)
      | 1 => wrapTo 32 (min a b)
      | _ => wrapTo 32 (max a b)), {})

/-- The running combination over the lanes: each further lane raises the flags of its own step, and `out` has the value
after it. -/
def combineLanes (sel a : Nat) (p : Path) (out : Nat → Word → Group → Group) :
    Option Word → List Nat → Group → Option Word × Group
  | r, [], g => (r, g)
  | none, l :: ls, g =>
    let x := (g.lane l).reg a
    combineLanes sel a p out (some x) ls (out l x g)
  | some r, l :: ls, g =>
    let z := combine sel g p (g.lane l) r ((g.lane l).reg a)
    combineLanes sel a p out (some z.1) ls (out l z.1 (g.updLane l fun ln => ln.raise z.2))

/-- i32, n32 and f32. -/
def reduces (p : Path) : Bool := mEtype p.mode == 0 || mEtype p.mode == 1 || mEtype p.mode == 8

/-- LREDUCE: LFLAGS first, then the combination. -/
def lreduceOp (d a b : BitVec 8) : State → Res :=
  crossOp (fun g _ => isS d && isV g a && b.toNat ≤ 2) reduces
    (fun _ ls => { reads := ls.map fun l => (l, a.toNat), sw := [sNum d] }) (fun _ => true)
    (fun g p ls =>
      let g := { g with lflags := ls.foldl (fun f l => f ||| (g.lane l).fpstat) 0 }
      let z := combineLanes b.toNat a.toNat p (fun _ _ g => g) none ls g
      match z.1 with
      | some x => z.2.setSreg (sNum d) x
      | none => g)

/-- LSCAN. -/
def lscanOp (d a b : BitVec 8) : State → Res :=
  crossOp (fun g _ => isV g d && isV g a && b.toNat ≤ 2) reduces
    (fun _ ls => { reads := ls.map fun l => (l, a.toNat), own := some d.toNat }) (fun _ => true)
    (fun g p ls => (combineLanes b.toNat a.toNat p (fun l x g => g.updLane l fun ln => ln.setReg d.toNat x) none ls g).2)

/-! The generator. -/

/-- RNG: the four words of a draw (R155). -/
def rngOp (d a b : BitVec 8) : State → Res :=
  laneOp (fun g _ => { field := isRun g d 4 4 && isVPair g a && isS b,
                       uses := ((readsRun a 2).and (readsRun b 1)).and (writesRun d 4),
                       late := fun _ _ => if (g.sreg (sNum b)).toNat ≤ 15 then none else some .illegalOperand })
    (fun g _ _ ln =>
      let k := (g.sreg (sNum b)).toNat
      let x := gen (g.seedOf k) (g.streamOf k) (ln.pair a.toNat)
      (ln.setPair d.toNat x.2).setPair (d.toNat + 2) x.1)

/-- RNGDROP: sixteen decisions from one draw (R319). -/
def rngdropOp (d a b : BitVec 8) : State → Res :=
  laneOp (fun g _ => { field := isV g d && isVPair g a && isS b,
                       uses := ((readsRun a 2).and (readsRun b 1)).and (writesRun d 1),
                       late := fun _ _ =>
                         let w := g.sreg (sNum b)
                         if fld w 7 4 = 0 ∧ fld w 31 16 = 0 then none else some .illegalOperand })
    (fun g _ _ ln =>
      let w := g.sreg (sNum b)
      let k := fld w 3 0
      let x := genNat (g.seedOf k) (g.streamOf k) (ln.pair a.toNat).toNat
      ln.setReg d.toNat (maskOf ((List.range 16).filter fun j => x / 2 ^ (8 * j) % 256 ≥ fld w 15 8)))

/-- RNGKEY: a key slot from s(4m) upward (R254). -/
def rngkeyOp (a b : BitVec 8) : State → Res :=
  groupOp (fun g _ => { field := isS a && a.toNat % 4 == 0 && isS b, uses := (readsRun a 3).and (readsRun b 1),
                        late := fun _ _ => if (g.sreg (sNum b)).toNat ≤ 15 then none else some .illegalOperand })
    (fun g _ =>
      let k := (g.sreg (sNum b)).toNat
      { g with seed := tput g.seed k (g.spair (sNum a)), stream := tput g.stream k (g.sreg (sNum a + 2)) })

/-- LBALLOT (R302). -/
def execLballot (d : BitVec 8) (a : BitVec 3) (s : State) : Res := lballotOp d a s

/-- LBCAST (R302). -/
def execLbcast (d a b : BitVec 8) (s : State) : Res := lbcastOp d a b s

/-- LPUSH (R302). -/
def execLpush (d a b : BitVec 8) (s : State) : Res := lpushOp d a b s

/-- LREDUCE (R302). -/
def execLreduce (d a b : BitVec 8) (s : State) : Res := lreduceOp d a b s

/-- LSCAN (R302). -/
def execLscan (d a b : BitVec 8) (s : State) : Res := lscanOp d a b s

/-- LSHUF (R302). -/
def execLshuf (d a b : BitVec 8) (s : State) : Res := lshufOp d a b s

/-- RNG (R155). -/
def execRng (d a b : BitVec 8) (s : State) : Res := rngOp d a b s

/-- RNGDROP (R319). -/
def execRngdrop (d a b : BitVec 8) (s : State) : Res := rngdropOp d a b s

/-- RNGKEY (R254). -/
def execRngkey (a b : BitVec 8) (s : State) : Res := rngkeyOp a b s

end Sys2Proof.Machine
end

