-- ==== Sys2Proof/Machine/Environment.lean ====
section
/-! DEFINITION. What happens to the part: start stages and loss of power (R26, R261), power and heat (R25, R272), uncorrectable errors
and their containment (R114, R191 to R193, R271), and the allocator's own steps (R107, R127, R129, R131). -/

namespace Sys2Proof.Machine

/-! Start. -/

/-- Cores of a stage become usable (R261, R325). -/
def State.coresUp (s : State) (first n : Nat) : State :=
  (List.range n).foldl (fun (s : State) i => s.updCore (first + i) fun c => { c with since := s.clock }) s

/-- STAGE_0: whether the firmware verifies (R261). -/
def execStage0 (s : State) : Res :=
  .next (if s.host.stage = 0 && !s.host.booted && s.host.fail == 0 then
    s.updHost fun h => if s.ev.a = 1 then { h with booted := true } else { h with fail := 1 }
  else s)

/-- STAGE_1: whether die 0 and its stacks train (R261). -/
def execStage1 (s : State) : Res :=
  .next (if s.host.stage = 0 && s.host.booted && s.host.fail == 0 then
    if s.ev.a = 1 then (s.updHost fun h => { h with stage := 1, dies := 1 }).coresUp 0 24
    else s.updHost fun h => { h with fail := 2 }
  else s)

/-- STAGE_2: whether every die and stack trains, and which dies do (R261). -/
def execStage2 (s : State) : Res :=
  .next (if s.host.stage = 1 && s.host.fail == 0 then
    if s.ev.a = 1 then (s.updHost fun h => { h with stage := 2, dies := 15 }).coresUp 24 72
    else s.updHost fun h => { h with fail := 3, dies := s.ev.b % 16 }
  else s)

/-- POWER_OFF: every device state is lost; what is the host's stays (R26). -/
def State.powerOff (s : State) : State := { State.reset with hmem := s.hmem, saves := s.saves, inbox := s.inbox, loads := s.loads, free := s.free }

/-- POWER_OFF (R26). -/
def execPowerOff (s : State) : Res := .next s.powerOff

/-! Power and heat. -/

/-- The clock goes down one step, not below 1000 MHz (R25). -/
def Mgmt.slower (h : Mgmt) : Mgmt := { h with mhz := max 1000 (h.mhz - 25) }
/-- The clock goes up one step, up to 1750 MHz (R25). -/
def Mgmt.faster (h : Mgmt) : Mgmt := { h with mhz := min 1750 (h.mhz + 25) }

/-- Body of a power event (R265). -/
def Mgmt.powerBody (h : Mgmt) (watts temp die what : Nat) : List Byte :=
  bytesOfNat 4 watts ++ bytesOfNat 2 h.mhz ++ bytesOfNat 1 temp ++ bytesOfNat 1 die ++ bytesOfNat 1 what

/-- GOVERNOR_SAMPLE: watts, highest junction temperature, its die; each millisecond (R25, R272). -/
def execGovernorSample (s : State) : Res :=
  let watts := s.ev.a
  let temp := s.ev.b
  let die := s.ev.c
  let breach := decide (watts ≥ 2400) || decide (temp ≥ 105)
  let exceeds := decide (watts > 2400) || decide (temp ≥ 105)
  let h := s.host
  let hot := if exceeds && h.mhz == 1000 then h.hot + 1 else 0
  let cool := if watts < 2300 && !breach then h.cool + 1 else 0
  let s := s.updHost fun h => { h with hot := hot, cool := if cool ≥ 10 then 0 else cool }
  let s := if breach then s.updHost Mgmt.slower else if cool ≥ 10 then s.updHost Mgmt.faster else s
  let s := if cool ≥ 10 && s.host.throt then
      (s.updHost fun h => { h with throt := false }).queueEvent 2 0 (s.host.powerBody watts temp die 2)
    else s
  .next (if hot ≥ 10 && !s.host.throt then s.post .powerEscalation { a := watts, b := temp, c := die } else s)

/-- POWER_ESCALATION: watts, temperature, die. Placement is held (R272). -/
def execPowerEscalation (s : State) : Res :=
  .next (if s.host.hot ≥ 10 && !s.host.throt then
    (s.updHost fun h => { h with throt := true, hot := 0 }).queueEvent 2 0 (s.host.powerBody s.ev.a s.ev.b s.ev.c 1)
  else s)

/-- THERMAL_LIMIT: die, temperature. A breach at 105 °C; at 115 °C the carrier removes power (R272). -/
def execThermalLimit (s : State) : Res :=
  .next (if s.ev.b ≥ 115 then s.powerOff else if s.ev.b ≥ 105 then s.updHost Mgmt.slower else s)

/-! Errors. -/

/-- An integrity event (R265). -/
def State.integrity (s : State) (place outcome die core pa : Nat) : State :=
  s.queueEvent 3 0 ([BitVec.ofNat 8 place, BitVec.ofNat 8 outcome, BitVec.ofNat 8 die, BitVec.ofNat 8 core, 0, 0, 0, 0] ++ bytesOfNat 8 pa)

/-- The frame was read from a DRAFT page of a context (R114). -/
def State.draftRead (s : State) (ctx frame : Nat) (va : DWord) : Bool :=
  match s.walk ctx va with
  | .leaf e _ large =>
    leafDraft e && !leafHost e && (if large then leafFrame e == frame / 8192 * 8192 else leafFrame e == frame)
  | _ => false

/-- Poison of device memory. -/
def State.poisonDev (s : State) (pa n : Nat) : State :=
  { s with memPoison := (List.range n).foldl (fun t i => tset false t (pa + i) true) s.memPoison }

/-- Poison of a scratchpad. -/
def State.poisonPad (s : State) (team off n : Nat) : State :=
  s.updTeam team fun t => { t with padPoison := (List.range n).foldl (fun p i => tset false p (off + i) true) t.padPoison }

/-- Poison of a register of a lane: v, s from 128 on, or p from 256 on. -/
def State.poisonReg (s : State) (k l r : Nat) : State :=
  if r < 128 then s.onLanes k [l] fun _ ln => { ln with vPoison := setBit ln.vPoison r true }
  else if r < 256 then s.updGroup k fun g => { g with sPoison := setBit g.sPoison (r - 128) true }
  else s.onLanes k [l] fun _ ln => { ln with pPoison := setBit ln.pPoison (r - 256) true }

/-- The contexts that the part knows: those with a register, a seal or the like not at its reset value, a team, or a grid (log 50). -/
def State.contexts (s : State) : List Nat :=
  distinct (s.ctxs.map (·.1) ++ s.teams.map (fun e => e.2.ctx) ++ s.grids.map fun e => e.2.ctx)

/-- A link failure: every context freezes and escalates (R271). -/
def State.linkFailure (s : State) : State :=
  s.contexts.foldl (fun (s : State) ctx => s.escalate ctx none none 5) (s.integrity 6 3 0xFF 0xFF 0)

/-- LINK_FAILURE (R271). -/
def execLinkFailure (s : State) : Res := .next s.linkFailure

/-- UNCORRECTABLE_ERROR: place, as R265 codes it, and where: 1 and 2 an address, bytes, the context that read it plus 1, and the
virtual address; 3 team, offset, bytes; 4 group, lane, register; 5 team, tile, 1 for its row state (R191, R271). Of a large DRAFT
page one frame is lost (log 65). -/
def execUncorrectableError (s : State) : Res :=
  let (b, c, d) := (s.ev.b, s.ev.c, s.ev.d)
  .next (match s.ev.a with
  | 1 | 2 =>
    let frame := b / pageSize
    let die := frame % 12 / 3
    if d ≠ 0 && s.draftRead (d - 1) frame s.ev.v then
      (({ s with lost := tset false s.lost frame true } : State)).integrity s.ev.a 2 die 0xFF b
    else (s.poisonDev b c).integrity s.ev.a 1 die 0xFF b
  | 3 => (s.poisonPad b c d).integrity 3 1 ((s.team b).core / 24) (s.team b).core 0
  | 4 => (s.poisonReg b c d).integrity 4 1 (coreOf b / 24) (coreOf b) 0
  | 5 =>
    let hit (t : Team) : Team := if d = 1 then { t with rowP := setBit t.rowP c true } else { t with tP := setBit t.tP c true }
    (s.updTeam b hit).integrity 5 1 ((s.team b).core / 24) (s.team b).core 0
  | 6 => s.linkFailure
  | 7 => { s.integrity 7 (Config.freeByte s.free 0).toNat 0xFF 0xFF 0 with free := s.free + 1 }
  | _ => s)

/-! Containment (R192). -/

/-- The log holds everything back to a window, and nothing irreversible since; the SEQ of its OPEN entry. -/
def State.intactBack (s : State) (ctx : Nat) (tid : Option Nat) (n : Word) : Option Nat :=
  let c := s.ctx ctx
  if !c.logging then none
  else match c.openSeq n with
    | some q => if c.ring.any fun e => e.kind == 4 && e.seq > q && e.mine tid then none else some q
    | none => none

/-- Step 1: the window to which the team is rewound. -/
def State.teamWindow (s : State) (team : Nat) : Option Word :=
  let t := s.team team
  match s.intactBack t.ctx (some t.tid) t.logwin with
  | some q => if t.pubseq < q then some t.logwin else none
  | none => none

/-- Step 2: the context's last context-wide window, where no grid launched at or after it has completed. -/
def State.ctxWindow (s : State) (ctx : Nat) : Option Word :=
  match ((s.ctx ctx).ring.filter fun e => e.kind == 5 && e.tid == 0).getLast? with
  | none => none
  | some o =>
    match s.intactBack ctx none o.window with
    | some q => if s.grids.any fun g => g.2.ctx == ctx && g.2.complete && decide (g.2.openSeq ≥ q) then none else some o.window
    | none => none

/-- A rewind that contains an error: its target resumes; `refused` is what follows where it is refused, and `again` where it must
still wait. -/
def State.containBy (s : State) (ctx : Nat) (team : Option Nat) (n : Word) (again refused : State → State) : State :=
  let ended := match team with
    | some t => s.dropStops t
    | none => (s.ctxTeams ctx).foldl State.dropStops s
  match ended.rewind ctx team none n true with
  | (s, none) => again s
  | (t, some w) =>
    if fld w 7 0 = 0 ∨ fld w 7 0 = 7 then
      match team, (s.ctx ctx).openSeq n with
      | some x, _ => t.unsuspend (t.teamGroups x) .rewound
      | none, some q => (t.relaunchGrids ctx q).unsuspend (t.ctxGroups ctx) .rewound
      | none, none => t.unsuspend (t.ctxGroups ctx) .rewound
    else refused (s.unsuspend (match team with | some x => s.teamGroups x | none => s.ctxGroups ctx) .rewind)

/-- Containment of an error that a team consumed: rewind of the team, of the context, or the team is killed. -/
def State.contain (s : State) (team : Nat) (teamOnly : Bool) (again : State → State) : State :=
  let ctx := (s.team team).ctx
  let kill (s : State) : State := s.failTeam team
  let second (s : State) : State :=
    if teamOnly then kill s
    else match s.ctxWindow ctx with
      | some n => s.containBy ctx none n again kill
      | none => kill s
  match s.teamWindow team with
  | some n => s.containBy ctx (some team) n again second
  | none => second s

/-- POISON_CONTAINMENT: group and path of a POISON stop that no handler takes; or, with c = 1, a team that lost tiles to a matrix-pair
reset (R192, R193). -/
def execPoisonContainment (s : State) : Res :=
  let ev := s.ev
  let again (s : State) : State := s.post .poisonContainment { a := ev.a, b := ev.b, c := ev.c }
  if s.ev.c = 1 then .next (if (s.team s.ev.a).onCore then s.contain s.ev.a true again else s)
  else
    let k := s.ev.a
    let g := s.group k
    .next (if s.isStop k s.ev.b && g.summary (g.path s.ev.b).mask == 12 then s.contain g.team false again else s)

/-- Matrix pairs with an MMA, MMAH or MDIST that has not retired 2^24 clocks after its issue (R193). -/
def State.hungPairs (s : State) : List Nat :=
  distinct ((s.ops.filter fun o => o.matrix != 0 && !o.done && clocks (coreOf o.group) (s.clock - o.since) ≥ 2 ^ 24).map fun o =>
    coreOf o.group / 2)

/-- MATRIX_PAIR_RESET: pair, where it hangs. Teams with a tile in flight on either core lose those tiles and are contained (R193). -/
def execMatrixPairReset (s : State) : Res :=
  if !s.hungPairs.contains s.ev.a then .next s
  else
    let hit := (s.teams.filter fun e => e.2.onCore && e.2.core / 2 == s.ev.a && e.2.tF != 0).map (·.1)
    let s := hit.foldl (fun (s : State) team => s.updTeam team fun t => { t with tV := t.tV &&& ~~~t.tF }) s
    let ids := (s.ops.filter fun o => o.tiles.any fun e => hit.contains e.1).map (·.id)
    let s := { s with ops := s.ops.map fun o => if ids.contains o.id then { o with work := .nothing } else o }
    let s := ids.foldl State.complete s
    .next (hit.foldl (fun (s : State) team =>
      (s.updTeam team fun t => { t with tF := 0 }).post .poisonContainment { a := team, c := 1 }) s)

/-! The allocator and the walkers. -/

/-- RECLAIM: frames that an allocation waits for. FREE is below 16 × LOW, an allocation cannot be met, or Coppice goes on (R127). -/
def execReclaim (s : State) : Res :=
  let need := max s.ev.a (s.coppice.getD 0)
  .next (if s.coppice.isSome || s.poolFree < 16 * fld s.poolmark 15 0 || s.poolFree < need then s.reclaim need else s)

/-- OBJECT_DESTRUCTION: context, index. The steps behind the destruction point, once every access that saw the object alive has
completed (R129). -/
def execObjectDestruction (s : State) : Res :=
  let ctx := s.ev.a
  let i := s.ev.b
  .next (if (s.ctx ctx).ranges.any (·.2.2 == i) && !(s.obj ctx i).alive && s.objQuiet ctx i then s.destroyRest ctx i else s)

/-- TLB_WALK: core, context, page. A walk completes, and its translation is held (R107, R117). -/
def execTlbWalk (s : State) : Res :=
  .next (s.translate { ctx := s.ev.b, core := some s.ev.a } (BitVec.ofNat 64 (s.ev.c * pageSize))).1

/-- Some path waits at issue for the copy of a page (R131). -/
def State.copyWanted (s : State) (ctx page : Nat) : Bool :=
  s.groups.any fun e => e.2.used && e.2.entries.any fun p => p.2.held == 19 && p.2.wants.contains (ctx, page)

/-- The page's leaf still asks for the copy, and the pool holds a frame. -/
def State.copyReady (s : State) (w : Nat × Nat) : Bool :=
  s.poolFree > 0 && (match s.walk w.1 (BitVec.ofNat 64 (w.2 * pageSize)) with
    | .leaf e _ large => leafCw e && leafW e && !large
    | _ => false)

/-- COPY_ON_WRITE_COPY: context, page. The copy for which a write waits that has passed its permission step (R131). -/
def execCopyOnWriteCopy (s : State) : Res :=
  let page := s.ev.b
  .next (match s.walk s.ev.a (BitVec.ofNat 64 (page * pageSize)) with
  | .leaf e slot large =>
    if leafCw e && leafW e && s.copyWanted s.ev.a page then
      (match s.copyOnWrite s.ev.a { ctx := s.ev.a, page := page, leaf := e, slot := slot, large := large } with
       | some (s, _) => s
       | none => s)
    else s
  | _ => s)

end Sys2Proof.Machine
end

