-- ==== Sys2Proof/Machine/Issue.lean ====
section
/-! DEFINITION. Issue: the check of a clause (R47 to R53), breakpoints (R208, R209), which words are held back (R56, R132, R140), the
selection among eligible paths (R13, R172), and the end of a word that a path issued. -/

namespace Sys2Proof.Machine

/-! The check of a clause. -/

/-- One word of a clause is fetched (step 1 of R50). -/
def State.fetchWord (s : State) (ag : Agent) (a : DWord) : State × Except (Cause × DWord) Word :=
  if fld a 63 55 != 0 then (s, .error (.invalidAddress, a))
  else match s.access ag .fetch 4 a with
    | (s, .ok l) => (s, .ok (BitVec.ofNat 32 (s.numAt l 4)))
    | (s, .error c) => (s, .error (c, a))

/-- `n` words from an address upward. -/
def State.fetchWords (ag : Agent) : Nat → DWord → State → State × Except (Cause × DWord) (List Word)
  | 0, _, s => (s, .ok [])
  | n + 1, a, s =>
    match s.fetchWord ag a with
    | (s, .error e) => (s, .error e)
    | (s, .ok w) =>
      match State.fetchWords ag n (a + 4) s with
      | (s, .error e) => (s, .error e)
      | (s, .ok ws) => (s, .ok (w :: ws))

/-- The SETA or SETB field of a header: a flag above w11, or a number with its valid bit clear (R48). -/
def setBad (valid : Bool) (n : Nat) : Bool := if valid then n ≥ 12 else n != 0

/-- Instructions that return a result, which their clause counts on SETA (R49, R55). -/
def returnsResult (i : Instr) : Bool := match classOf i with | .returning => true | _ => false

/-- Steps 2 to 4 of R50: the cause of a bad clause. -/
def Clause.cause (c : Clause) : Option Cause :=
  let h := c.header
  let is := c.words.map fun w => nominal (decodeWord w)
  if fld h 31 30 != 2 then some .clauseFormat
  else if fld h 29 28 != 0 || setBad (bit h 12) (fld h 16 13) || setBad (bit h 17) (fld h 21 18) then some .illegalOperand
  else if (is.take (hNins h)).any isControl || (hNins h != 0 && is.any standsAlone) then some .clauseFormat
  else if !bit h 12 && is.any returnsResult then some .clauseFormat
  else none

/-- PC is an instruction word of the clause at CLHDR (R53). -/
def Path.inside (p : Path) (h : Word) : Bool :=
  let d := (p.pc - p.clhdr).toNat
  d % 4 == 0 && 4 ≤ d && d ≤ 4 * (1 + hNins h)

/-- The clause of a path is fetched and checked whole: the state after the fetches, and the clause or the cause. -/
def State.checkClause (s : State) (r : PathRef) : State × Except (Cause × DWord) Clause :=
  let g := s.group r.group
  let p := g.path r.path
  let ag := g.agent r.group none
  match s.fetchWord ag p.clhdr with
  | (s, .error e) => (s, .error e)
  | (s, .ok h) =>
    match State.fetchWords ag (1 + hNins h + hNlit h) (p.clhdr + 4) s with
    | (s, .error e) => (s, .error e)
    | (s, .ok ws) =>
      let c : Clause := { header := h, words := ws.take (1 + hNins h), lits := ws.drop (1 + hNins h) }
      match c.cause with
      | some x => (s, .error (x, 0))
      | none => if p.pc != p.clhdr && !p.inside h then (s, .error (.clauseFormat, 0)) else (s, .ok c)

/-- CLAUSE_CHECK: group, path (R50, R53). A clause fault strikes every lane of the path, whose PC stays where it is: inside the clause, where
the check is made again there (DEDUCED, log 12). -/
def execClauseCheck (s : State) : Res :=
  let r : PathRef := ⟨s.ev.a, s.ev.b⟩
  let p := s.path r
  if !(s.group r.group).used || p.mask == 0 || !(p.state == .ready || p.state == .stepping) || p.clause.isSome then .next s
  else match s.checkClause r with
    | (s, .ok c) => .next (s.updPath r fun p => { p with clause := some c })
    | (s, .error (x, a)) => .next (s.stopAll r p x a)

/-! Breakpoints. -/

/-- The first breakpoint that matches lanes of a path whose next word is at PC, and those lanes (R209). -/
def State.breakAt (s : State) (r : PathRef) : Option (Nat × List Nat) :=
  let g := s.group r.group
  let p := g.path r.path
  let c := s.ctx g.ctx
  ((List.range 16).find? fun i =>
    !bit p.passed i && tget 0#64 c.bpaddr i == p.pc && (lanesOf p.mask).any fun l =>
      filtersPass (tget 0#32 c.bpctl i) (tget 0#32 c.bptid i) (tget 0xFFFFFFFF#32 c.bpmask i) (s.team g.team).tid g.gid r.path l).map
    fun i => (i, (lanesOf p.mask).filter fun l =>
      filtersPass (tget 0#32 c.bpctl i) (tget 0#32 c.bptid i) (tget 0xFFFFFFFF#32 c.bpmask i) (s.team g.team).tid g.gid r.path l)

/-- Lanes stop at breakpoint `i`, which goes to the debugger (R175, R177, R209). -/
def State.breakStop (s : State) (r : PathRef) (i : Nat) (ls : List Nat) : State :=
  let (g, e) := (s.group r.group).freeze r.path (ls.map fun l => { lane := l, cause := .breakpoint }) .debugger 0 s.clock
  let g := g.updPath e fun p => { p with passed := setBit p.passed i true }
  ((s.setGroup r.group g).debugStop r.group e i).finishSteps r.group

/-! Words held back. -/

/-- The next word of a path: word 0 where the path stands at its header. -/
def Path.nextWord (p : Path) : Word :=
  p.cl.words.getD (if p.pc = p.clhdr then 0 else (p.pc - p.clhdr).toNat / 4 - 1) 0

/-- The instruction that a path issues next. -/
def Path.nextInstr (p : Path) : Instr := decodeWord p.nextWord

/-- The kinds of R140 to which the accesses of an instruction belong: rd 1, wr 2, ms 4, eng 8, lcl 16. -/
def accessKinds : Instr → Nat
  | .ld8 .. | .ld8K .. | .lds8 .. | .lds8K .. | .ld16 .. | .ld16K .. | .lds16 .. | .lds16K .. | .ld32 .. | .ld32K ..
  | .ld64 .. | .ld64K .. | .ld128 .. | .ld128K .. | .sld32 .. | .sld32K .. | .sld64 .. | .sld64K .. | .mwait .. => 1
  | .st8 .. | .st8K .. | .st16 .. | .st16K .. | .st32 .. | .st32K .. | .st64 .. | .st64K .. | .st128 .. | .st128K ..
  | .sst32 .. | .sst32K .. | .sst64 .. | .sst64K .. => 2
  | .atadd .. | .atand .. | .atcas .. | .atfadd .. | .atmax .. | .atmin .. | .ator .. | .atxchg .. | .atxor ..
  | .hnew .. | .hupg .. | .hrel .. | .hprio .. | .hfree .. | .vpublish .. => 3
  | .msadd .. | .msmax .. | .msmin .. => 4
  | .ldl32 .. | .ldl32K .. | .ldl64 .. | .ldl64K .. | .ldl128 .. | .ldl128K .. | .stl32 .. | .stl32K .. | .stl64 ..
  | .stl64K .. | .stl128 .. | .stl128K .. => 16
  | i => if isEngine i then 8 else 0

/-- The instruction's own accesses write: the first such word after a release fence is a release (R135). -/
def writesMemory : Instr → Bool
  | .stl32 .. | .stl32K .. | .stl64 .. | .stl64K .. | .stl128 .. | .stl128K .. => true
  | i => accessKinds i &&& 14 != 0

/-- Operations in flight that a path issued, alone or with lanes that have split from it since (R33, R34, R140). -/
def State.pathOps (s : State) (r : PathRef) : List Op :=
  let g := s.group r.group
  let m := (g.path r.path).mask
  s.ops.filter fun o => o.group == r.group && o.gen == g.placed && !o.done && m &&& o.lanes != 0

/-- A fence of the path is incomplete that orders a kind of the word (R140), or whose release the word would make (R135, R136). -/
def State.fenceHolds (s : State) (r : PathRef) (i : Instr) : Bool :=
  let kinds := accessKinds i
  let releasing := (s.path r).relFence.isSome && writesMemory i
  (kinds != 0) && (s.pathOps r).any fun o => match o.work with | .fence k _ => k &&& kinds != 0 || releasing | _ => false

/-- Detached events of the path are unperformed, which an engine operation follows (R132). -/
def State.engineHolds (s : State) (r : PathRef) (i : Instr) : Bool := isEngine i && (s.pathOps r).any s.trails

/-- The reason for which the next word of a path is held back, without executing it (R172, R213). -/
def State.heldBack (s : State) (r : PathRef) : Option Nat :=
  let g := s.group r.group
  let p := g.path r.path
  match p.clause with
  | none => none
  | some _ =>
    let i := nominal p.nextInstr
    if (p.flagFor (classOf i)).any fun w => g.flag w == 63#6 then some 4
    else if s.fenceHolds r i then some 23
    else if s.engineHolds r i then some 31
    else none

/-! Eligible paths. -/

/-- Some lane of the path has not reached its target in a reverse step (R205). -/
def Replay.short (x : Replay) (g : Group) (p : Path) : Bool :=
  (x.passes != 0 && p.mask &&& x.lanes != 0) || (lanesOf (p.mask &&& x.lanes)).any fun l => ((g.lane l).rcnt : Word) < tget 0#32 x.targets l

/-- A path being re-executed has lanes that have not reached their targets. -/
def State.replayRuns (s : State) (g : Group) (p : Path) : Bool :=
  match (s.ctx g.ctx).rstep with
  | some x => x.running && x.short g p
  | none => false

/-- The partition of a group slot is stopped for another context's rung 3, whose handler runs (R185). -/
def State.partitionStopped (s : State) (k : Nat) : Bool :=
  s.groups.any fun e => e.2.used && e.2.ctx != (s.group k).ctx && (match e.2.hcap with
    | some h => h.rung == 3 && coreOf h.group == coreOf k && partOf h.group == partOf k
    | none => false)

/-- The path may issue, as far as its state and its team go (R172, R238). -/
def State.runnable (s : State) (g : Group) (p : Path) : Bool :=
  (p.state == .ready || (p.state == .stepping && p.wait == .nothing && (p.freezer != .rewind || s.replayRuns g p))) &&
  (g.isHandler || ((s.team g.team).stage == .started && !s.clusterWaits g.team))

/-- The path may go on, as far as its state, its team and its partition go. -/
def State.mayGo (s : State) (r : PathRef) : Bool :=
  let g := s.group r.group
  g.used && s.runnable g (g.path r.path) && !s.partitionStopped r.group

/-- The path stands at a header whose WAIT mask is not met (R57). -/
def State.waitsAtHeader (s : State) (r : PathRef) : Bool :=
  let g := s.group r.group
  let p := g.path r.path
  p.clause.any fun c => p.pc == p.clhdr && !g.flagsZero (hWait c.header)

/-- The path has something to do that takes no pipe: its clause is fetched and checked, it parks for a WAIT mask, or a word of its that was
held back is looked at again. -/
def State.aside (s : State) (r : PathRef) : Bool :=
  let p := s.path r
  s.mayGo r && (p.clause.isNone || s.waitsAtHeader r || (p.held != 0 && p.retry && (s.heldBack r).isNone))

/-- The path is eligible: its next word would issue if its pipe chose it (R172). -/
def State.eligible (s : State) (r : PathRef) : Bool :=
  let p := s.path r
  s.mayGo r && p.clause.isSome && !s.waitsAtHeader r && p.held == 0 && (s.heldBack r).isNone

/-- A READY path that is eligible (R44). -/
def State.issuable (s : State) (r : PathRef) : Bool := (s.path r).state == .ready && s.eligible r

/-- The pipe of an opcode (R13, R273, R295, R320, R338); a vector instruction takes VA, or VB where VA is not free. The
pipe of an unassigned opcode is the model's choice (DESIGN CHOICE, log 1). -/
def pipeOf (op : Nat) : Pipe :=
  if (0x28 ≤ op && op < 0x5E) || (0xD1 ≤ op && op < 0xE9) then .va
  else if op < 0x60 || (0xC0 ≤ op && op < 0xD1) || op == 0xBB || op == 0xBC then .u
  else .m

/-- The pipe for which a path's next word is. -/
def Path.pipe (p : Path) : Pipe := pipeOf (opcodeOf p.nextWord)

/-- Every path of every group. -/
def State.allPaths (s : State) : List PathRef :=
  s.groups.flatMap fun e => (e.2.entries).map fun p => ⟨e.1, p.1⟩

/-- Partition of a group slot, over all cores. -/
def portOf (k : Nat) : Nat := coreOf k * 4 + partOf k

/-- The path counts as promoted: it has gone 64 cycles eligible without issuing (R44). -/
def Path.overdue (p : Path) (k : Nat) : Bool := p.promoted || (p.waited != 0 && clocks (coreOf k) p.waited ≥ 64)

/-- Whether `a` goes before `b` on their pipe (R172): promoted, handler, priority, age. -/
def State.before (s : State) (a b : PathRef) : Bool :=
  let rank (r : PathRef) : Nat :=
    let g := s.group r.group
    if (s.path r).overdue r.group then 0 else if g.isHandler then 1 else 9 - g.prio
  if rank a != rank b then rank a < rank b else (s.path a).age < (s.path b).age

/-- The path that a pipe selects among some. Of paths equal in rank and age the first of the list: DESIGN CHOICE, log 1. -/
def State.first (s : State) : List PathRef → Option PathRef
  | [] => none
  | r :: rs => match s.first rs with
    | none => some r
    | some x => if s.before x r then some x else some r

/-- The pipe of partition `port` that takes work for pipe `p` in the present clock, given the issues of the clock: each issues once
(R172), and a vector instruction goes to VB where VA has issued (R13). -/
def freePipe (turn : List (PathRef × Pipe)) (port : Nat) (p : Pipe) : Option Pipe :=
  let free (x : Pipe) : Bool := !turn.any fun e => portOf e.1.group == port && e.2 == x
  if free p then some p else if p = .va ∧ free .vb then some .vb else none

/-- A path of the same group that goes before this one has its clause to check: the side of a split that runs first is not overtaken
while its clause is fetched (R33). -/
def State.fetchesFirst (s : State) (r : PathRef) : Bool :=
  (s.group r.group).entries.any fun e =>
    e.2.clause.isNone && s.mayGo ⟨r.group, e.1⟩ && s.before ⟨r.group, e.1⟩ r

/-- The selections of all pipes that have not issued in the clock, of paths that have not (R172). -/
def State.selections (s : State) (turn : List (PathRef × Pipe)) : List (PathRef × Pipe) :=
  let es := s.allPaths.filter fun r => s.eligible r && !s.fetchesFirst r && !turn.any fun e => e.1 == r && e.2 != .fetch
  (distinct (es.map fun r => (portOf r.group, (s.path r).pipe))).filterMap fun q =>
    (freePipe turn q.1 q.2).bind fun x =>
      (s.first (es.filter fun r => portOf r.group == q.1 && (s.path r).pipe == q.2)).map fun r => (r, x)

/-- Issue `a` of a clock stands in a lower partition of the core of issue `b` (R218). -/
def partBelow (a b : PathRef × Pipe) : Bool :=
  a.2 != .fetch && b.2 != .fetch && coreOf a.1.group == coreOf b.1.group && partOf a.1.group < partOf b.1.group

/-- What may come next in a clock: of the issues on one core those of the lowest partition, none of a partition below one that has issued
(R218); and what takes no pipe. -/
def State.turns (s : State) (turn : List (PathRef × Pipe)) : List (PathRef × Pipe) :=
  let xs := s.selections turn
  ((s.allPaths.filter fun r => s.aside r && !turn.any (·.1 == r)).map fun r => (r, .fetch)) ++
  xs.filter fun x => !xs.any (partBelow · x) && !turn.any (partBelow x ·)

/-- One of the candidates of a clock. Pipes issue side by side: which of their issues takes effect first is the device's, but for the order
of partitions (log 1). -/
def State.pick (s : State) (turn : List (PathRef × Pipe)) : Option (PathRef × List (PathRef × Pipe)) :=
  let xs := s.turns turn
  (xs[s.choose 0 xs.length]?).map fun e => (e.1, turn ++ [e])

/-- The path that issues in this step, and the issues of the clock with it: of the present clock where a pipe has still to issue in it,
else of the next. -/
def State.select (s : State) : Option (PathRef × List (PathRef × Pipe)) :=
  match s.pick s.turn with
  | some x => some x
  | none => if s.turn.isEmpty then none else s.pick []

/-! The issue of a path. -/

/-- The word at which a path stands is held back no longer. -/
def Path.unheld (p : Path) : Path := { p with held := 0, retry := false, wants := [] }

/-- What a selected path does. -/
inductive Issue where
  /-- it stops at a breakpoint, or waits for its clause's WAIT mask -/
  | moves (s : State)
  /-- its clause is checked -/
  | check (s : State)
  /-- it issues a word -/
  | word (s : State) (i : Instr)
  /-- a word that was held back is looked at again -/
  | probe (s : State) (i : Instr)
  deriving Repr

/-- The path goes on to what it does next: breakpoint, clause check, WAIT mask, word (R50, R57, R142, R175). -/
def State.begin (s : State) (r : PathRef) : Issue :=
  let g := s.group r.group
  let p := g.path r.path
  let go (s : State) : Issue :=
    if p.held = 0 then .word { s with cur := some r } p.nextInstr else .probe ({ s with cur := some r }.updPath r Path.unheld) p.nextInstr
  match s.breakAt r with
  | some (i, ls) => .moves (s.breakStop r i ls)
  | none =>
    match p.clause with
    | none => .check { s with ev := { a := r.group, b := r.path } }
    | some c =>
      if p.pc = p.clhdr then
        if !g.flagsZero (hWait c.header) then
          .moves (s.updPath r fun p => p.park .flagwait .clauseFlags (g.firstBusy (hWait c.header)))
        else
          let s := (if hWait c.header = 0 then s else s.seeGroup r).updPath r fun p => { p with pc := p.clhdr + 4 }
          match s.breakAt r with
          | some (i, ls) => .moves (s.breakStop r i ls)
          | none => go s
      else go s

/-- The entries of a group that a handler or the debugger is stepping. -/
def Group.stepped (g : Group) : List Nat := (g.entries.filter fun e => e.2.state == .stepping && !e.2.replaying).map (·.1)

/-- The entries of a group that the debugger has frozen. -/
def Group.debugged (g : Group) : List Nat := (g.entries.filter fun e => e.2.state == .frozen && e.2.freezer == .debugger).map (·.1)

/-- The steps that a word ends: of the path that issued it and of what split off it (R209, R293). -/
def State.endSteps (s : State) (r : PathRef) (before : List Nat) : State :=
  if !before.contains r.path then s
  else
    let done := (s.group r.group).stepped.filter fun i =>
      let p := (s.group r.group).path i
      (i == r.path || !before.contains i) && p.held == 0 &&
      (match p.wait with | .nothing | .monitor _ | .stepped => true | _ => false)
    (done.foldl (fun (s : State) i => s.stepOver r.group i) s).finishSteps r.group

/-- Stops of a path that the debugger steps are reported (R177, R209). -/
def State.reportStops (s : State) (k : Nat) (before : List Nat) : State :=
  ((s.group k).debugged.filter fun i => !before.contains i && (((s.group k).path i).mask != 0)).foldl (fun (s : State) i =>
    let g := s.group k
    let p := g.path i
    if g.summary p.mask = 16 then s
    else s.debugStop k i (if g.summary p.mask = 15 then p.tcode.toNat else 0xFF)) s

/-- Words held back at issue are looked at again after any progress. -/
def State.unheld (s : State) : State :=
  { s with groups := s.groups.map fun e => (e.1, e.2.mapPaths fun p => if p.held = 0 then p else { p with retry := true }) }

/-- The path has issued: its counts of R44 end, and its breakpoints count afresh (R209). -/
def Path.issued (p : Path) : Path :=
  if p.state = .empty ∨ p.state = .frozen then p
  else { p.unheld with waited := 0, promoted := false, passed := 0 }

/-- A path that came to its turn in the clock has taken no pipe. -/
def State.noIssue (s : State) (r : PathRef) : State :=
  { s with turn := s.turn.map fun e => if e.1 == r then (r, .fetch) else e }

/-- A word of path `r` is held back: its PC is what it was at the start of the step. -/
def State.keptBack (start s : State) (r : PathRef) : State :=
  ({ s with cur := none }.updPath r fun p => { p with pc := (start.path r).pc }).noIssue r

/-- The issue of a path is a clock for each other path that its pipe could have chosen and that has not issued in it (R44); of VA and VB
the first alone counts. -/
def State.countWaits (before s : State) (r : PathRef) : State :=
  match before.turn.find? fun e => e.1 == r && e.2 != .fetch with
  | none => s
  | some (_, x) =>
    (before.allPaths.filter fun q => q != r && portOf q.group == portOf r.group && (before.path q).pipe == x && before.issuable q &&
      !before.turn.any fun e => e.1 == q && e.2 != .fetch).foldl
      (fun (s : State) q => s.updPath q fun p => if p.state = .ready then { p with waited := p.waited + 1 } else p) s

/-- What follows a word of path `r`, which began its step at `start` and its word at `before`. -/
def State.afterWord (start before s : State) (r : PathRef) : State :=
  if (s.group r.group).used && (s.path r).held != 0 then start.keptBack s r
  else
    let g := before.group r.group
    let s : State := { s with cur := none }
    let s := (if (s.group r.group).used then (s.updPath r Path.issued).reportStops r.group g.debugged else s).unheld
    (start.countWaits s r).endSteps r g.stepped

/-- What follows a look at a word that was held back: held back still, it leaves what it did while waiting; else it may issue. -/
def State.afterProbe (start s : State) (r : PathRef) : State :=
  if (s.group r.group).used && (s.path r).held != 0 then start.keptBack s r
  else (start.updPath r Path.unheld).noIssue r

/-- What follows a clause check of path `r`. -/
def State.afterCheck (before s : State) (r : PathRef) : State :=
  let s : State := { s with ev := {} }
  (s.reportStops r.group (before.group r.group).debugged).finishSteps r.group

/-! The model's way to place one word. -/

/-- A clause of one word and three literals, which counts on w0. -/
def oneWord (w : Word) : Clause := { header := 0x80C21000#32, words := [w], lits := [0, 0, 0] }

/-- The state in which a team of one group of 32 lanes stands at a word (`State.withFetchWord`). -/
def State.placeWord (s : State) (w : Word) : State :=
  let team := teamKey 0 1
  { s with
    inbox := [], loads := [], agenda := [], turn := [], cur := none,
    teams := [(team, { stage := .started, ctx := 0, tid := 1, scratch := 524288, tiles := 16 })],
    groups := [(0, { used := true, team := team, window := 128, placed := s.nextOp + 1,
                     paths := [(0, { state := .ready, mask := 0xFFFFFFFF#32, mode := launchMode, pc := 4, clhdr := 0,
                                     clause := some (oneWord w), passed := 0xFFFF#16 })] })] }

end Sys2Proof.Machine
end

