-- ==== Sys2Proof/Machine/Matrix.lean ====
section
/-! DEFINITION. The matrix engine and the tile instructions (R98, R216 to R230, R308, R339, R340). Their work is performed at
issue, in issue order; the F bits they set clear at completion. -/

namespace Sys2Proof.Machine

/-! f32 arithmetic of the engines: RNE, subnormals kept, NaN canonical. -/

/-- round_f32(x + y). -/
def fadd32 (x y : Word) : Word := f32 ((val32 x).add 0 (val32 y)).1
/-- round_f32(x − y). -/
def fsub32 (x y : Word) : Word := f32 ((val32 x).add 0 (val32 y).neg).1
/-- round_f32(x × y). -/
def fmul32 (x y : Word) : Word := f32 ((val32 x).mul (val32 y)).1
/-- exp2_f32(round_f32(x × L)), with L the rounded log₂ e of R230. -/
def expL (x : Word) : Word := f32 (UOp.exp2.exact (val32 (fmul32 x 0x3FB8AA3B#32))).1
/-- The larger value; NaN if any is NaN, −0 below +0. -/
def fmax32 (x y : Word) : Word :=
  if (val32 x).isNan || (val32 y).isNan then 0x7FC00000#32 else f32 ((val32 x).maxNum (val32 y))
/-- x equals y; −0 equals +0. -/
def feq32 (x y : Word) : Bool := (val32 x).eq (val32 y)

/-! Tiles. -/

/-- Tile registers that a group's team holds; a handler has none (R178). -/
def State.tilesOf (s : State) (g : Group) : Nat := if g.isHandler then 0 else (s.team g.team).tiles

/-- The cluster's team on the follower core of a leader (R12, R223). -/
def State.follower (s : State) (team : Nat) : Option Nat :=
  let c := (s.team team).core
  if c % 2 = 0 then s.clusterTeam team (c + 1) else none

/-- The follower's team where its TILES lie above tile `k`: the pairing conditions of R223. -/
def State.pairTeam (s : State) (team k : Nat) : Option Nat :=
  match s.follower team with
  | some t => if k < (s.team t).tiles then some t else none
  | none => none

/-- Every element of a tile is written (R217). -/
def Team.setTile (t : Team) (k : Nat) (f : Nat → Word) (dirty : Bool) : Team :=
  { t with
    el := (t.el.filter fun e => e.1 < k * 6144) ++
      ((List.range 6144).filterMap fun i => if f i = 0 then none else some (k * 6144 + i, f i)) ++
      (t.el.filter fun e => e.1 ≥ (k + 1) * 6144),
    tV := setBit t.tV k true, tD := setBit t.tD k dirty }

/-- Some tile half is in flight (R218). -/
def State.inFlight (s : State) (halves : List (Nat × Nat)) : Bool := halves.any fun e => bit (s.team e.1).tF e.2
/-- The halves of a tile that a word works on: its own, and the follower's with PAIR. -/
def State.halves (s : State) (team k : Nat) (pair : Bool) : List (Nat × Nat) :=
  (team, k) :: (if pair then (match s.pairTeam team k with | some t => [(t, k)] | none => []) else [])
/-- P of a tile is set. -/
def State.poisonTile (s : State) (team k : Nat) : State := s.updTeam team fun t => { t with tP := setBit t.tP k true }
/-- P of a tile is set where `b` holds. -/
def State.poisonTileIf (s : State) (b : Bool) (team k : Nat) : State := if b then s.poisonTile team k else s

/-- Issue of a tile instruction: its effect, then F until completion. -/
def State.issueTile (s : State) (r : PathRef) (p : Path) (halves : List (Nat × Nat)) (matrix : Nat := 0) : State :=
  (s.setF halves).issueOp r (p.flagFor .nonReturning) [] (tiles := halves) (lane := p.lowLane) (matrix := matrix)

/-- A leader's MMA holds the array of a core, its follower's (R218). -/
def State.arrayHeld (s : State) (core : Nat) : Bool :=
  s.ops.any fun o => o.matrix == 1 && !o.done && core % 2 == 1 && o.tiles.any fun e => (s.team e.1).core == core

/-- Entries for a region of scratchpad: one for each 64-byte chunk (R196). -/
def chunkCount (off n : Nat) : Nat := (off + n - 1) / 64 - off / 64 + 1

/-- An engine's write of a region of scratchpad, chunk by chunk. -/
def State.storeRegion (w : Writer) (team : Nat) (poison : Bool) : Nat → Nat → List Byte → State → State
  | 0, _, _, s => s
  | fuel + 1, off, bs, s =>
    match bs with
    | [] => s
    | _ =>
      let m := 64 - off % 64
      State.storeRegion w team poison fuel (off + m) (bs.drop m)
        ((s.store w 3 (.pad team off) (bs.take m) poison).touch (.pad team off))

/-- A region that a tile instruction has written, from the state before: its write is detached (R132, R340), and as its path's first
behind a release fence it is a release (R135). -/
def State.wroteRegion (s before : State) (r : PathRef) (team off n : Nat) : State :=
  (s.castFrom before r true n [.pad team off] 8).releaseFence r n [.pad team off] s.nextShadow

/-! The format block (R220, R221). -/

/-- A legal format block. -/
structure FBlock where
  a     : Elem
  b     : Elem
  /-- block lengths; 0 unscaled -/
  la    : Nat
  lb    : Nat
  asc   : Nat
  bsc   : Nat
  boff  : Nat
  depth : Nat
  acc   : Bool
  deriving DecidableEq, Repr

/-- Kind of a format code: 1 binary8, 2 i8 or n8, 3 BF16 or FP16. -/
def formatKind (c : Nat) : Nat :=
  match packFormat (BitVec.ofNat 8 c) with
  | some (.b8 _) => 1
  | some (.of 6) | some (.of 7) => 2
  | some _ => 3
  | none => 0

/-- Block length of a code. -/
def blockLen (c : Nat) : Nat := match c with | 1 => 16 | 2 => 32 | 3 => 64 | _ => 0

/-- Elements of a group of the summation order (R98, R220). -/
def groupSize (kind : Nat) : Nat := if kind = 3 then 4 else 8

/-- The format block in 32 bytes; none where R221 rejects it. -/
def parseFBlock (dist : Bool) (b : List Byte) : Option FBlock :=
  let at_ (o n : Nat) : Nat := natOfBytes ((b.drop o).take n)
  let kind := formatKind (at_ 0 1)
  let g := groupSize kind
  let la := blockLen (at_ 2 1)
  let lb := blockLen (at_ 3 1)
  let k := at_ 16 1
  match packFormat (BitVec.ofNat 8 (at_ 0 1)), packFormat (BitVec.ofNat 8 (at_ 1 1)) with
  | some fa, some fb =>
    if formatKind (at_ 1 1) = kind ∧ at_ 2 1 ≤ 3 ∧ at_ 3 1 ≤ 3 ∧ at_ 17 1 ≤ 1 ∧ at_ 18 2 = 0 ∧ at_ 20 1 = 4 ∧ at_ 21 11 = 0 ∧
       k % g = 0 ∧ g ≤ k ∧ k ≤ 8 * g ∧ (kind = 1 ∨ (la = 0 ∧ lb = 0)) ∧ (la = 0 ∨ k % la = 0) ∧ (lb = 0 ∨ k % lb = 0) ∧
       (!dist ∨ (at_ 0 1 = at_ 1 1 ∧ la = 0 ∧ lb = 0)) ∧ at_ 12 4 % 128 = 0 then
      some { a := fa, b := fb, la := la, lb := lb, asc := at_ 4 4, bsc := at_ 8 4, boff := at_ 12 4, depth := k,
             acc := at_ 17 1 == 1 }
    else none
  | _, _ => none

/-- Bytes of an element of a block. -/
def Elem.bytes (e : Elem) : Nat := e.width / 8
/-- Elements of a summation group. -/
def FBlock.group (f : FBlock) : Nat := if f.a.width = 16 then 4 else 8
/-- Every region of a block lies below S on the cores that compute. -/
def FBlock.fits (f : FBlock) (lead : Nat) (cores : List Nat) : Bool :=
  (f.la == 0 || f.asc + 128 * (f.depth / f.la) ≤ lead) &&
  cores.all fun n => f.boff + 3072 ≤ n && (f.lb == 0 || f.bsc + 48 * (f.depth / f.lb) ≤ n)

/-- The regions of scratchpad that a multiply reads beside its format block, with the halves that it computes. -/
def FBlock.regions (f : FBlock) (lead : Nat) (own : List (Nat × Nat)) : List (Loc × Nat) :=
  (if f.la = 0 then [] else [(.pad lead f.asc, 128 * (f.depth / f.la))]) ++ own.flatMap fun e =>
    (.pad e.1 f.boff, 3072) :: (if f.lb = 0 then [] else [(.pad e.1 f.bsc, 48 * (f.depth / f.lb))])

/-! The multiply (R98, R222, R223). -/

/-- Element k of row r of A, held from register `a` upward. -/
def aElem (f : FBlock) (g : Group) (a r k : Nat) : FV :=
  let n := f.a.bytes
  let w := ((g.lane (16 * (r % 2) + n * k / 4)).reg (a + r / 2)).toNat
  (f.a.read false (w / 256 ^ (n * k % 4) % 2 ^ f.a.width)).1

/-- Element k of column c of B in a team's scratchpad. -/
def bElem (f : FBlock) (s : State) (t c k : Nat) : FV :=
  (f.b.read false (s.numAt (.pad t (f.boff + 64 * c + f.b.bytes * k)) f.b.bytes)).1

/-- Scale of element k of a row or column; 1 where the operand is unscaled. -/
def scaleAt (s : State) (t off i len depth k : Nat) : FV :=
  if len = 0 then .fin false 1 0 else scaleOf (s.numAt (.pad t (off + i * (depth / len) + k / len)) 1)

/-- One product of a cell with its scales, exact; an infinity times zero is NaN (DEDUCED, log 41). -/
def productAt (dist : Bool) (f : FBlock) (s : State) (g : Group) (a lead t r c k : Nat) : FV :=
  let x := aElem f g a r k
  let y := bElem f s t c k
  if dist then
    let d := (x.add 0 y.neg).1
    (d.mul d).1
  else
    (((x.mul y).1.mul (scaleAt s lead f.asc r f.la f.depth k)).1.mul (scaleAt s t f.bsc c f.lb f.depth k)).1

/-- The exact sum of a summation group; the sign of a zero is IEEE's (DEDUCED, log 41). -/
def exactSum : List FV → FV
  | [] => .fin false 0 0
  | x :: xs => xs.foldl (fun a y => (a.add 0 y).1) x

/-- An output cell, in the fixed order of R98. -/
def cellAt (dist : Bool) (f : FBlock) (s : State) (g : Group) (a lead t r c : Nat) (acc : Word) : Word :=
  (List.range (f.depth / f.group)).foldl (fun acc i =>
    fadd32 acc (f32 (exactSum ((List.range f.group).map fun j => productAt dist f s g a lead t r c (i * f.group + j))))) acc

/-- One core's half of the result; `v` is what the path reads of B and the scales (R226). -/
def State.multiply (s v : State) (dist : Bool) (f : FBlock) (g : Group) (a lead t k : Nat) : State :=
  let x := s.team t
  s.setTeam t (x.setTile k (fun i =>
    cellAt dist f v g a lead t (i / 48) (i % 48) (if f.acc then x.elem k i else 0)) true)

/-- The A run of a matrix instruction is pending in some lane (R219). -/
def Group.runPending (g : Group) (a n : Nat) : Bool :=
  (List.range 32).any fun l => (List.range n).any fun i => bit (g.lane l).vPend (a + i)
/-- A byte of A that a block's K reaches lies in a poisoned register (R222). -/
def Group.aPoison (g : Group) (f : FBlock) (a : Nat) : Bool :=
  (List.range 64).any fun i => (List.range (f.depth * f.a.bytes / 4)).any fun j =>
    bit (g.lane j).vPoison (a + i) || bit (g.lane (16 + j)).vPoison (a + i)

/-- Poison that reaches a multiply's destination: A, the block, the scales, B as far as K reaches, or an accumulator; it poisons the
whole destination tile (R191, R222, R226). -/
def State.operandPoison (s : State) (f : FBlock) (g : Group) (a sf lead k : Nat) (b : BitVec 8) (own : List (Nat × Nat)) : Bool :=
  g.aPoison f a || bit g.sPoison (sNum b) || s.poisoned (.pad lead sf) 32 ||
  (f.la != 0 && s.poisoned (.pad lead f.asc) (128 * (f.depth / f.la))) ||
  own.any fun e =>
    ((List.range 48).any fun c => s.poisoned (.pad e.1 (f.boff + 64 * c)) (f.depth * f.b.bytes)) ||
    (f.lb != 0 && s.poisoned (.pad e.1 f.bsc) (48 * (f.depth / f.lb))) || (f.acc && bit (s.team e.1).tP k)

/-- The format block at an offset of the leader's scratchpad, as a path reads it; none where R221 rejects it. -/
def State.formatBlock (s : State) (dist : Bool) (g : Group) (sf : Nat) : Option FBlock :=
  if sf % 32 = 0 ∧ sf + 32 ≤ s.scratchOf g then parseFBlock dist (s.bytesAt (.pad g.team sf) 32) else none

/-- The reuse latch takes the run v64 or v0, or is dropped; the registers written from now on are noted (R225). -/
def Group.setLatch (g : Group) (run : Option Bool) : Group :=
  { g with latch := run, lanes := g.lanes.map fun (e : Nat × Lane) => (e.1, { e.2 with vWritten := 0 }) }

/-- A write to a latched register has released the latch, whichever instruction or load made it (R225). -/
def Group.unlatched (g : Group) : Group :=
  match g.latch with
  | none => g
  | some h =>
    if g.lanes.any fun e => e.2.vWritten.extractLsb' (if h then 64 else 0) 64 != 0 then { g with latch := none } else g

/-- MMA, MMAH and MDIST: which core computes, and products or squared differences. -/
def matrixOp (both dist : Bool) (d : BitVec 8) (h reuse : BitVec 1) (b : BitVec 8) (s : State) : Res :=
  issuing s fun r g p =>
    let a := 64 * h.toNat
    let k := d.toNat
    let lead := g.team
    let own : List (Nat × Nat) := s.halves lead k both
    if !isS b || a + 64 > g.window || k ≥ s.tilesOf g then s.stopAll r p .illegalOperand
    else if !bit g.sPend (sNum b) && s.inFlight own then s.hold r 5
    else if !bit g.sPend (sNum b) && !both && s.arrayHeld (coreOf r.group) then s.hold r 24
    else if bit g.sPend (sNum b) || g.runPending a 64 then s.stopAll r p .hazard
    else
      let v := s.view r
      let sf := (g.sreg (sNum b)).toNat
      match v.formatBlock dist g sf with
      | none => s.stopAll r p .illegalOperand
      | some f =>
        let paired := !both || (s.pairTeam lead k).isSome
        if !paired || !f.fits (s.scratchOf g) (own.map fun e => (s.team e.1).scratch) then s.stopAll r p .illegalOperand
        else conclude r [] true (fun s =>
          let po := v.operandPoison f g a sf lead k b own
          let done := own.foldl (fun (s' : State) e => (s'.multiply v dist f g a lead e.1 k).poisonTileIf po e.1 k) s
          ((done.saw r ((.pad lead sf, 32) :: f.regions lead own) (s.staleIds r)).issueTile r p own (if both then 1 else 2)).updGroup r.group
            (·.setLatch (if reuse = 1 then some (h == 1) else none))) s

/-! Tile moves (R228). -/

/-- A tile instruction with an offset in sB: fields, the hold on F, the hazard, then its own checks (R339), on what the path reads. -/
def tileOp (d b : BitVec 8) (halves : State → Group → List (Nat × Nat)) (ok : State → Group → Bool)
    (entries : Group → State → Nat) (eff : PathRef → Group → Path → State → State) (s : State) : Res :=
  issuing s fun r g p =>
    if !isS b || d.toNat ≥ s.tilesOf g then s.stopAll r p .illegalOperand
    else if !bit g.sPend (sNum b) && s.inFlight (halves (s.view r) g) then s.hold r 5
    else if bit g.sPend (sNum b) then s.stopAll r p .hazard
    else if !ok (s.view r) g then s.stopAll r p .illegalOperand
    else
      let hs := halves (s.view r) g
      match s.reserve g.ctx (entries g (s.view r)) g.isHandler with
      | none => s.stopAll r p .logFull
      | some s => conclude r [] true (fun s => (eff r g p s).issueTile r p hs) s

/-- Offset held by sB. -/
def Group.offset (g : Group) (b : BitVec 8) : Nat := (g.sreg (sNum b)).toNat

/-- A tile's bytes move from or to a region of 24,576 bytes at a multiple of 16. -/
def moveOk (b : BitVec 8) (s : State) (g : Group) : Bool := g.offset b % 16 == 0 && g.offset b + 24576 ≤ s.scratchOf g

/-- Clear a tile whole: elements, row state and poison. -/
def Team.zeroTile (t : Team) (k : Nat) : Team :=
  { t.setTile k (fun _ => 0) true with
    rowMax := t.rowMax.filter fun e => e.1 / 128 != k, rowSum := t.rowSum.filter fun e => e.1 / 128 != k,
    tP := setBit t.tP k false, rowP := setBit t.rowP k false }

/-- TZERO. -/
def tzeroOp (d : BitVec 8) (s : State) : Res :=
  issuing s fun r g p =>
    if d.toNat ≥ s.tilesOf g then s.stopAll r p .illegalOperand
    else if s.inFlight [(g.team, d.toNat)] then s.hold r 5
    else conclude r [] true (fun s =>
      (s.updTeam g.team fun t => t.zeroTile d.toNat).issueTile r p [(g.team, d.toNat)]) s

/-- TLD. -/
def tldOp (d b : BitVec 8) : State → Res :=
  tileOp d b (fun _ g => [(g.team, d.toNat)]) (moveOk b) (fun _ _ => 0) (fun r g _ s =>
    let v := s.view r
    let off := g.offset b
    let po := v.poisoned (.pad g.team off) 24576 || bit g.sPoison (sNum b)
    (s.saw r [(.pad g.team off, 24576)] (s.staleIds r)).updTeam g.team fun t =>
      let u := t.setTile d.toNat (fun i => BitVec.ofNat 32 (v.numAt (.pad g.team (off + 4 * i)) 4)) false
      { u with tP := setBit u.tP d.toNat po })

/-- TST. -/
def tstOp (d b : BitVec 8) : State → Res :=
  tileOp d b (fun _ g => [(g.team, d.toNat)]) (moveOk b) (fun g _ => chunkCount (g.offset b) 24576) (fun r g p s =>
    let off := g.offset b
    let t := s.team g.team
    let bytes := (List.range 6144).flatMap fun i => bytesOfNat 4 (t.elem d.toNat i).toNat
    let s := (State.storeRegion (s.writer r.group p.lowLane) g.team (bit t.tP d.toNat || bit g.sPoison (sNum b)) 400 off bytes s).wroteRegion
      s r g.team off 24576
    s.updTeam g.team fun t => { t with tD := setBit t.tD d.toNat false })

/-! Attention (R229, R230). -/

/-- A row block. -/
structure RowBlock where
  scale : Word
  poff  : Nat
  half  : Bool
  t2    : Nat
  pair  : Bool
  deriving DecidableEq, Repr

/-- The row block at an offset; none where R229 rejects its own bytes. -/
def State.rowBlock (s : State) (g : Group) (off : Nat) : Option RowBlock :=
  if off % 16 ≠ 0 ∨ off + 16 > s.scratchOf g then none
  else
    let b := s.bytesAt (.pad g.team off) 16
    let at_ (o n : Nat) : Nat := natOfBytes ((b.drop o).take n)
    if at_ 8 1 ≤ 1 ∧ at_ 9 1 ≤ 15 ∧ at_ 10 1 ≤ 1 ∧ at_ 11 5 = 0 then
      some { scale := BitVec.ofNat 32 (at_ 0 4), poff := at_ 4 4, half := at_ 8 1 == 1, t2 := at_ 9 1, pair := at_ 10 1 == 1 }
    else none

/-- Columns of a row. -/
def RowBlock.width (b : RowBlock) : Nat := if b.pair then 96 else 48

/-- The row instructions. -/
inductive RowOp where
  | rowmax | expsub | scale
  deriving DecidableEq, Repr

/-- The checks of R339 on a row block. -/
def rowOk (o : RowOp) (d : Nat) (s : State) (g : Group) (b : RowBlock) : Bool :=
  (o == .scale || (b.t2 != d && b.t2 < s.tilesOf g)) &&
  (o != .expsub || b.poff + 256 * b.width ≤ s.scratchOf g) &&
  (!b.pair || ((s.pairTeam g.team d).isSome && (o == .scale || (s.pairTeam g.team b.t2).isSome)))

/-- Element (row, j) of a tile or a pair tile. -/
def State.rowElem (s : State) (hs : List (Nat × Nat)) (row j : Nat) : Word :=
  match hs[j / 48]? with
  | some (t, k) => (s.team t).elem k (row * 48 + j % 48)
  | none => 0

/-- TROWMAX on one row: the new maximum and the factor. -/
def rowMaxStep (c mold : Word) (xs : List Word) : Word × Word :=
  let mnew := xs.foldl (fun m x => fmax32 m (fmul32 c x)) mold
  (mnew, if mnew = 0xFF800000#32 then 0x3F800000#32 else expL (fsub32 mold mnew))

/-- TEXPSUB on one row: the codes of P and the new sum. -/
def expSubStep (half : Bool) (c m l : Word) (xs : List Word) : List Nat × Word :=
  let f := if half then fmt16 else fmtB16
  xs.foldl (fun (acc : List Nat × Word) x =>
    let y := fmul32 c x
    let p := if m = 0xFF800000#32 then 0#32 else if feq32 y m then 0x3F800000#32 else expL (fsub32 y m)
    let q := (f.write 0 0 false false (val32 p)).1
    (acc.1 ++ [q], fadd32 acc.2 (f32 (f.read false q)))) ([], l)

/-- TROWMAX over the tile. -/
def State.rowmax (s : State) (team d : Nat) (hs : List (Nat × Nat)) (b : RowBlock) : State :=
  (List.range 128).foldl (fun s' row =>
    let z := rowMaxStep b.scale ((s.team team).maxOf d row) ((List.range b.width).map (s.rowElem hs row))
    s'.updTeam team fun t => (t.setMax d row z.1).setSum b.t2 row z.2) s

/-- TEXPSUB over the tile; `poison` marks P, and the sums that it writes. -/
def State.expsub (s : State) (r : PathRef) (w : Writer) (team d : Nat) (hs : List (Nat × Nat)) (b : RowBlock) (poison : Bool) : State :=
  let x := s.team team
  let rows := (List.range 128).map fun row =>
    expSubStep b.half b.scale (x.maxOf d row) (fmul32 (x.sumOf d row) (x.sumOf b.t2 row))
      ((List.range b.width).map (s.rowElem hs row))
  let bytes := rows.flatMap fun e => e.1.flatMap (bytesOfNat 2)
  let s := (State.storeRegion w team poison 800 b.poff bytes s).wroteRegion s r team b.poff bytes.length
  s.updTeam team fun t => ((List.range 128).zip rows).foldl (fun t e => t.setSum d e.1 e.2.2) t

/-- TSCALE over the halves, with the factors of the issuing core. -/
def State.tscale (s : State) (team d : Nat) (hs : List (Nat × Nat)) : State :=
  hs.foldl (fun s' e => s'.updTeam e.1 fun t =>
    t.setTile e.2 (fun i => fmul32 (t.elem e.2 i) ((s.team team).sumOf d (i / 48))) true) s

/-- The row state of a tile is poisoned where `b` holds (R340). -/
def State.poisonRowsIf (s : State) (b : Bool) (team k : Nat) : State :=
  if b then s.updTeam team fun t => { t with rowP := setBit t.rowP k true } else s

/-- The effect of a row instruction, with the poison of R340: what it writes from poisoned data is poisoned, and its whole tile. -/
def rowEff (o : RowOp) (d : Nat) (blk : Bool) (r : PathRef) (g : Group) (p : Path) (b : RowBlock) (s : State) : State :=
  let hs := s.halves g.team d b.pair
  let own := s.team g.team
  let elems := hs.any fun e => bit (s.team e.1).tP e.2
  match o with
  | .rowmax =>
    let po := blk || elems || bit own.rowP d
    ((((s.rowmax g.team d hs b).poisonTileIf po g.team d).poisonTileIf po g.team b.t2).poisonRowsIf po g.team d).poisonRowsIf po
      g.team b.t2
  | .expsub =>
    let po := blk || elems || bit own.rowP d || bit own.rowP b.t2
    ((s.expsub r (s.writer r.group p.lowLane) g.team d hs b po).poisonTileIf po g.team d).poisonRowsIf po g.team d
  | .scale =>
    let po := blk || elems || bit own.rowP d
    hs.foldl (fun s' e => s'.poisonTileIf po e.1 e.2) (s.tscale g.team d hs)

/-- A row instruction. -/
def rowOp (o : RowOp) (d b : BitVec 8) : State → Res :=
  let block (s : State) (g : Group) : Option RowBlock := s.rowBlock g (g.offset b)
  tileOp d b
    (fun s g => s.halves g.team d.toNat (match block s g with | some x => x.pair | none => false))
    (fun s g => match block s g with | some x => rowOk o d.toNat s g x | none => false)
    (fun g s => match o, block s g with | .expsub, some x => chunkCount x.poff (256 * x.width) | _, _ => 0)
    (fun r g p s =>
      let v := s.view r
      match block v g with
      | some x => rowEff o d.toNat (bit g.sPoison (sNum b) || v.poisoned (.pad g.team (g.offset b)) 16) r g p x
          (s.saw r [(.pad g.team (g.offset b), 16)] (s.staleIds r))
      | none => s)

/-! MTOPK (R227). -/

/-- x ranks before y: numbers by value, NaN last, equal ones by index. -/
def ranks (largest : Bool) (x y : Nat × Word) : Bool :=
  let a := val32 x.2
  let b := val32 y.2
  if a.isNan then b.isNan && x.1 < y.1
  else if b.isNan then true
  else if a.eq b then x.1 < y.1
  else if largest then b.lt a else a.lt b

/-- Insert into a ranked list. -/
def rankIn (largest : Bool) (x : Nat × Word) : List (Nat × Word) → List (Nat × Word)
  | [] => [x]
  | y :: ys => if ranks largest x y then x :: y :: ys else y :: rankIn largest x ys

/-- The k choices of a row: index and value, a NaN as the canonical one. -/
def topk (largest : Bool) (k : Nat) (xs : List Word) : List (Nat × Word) :=
  ((((List.range xs.length).zip xs).foldl (fun l x => rankIn largest x l) []).take k).map fun e =>
    (e.1, if (val32 e.2).isNan then 0x7FC00000#32 else e.2)

/-- MTOPK. -/
def mtopkOp (d a b : BitVec 8) (s : State) : Res :=
  issuing s fun r g p =>
    let w := g.sreg (sNum b)
    let k := fld w 2 0 + 1
    let hs := s.halves g.team a.toNat (bit w 4)
    if !isS b || !isV g d || d.toNat % 2 != 0 || a.toNat ≥ s.tilesOf g then s.stopAll r p .illegalOperand
    else if !bit g.sPend (sNum b) && s.inFlight hs then s.hold r 5
    else if bit g.sPend (sNum b) || g.runPending d.toNat (2 * k) then s.stopAll r p .hazard
    else if fld w 31 7 != 0 || d.toNat + 2 * k > g.window || (bit w 4 && (s.pairTeam g.team a.toNat).isNone)
    then s.stopAll r p .illegalOperand
    else if bit g.sPoison (sNum b) || hs.any (fun e => bit (s.team e.1).tP e.2) then s.stopAll r p .poison
    else conclude r [] true (fun s =>
      let dests := (List.range 32).flatMap fun l =>
        let row := 32 * fld w 6 5 + l
        let cs := topk (bit w 3) k ((List.range (if bit w 4 then 96 else 48)).map (s.rowElem hs row))
        ((List.range k).zip cs).flatMap fun e =>
          [Dest.vreg l (d.toNat + 2 * e.1) (BitVec.ofNat 32 e.2.1) false, .vreg l (d.toNat + 2 * e.1 + 1) e.2.2 false]
      (s.setF hs).issueOp r (p.flagFor .returning) dests (tiles := hs) (lane := p.lowLane)) s

/-- MMA (R223). -/
def execMma (d : BitVec 8) (h r : BitVec 1) (b : BitVec 8) (s : State) : Res := matrixOp true false d h r b s

/-- MMAH (R224). -/
def execMmah (d : BitVec 8) (h r : BitVec 1) (b : BitVec 8) (s : State) : Res := matrixOp false false d h r b s

/-- MDIST (R224). -/
def execMdist (d : BitVec 8) (h r : BitVec 1) (b : BitVec 8) (s : State) : Res := matrixOp false true d h r b s

/-- MTOPK (R227). -/
def execMtopk (d a b : BitVec 8) (s : State) : Res := mtopkOp d a b s

/-- TZERO (R228). -/
def execTzero (d : BitVec 8) (s : State) : Res := tzeroOp d s

/-- TLD (R228). -/
def execTld (d b : BitVec 8) (s : State) : Res := tldOp d b s

/-- TST (R228). -/
def execTst (d b : BitVec 8) (s : State) : Res := tstOp d b s

/-- TROWMAX (R230). -/
def execTrowmax (d b : BitVec 8) (s : State) : Res := rowOp .rowmax d b s

/-- TEXPSUB (R230). -/
def execTexpsub (d b : BitVec 8) (s : State) : Res := rowOp .expsub d b s

/-- TSCALE (R230). -/
def execTscale (d b : BitVec 8) (s : State) : Res := rowOp .scale d b s

end Sys2Proof.Machine
end

