-- ==== Sys2Proof/Machine/Observe.lean ====
section
/-! DEFINITION. The end of a reverse step and the check for divergence (R205, R207), and the Stipple profiler (R211 to R213). -/

namespace Sys2Proof.Machine

/-! Reverse steps. -/

/-- The group of a reverse step. -/
def State.replayGroup (s : State) (x : Replay) : Option Nat := s.groupAt x.team x.gid

/-- Each live lane of L has reached a count. -/
def Replay.reached (x : Replay) (g : Group) (t : Tbl Word) : Bool :=
  x.passes == 0 && (lanesOf (g.live &&& x.lanes)).all fun l => tget 0#32 t l ≤ (g.lane l).rcnt

/-- The paths that hold lanes of L freeze with cause STEP, and each is reported (R205, R210). -/
def State.stopReplay (s : State) (k : Nat) (x : Replay) : State :=
  ((s.group k).entries.filter fun e => x.on e.2 && e.2.state != .frozen).foldl (fun (s : State) e =>
    let s := s.updGroup k fun g => (g.endStep e.1).updPath e.1 fun p => { p with freezer := .debugger, before := .empty }
    let p := (s.group k).path e.1
    s.debugRecord k e.1 3 ((s.group k).summary p.mask) 0xFF p.mask p.pc ((s.group k).rcntOf p.mask)) s

/-- REVERSE_STEP_COMPLETE: team. -/
def execReverseStepComplete (s : State) : Res :=
  let ctx := s.ev.a / 4194304
  .next (match (s.ctx ctx).rstep with
  | some x =>
    if x.running && x.team == s.ev.a then
      match s.replayGroup x with
      | none => s.updCtx ctx fun c => { c with rstep := none }
      | some k =>
        if x.reached (s.group k) x.targets then
          (s.stopReplay k x).updCtx ctx fun c => { c with rstep := some { x with running := false } }
        else s
    else s
  | none => s)

/-- Every path of the context holds lanes of L alone. -/
def State.wholeReplay (s : State) (ctx k : Nat) (x : Replay) : Bool :=
  ((s.ctxGroups ctx).filter fun j => !(s.group j).isHandler).all fun j =>
    (s.group j).live == 0 || (j == k && (s.group j).live &&& ~~~x.lanes == 0)

/-- A page that the original run dirtied is compared (R207). -/
def State.comparable (s : State) (whole : Bool) (x : Replay) (d : LogEntry) : Bool :=
  whole || (natOfBytes ((d.old.drop 40).take 4) == (s.team x.team).tid && d.tid == (s.team x.team).tid &&
    (BitVec.ofNat 32 (natOfBytes ((d.old.drop 44).take 4)) : BitVec 32) &&& ~~~x.lanes == 0)

/-- The re-execution has reached the original stop: pages that differ are reported (R207, R210). -/
def State.compareDigests (s : State) (ctx k : Nat) (x : Replay) : State :=
  let whole := s.wholeReplay ctx k x
  let (seen, unseen) := x.digests.partition (s.comparable whole x)
  let e := (((lanesOf x.lanes).head?).bind (s.group k).entryOf).getD 0
  seen.foldl (fun (s : State) d =>
    if sha256 (s.bytesAt (.dev d.addr) pageSize) == d.old.take 32 then s
    else s.debugRecord k e 2 0 0xFF x.lanes (BitVec.ofNat 64 d.addr) unseen.length) s

/-- Once the lanes of a finished reverse step stand at the original stop again, the run is compared with it. -/
def State.replayEnd (s : State) (ctx : Nat) : State :=
  match (s.ctx ctx).rstep with
  | some x =>
    if x.running then s
    else
      let s' := s.updCtx ctx fun c => { c with rstep := none }
      match s.replayGroup x with
      | none => s'
      | some k => if x.reached (s.group k) x.origs then s'.compareDigests ctx k x else s
  | none => s

/-- READY paths that a reverse step re-executes are STEPPING (R205). -/
def State.replaySteps (s : State) (ctx : Nat) : State :=
  match (s.ctx ctx).rstep with
  | some x =>
    if !x.running then s
    else match s.replayGroup x with
      | none => s
      | some k => s.updGroup k fun g => g.mapPaths fun p =>
          if p.state = .ready ∧ x.on p then { p with state := .stepping, freezer := .rewind } else p
  | none => s

/-! The profiler. -/

/-- Sampling is on, and the interval of a partition has passed (R211). -/
def State.sampleDue (s : State) (cp : Nat) : Bool :=
  let c := s.core (cp / 4)
  bit c.profcfg 31 && clocks (cp / 4) (s.clock - tget c.since c.profLast (cp % 4)) ≥ 2 ^ fld c.profcfg 4 0

/-- The slots of a partition in the order of the rotation. -/
def sampleOrder (first : Nat) : List Nat := (List.range 16).map fun i => (first + i) % 16

/-- The group slot that is sampled next. -/
def State.sampleSlot (s : State) (cp : Nat) : Option Nat :=
  (sampleOrder (tget 0 (s.core (cp / 4)).profNext (cp % 4))).find? fun i => (s.group (cp * 16 + i)).used

/-- The path issued a word in the present clock. -/
def State.issuedNow (s : State) (r : PathRef) : Bool := s.turn.any fun e => e.1 == r && e.2 != .fetch

/-- The path that is sampled: the lowest that issued in the clock, the one that R172 would choose, or the lowest (R211). -/
def State.samplePath (s : State) (k : Nat) : Nat :=
  let rs := (s.group k).entries.map fun e => (⟨k, e.1⟩ : PathRef)
  match rs.find? s.issuedNow, s.first (rs.filter s.issuable) with
  | some r, _ => r.path
  | none, some r => r.path
  | none, none => ((rs.head?).map (·.path)).getD 0

/-- The reason that a parked path gives (R213). -/
def Path.parkedReason (p : Path) : Option Nat :=
  match p.state, p.wait with
  | .flagwait, .clauseFlags => some 2
  | .flagwait, .flag .. | .stepping, .flag .. => some 3
  | .barwait, .tsync | .barwait, .nbar _ | .barwait, .csync | .barwait, .object .. => some 8
  | .regang, _ => some 9
  | .barwait, .compact => some 10
  | .yielded, _ => some 11
  | .barwait, .monitor _ => some 12
  | .flagwait, .regrow .. | .stepping, .regrow .. => some 13
  | .flagwait, .regfree _ | .stepping, .regfree _ => some 14
  | .flagwait, .reorder .. => some 18
  | .barwait, .window _ => some 21
  | _, _ => none

/-- The reason that a frozen path gives (R213). -/
def State.frozenReason (s : State) (g : Group) (p : Path) : Nat :=
  match p.freezer with
  | .stop | .nobody => 15
  | .debugger => 28
  | .rewind | .rewound => 22
  | .ladder => 31
  | .management => if (s.ctx g.ctx).saving.isSome then 25 else 31

/-- The reason that holds back the next word of a path, as far as R213 numbers it before STEPPING. -/
def State.wordReason (s : State) (r : PathRef) : Option Nat :=
  let g := s.group r.group
  let p := g.path r.path
  if !s.runnable g p then none
  else match p.clause with
    | none => if p.held = 0 then some 7 else none
    | some c => if p.pc = p.clhdr ∧ !g.flagsZero (hWait c.header) then some 2 else (s.heldBack r).filter (· < 16)

/-- REASON of a path that did not issue: the first that applies (R213). -/
def State.reason (s : State) (r : PathRef) : Nat :=
  let g := s.group r.group
  let p := g.path r.path
  if s.issuable r then 1
  else if p.state = .frozen then s.frozenReason g p
  else match p.parkedReason, s.wordReason r with
    | some n, _ => n
    | none, some n => n
    | none, none =>
      if p.state = .stepping then 16
      else match s.heldBack r with
        | some n => n
        | none => if p.held = 0 then 31 else p.held.toNat

/-- A sample record (R212). -/
def State.sampleRecord (s : State) (k i : Nat) : List Byte :=
  let g := s.group k
  let r : PathRef := ⟨k, i⟩
  let issued := s.issuedNow r
  let c := coreOf k
  bytesOfNat 8 ((g.path i).pc.toNat / 4 * 2 ^ 11 + issued.toNat * 2 ^ 10 + (if issued then 0 else s.reason r) * 2 ^ 5 + i) ++
  bytesOfNat 8 (s.cycles c) ++
  bytesOfNat 4 (g.ctx * 2 ^ 20 + c * 2 ^ 13 + partOf k * 2 ^ 11 + k % 16 * 2 ^ 7) ++
  bytesOfNat 4 (s.team g.team).tid ++ List.replicate 8 0

/-- Where the next record of a core stands: slot PROFPOS mod 2^BSZ (R211). -/
def Core.sampleAddr (c : Core) : Nat := c.profbase.toNat * pageSize + 32 * (c.profpos.toNat % 2 ^ fld c.profcfg 12 8)

/-- A record is written to the ring; it is not logged (R211). -/
def State.writeSample (s : State) (core : Nat) (rec : List Byte) : State :=
  let a := (s.core core).sampleAddr
  let s := if s.frameUsable (a / pageSize) then (s.setBytes (.dev a) rec).touch (.dev a) else s
  s.updCore core fun c => { c with profpos := c.profpos + 1 }

/-- PROFILER_SAMPLE: partition, core × 4 + partition. -/
def execProfilerSample (s : State) : Res :=
  let cp := s.ev.a
  let core := cp / 4
  if !s.sampleDue cp then .next s
  else
    let stamped (next : Option Nat) (s : State) : State := s.updCore core fun c =>
      { c with profLast := tput c.profLast (cp % 4) s.clock,
               profNext := match next with | some i => tput c.profNext (cp % 4) ((i + 1) % 16) | none => c.profNext }
    match s.sampleSlot cp with
    | none => .next (stamped none s)
    | some i =>
      let k := cp * 16 + i
      .next (stamped (some i) (s.writeSample core (s.sampleRecord k (s.samplePath k))))

end Sys2Proof.Machine
end

