-- ==== Sys2Proof/Machine/Sampling.lean ====
section
/-! DEFINITION. The sampling engine: SAMPLE and SPECACC (R234 to R237, R331). -/

namespace Sys2Proof.Machine

/-- round_f32(x ÷ y). -/
def fdiv32 (x y : Word) : Word := f32 (FV.quot (val32 x) (val32 y))
/-- x > 0. -/
def fpos32 (x : Word) : Bool := (FV.fin false 0 0).lt (val32 x)
/-- The f32 sum of a list, in its order. -/
def fsum32 (xs : List Word) : Word := xs.foldl fadd32 0

/-! The sampling block (R234). -/

/-- A sampling block. -/
structure SBlock where
  logits : DWord
  n      : Nat
  fmt    : Nat
  slot   : Nat
  temp   : Word
  topp   : Word
  topk   : Nat
  mask   : DWord
  idx    : Nat
  deriving DecidableEq, Repr

/-- A sampling block in 48 bytes; none where R234 rejects it. -/
def parseSBlock (b : List Byte) : Option SBlock :=
  let at_ (o n : Nat) : Nat := natOfBytes ((b.drop o).take n)
  let x : SBlock := { logits := BitVec.ofNat 64 (at_ 0 8), n := at_ 8 4, fmt := at_ 12 1, slot := at_ 13 1,
                      temp := BitVec.ofNat 32 (at_ 16 4), topp := BitVec.ofNat 32 (at_ 20 4), topk := at_ 24 4,
                      mask := BitVec.ofNat 64 (at_ 32 8), idx := at_ 40 4 }
  let finite (w : Word) : Bool := match val32 w with | .fin .. => true | _ => false
  if 1 ≤ x.n ∧ x.n ≤ 262144 ∧ (x.fmt = 0 ∨ x.fmt = 1 ∨ x.fmt = 4) ∧ x.slot ≤ 15 ∧ at_ 14 2 = 0 ∧ at_ 28 4 = 0 ∧ at_ 44 4 = 0 ∧
     finite x.temp ∧ !(val32 x.temp).lt (.fin false 0 0) ∧ finite x.topp ∧ fpos32 x.topp ∧
     !(FV.fin false 1 0).lt (val32 x.topp) ∧ x.topk ≤ x.n then some x else none

/-- Bytes of a logit. -/
def SBlock.size (b : SBlock) : Nat := if b.fmt = 4 then 4 else 2
/-- A logit as f32, exact; NaN stays NaN. -/
def SBlock.logit (b : SBlock) (x : Nat) : Word :=
  match b.fmt with
  | 4 => BitVec.ofNat 32 x
  | 0 => f32 (fmtB16.read false x)
  | _ => f32 (fmt16.read false x)

/-! The distribution (R235). -/

/-- −∞ in f32. -/
def negInf : Word := 0xFF800000#32
/-- 1.0 in f32. -/
def one32 : Word := 0x3F800000#32
/-- The largest value of a list. -/
def largest32 (xs : List Word) : Word := xs.foldl (fun m x => if (val32 m).lt (val32 x) then x else m) negInf
/-- Indices of a list in descending value, equal ones by index. -/
def descending (xs : List Word) : List (Nat × Word) :=
  ((List.range xs.length).zip xs).foldl (fun l x => rankIn true x l) []
/-- The shortest prefix whose running sum reaches TOPP; all positive entries where none does. -/
def nucleus (topp : Word) : Word → List (Nat × Word) → Option (List (Nat × Word))
  | _, [] => none
  | c, x :: xs =>
    let c := fadd32 c x.2
    if (val32 c).lt (val32 topp) then (nucleus topp c xs).map (x :: ·) else some [x]

/-- dist: the probability of every entry. -/
def distribution (b : SBlock) (logits : List Word) (allowed : Nat → Bool) : List Word :=
  let x := ((List.range b.n).zip logits).map fun e => if (val32 e.2).isNan || !allowed e.1 then negInf else e.2
  if (val32 b.temp).isZero then
    let m := largest32 x
    if m = negInf then x.map fun _ => 0
    else
      let at_ := (x.findIdx? fun y => feq32 y m).getD 0
      (List.range b.n).map fun i => if i = at_ then one32 else 0
  else
    let z := x.map fun y => fdiv32 y b.temp
    let kept := ((descending z).take (if b.topk = 0 then b.n else b.topk)).map (·.1)
    let z := ((List.range b.n).zip z).map fun e => if kept.contains e.1 then e.2 else negInf
    let m := largest32 z
    if m = negInf then x.map fun _ => 0
    else
      let e := z.map fun y => if feq32 y m then one32 else expL (fsub32 y m)
      let total := fsum32 e
      let p := e.map fun y => fdiv32 y total
      let order := descending p
      let keep := (nucleus b.topp 0 order).getD (order.filter fun y => fpos32 y.2)
      let s := fsum32 (keep.map (·.2))
      ((List.range b.n).zip p).map fun y => if keep.any (·.1 == y.1) then fdiv32 y.2 s else 0

/-- The uniform value of a draw: 24 bits below 1 (R104, R235). -/
def Group.uniformDraw (g : Group) (slot idx : Nat) : FV := .fin false (g.drawBits slot idx 32 / 256) (-24)

/-- draw: the first entry, in descending order, whose running sum exceeds u; the last positive one where none does. -/
def drawFrom (u : FV) : Word → Option Nat → List (Nat × Word) → Word
  | _, last, [] => match last with | some i => BitVec.ofNat 32 i | none => 0xFFFFFFFF#32
  | c, _, x :: xs =>
    let c := fadd32 c x.2
    if u.lt (val32 c) then BitVec.ofNat 32 x.1 else drawFrom u c (some x.1) xs

/-- Step 7. -/
def Group.drawToken (g : Group) (q : List Word) (slot idx : Nat) : Word :=
  drawFrom (g.uniformDraw slot idx) 0 none ((descending q).filter fun e => fpos32 e.2)

/-! Reading a block's data. -/

/-- The distribution of a block, and whether its data are poisoned. -/
def State.sampleDist (s : State) (r : PathRef) (ag : Agent) (b : SBlock) : State × Except (Cause × DWord) (List Word × Bool) :=
  match s.readRegion ag b.size b.logits (b.n * b.size) .strongRead with
  | (s, .error c) => (s, .error c)
  | (s, .ok segs) =>
    let mask : State × Except (Cause × DWord) (List (Loc × Nat)) :=
      if b.mask = 0 then (s, .ok []) else s.readRegion ag 1 b.mask ((b.n + 7) / 8) .strongRead
    match mask with
    | (s, .error c) => (s, .error c)
    | (s, .ok msegs) =>
      let bytes := s.segBytes segs
      let mbytes := s.segBytes msegs
      let logits := (List.range b.n).map fun i => b.logit (natOfBytes ((bytes.drop (i * b.size)).take b.size))
      let allowed (i : Nat) : Bool := b.mask == 0 || bit (mbytes.getD (i / 8) 0) (i % 8)
      (s.saw r (segs ++ msegs), .ok (distribution b logits allowed, s.segPoison segs || s.segPoison msegs))

/-- A sampling instruction: the block of `n` bytes is read at issue, and the results land at completion. -/
def sampleOp (regs n : Nat) (d b : BitVec 8)
    (run : PathRef → Group → Agent → List Byte → State → Option (State × Except (Cause × DWord) (List Word × Bool))) (s : State) : Res :=
  issuing s fun r g p =>
    let chk : Checks := { field := isS d && d.toNat % regs == 0 && isS b, uses := (readsRun b 1).and (writesRun d regs) }
    match chk.cause g 0 {} with
    | some x => s.stopAll r p x
    | none =>
      let off := g.offset b
      if off % 16 ≠ 0 ∨ off + n > s.scratchOf g then s.stopAll r p .illegalOperand
      else
        let poison := s.poisoned (.pad g.team off) n
        match run r g (g.agent r.group none) (s.bytesAt (.pad g.team off) n) s with
        | none => s.stopAll r p .illegalOperand
        | some (s, .error c) => s.stopAll r p c.1 c.2
        | some (s, .ok (ws, po)) => conclude r [] true (fun s =>
            (s.saw r [(.pad g.team off, n)]).issueOp r (p.flagFor .returning)
              ((List.range regs).map fun i => Dest.sreg (sNum d + i) (wordAt ws i) (po || poison)) (lane := p.lowLane)) s

/-- SAMPLE (R235). -/
def sampleRun (r : PathRef) (g : Group) (ag : Agent) (b : List Byte) (s : State) :
    Option (State × Except (Cause × DWord) (List Word × Bool)) :=
  (parseSBlock b).map fun x =>
    match s.sampleDist r ag x with
    | (s, .error c) => (s, .error c)
    | (s, .ok (q, po)) => (s, .ok ([g.drawToken q x.slot x.idx], po))

/-- The verdict of SPECACC on the target's and the draft's distributions (R236). -/
def accept (g : Group) (t : SBlock) (p q : List Word) (token accidx : Nat) : List Word :=
  let at_ (xs : List Word) (i : Nat) : Word := wordAt xs i
  let u := g.uniformDraw t.slot accidx
  let pt := at_ p token
  let qt := at_ q token
  if token < t.n && ((fpos32 qt && (u.mul (val32 qt)).1.lt (val32 pt)) || (!fpos32 qt && fpos32 pt)) then
    [BitVec.ofNat 32 token, 1]
  else
    let res := (List.range t.n).map fun i =>
      let d := fsub32 (at_ p i) (at_ q i)
      if fpos32 d then d else 0
    let total := fsum32 res
    let d := if (val32 total).isZero then p else res.map fun x => fdiv32 x total
    [g.drawToken d t.slot t.idx, 0]

/-- SPECACC (R236). -/
def specaccRun (r : PathRef) (g : Group) (ag : Agent) (b : List Byte) (s : State) :
    Option (State × Except (Cause × DWord) (List Word × Bool)) :=
  match parseSBlock (b.take 48), parseSBlock ((b.drop 48).take 48) with
  | some t, some d =>
    if natOfBytes (b.drop 104) ≠ 0 then none
    else some (match s.sampleDist r ag t with
      | (s, .error c) => (s, .error c)
      | (s, .ok (p, po)) =>
        match s.sampleDist r ag d with
        | (s, .error c) => (s, .error c)
        | (s, .ok (q, qo)) =>
          (s, .ok (accept g t p q (natOfBytes ((b.drop 96).take 4)) (natOfBytes ((b.drop 100).take 4)), po || qo)))
  | _, _ => none

/-- SAMPLE (R235). -/
def execSample (d b : BitVec 8) (s : State) : Res := sampleOp 1 48 d b sampleRun s

/-- SPECACC (R236). -/
def execSpecacc (d b : BitVec 8) (s : State) : Res := sampleOp 2 112 d b specaccRun s

end Sys2Proof.Machine
end

