-- ==== Sys2Proof/Machine/Dispatch.lean ====
section
/-! DEFINITION. One arm per constructor of `Instr`: a direct call of its meaning. -/

namespace Sys2Proof.Machine

open Sys2Proof

def exec (i : Instr) (s : State) : Host.Outcome State Fault Refusal :=
  match i with
  | .nop => Sys2Proof.Machine.execNop s
  | .bra h o => Sys2Proof.Machine.execBra h o s
  | .brp h p o => Sys2Proof.Machine.execBrp h p o s
  | .brpn h p o => Sys2Proof.Machine.execBrpn h p o s
  | .brq h p o => Sys2Proof.Machine.execBrq h p o s
  | .call h o => Sys2Proof.Machine.execCall h o s
  | .calli a => Sys2Proof.Machine.execCalli a s
  | .ret => Sys2Proof.Machine.execRet s
  | .jmpi a => Sys2Proof.Machine.execJmpi a s
  | .regang a => Sys2Proof.Machine.execRegang a s
  | .compact => Sys2Proof.Machine.execCompact s
  | .exit => Sys2Proof.Machine.execExit s
  | .yieldc d a => Sys2Proof.Machine.execYieldc d a s
  | .waitf a b => Sys2Proof.Machine.execWaitf a b s
  | .trap b => Sys2Proof.Machine.execTrap b s
  | .brk b => Sys2Proof.Machine.execBrk b s
  | .setmode b => Sys2Proof.Machine.execSetmode b s
  | .setmodeK k => Sys2Proof.Machine.execSetmodeK k s
  | .srd d b => Sys2Proof.Machine.execSrd d b s
  | .swr a b => Sys2Proof.Machine.execSwr a b s
  | .sadd d a b => Sys2Proof.Machine.execSadd d a b s
  | .saddK d a k => Sys2Proof.Machine.execSaddK d a k s
  | .ssub d a b => Sys2Proof.Machine.execSsub d a b s
  | .ssubK d a k => Sys2Proof.Machine.execSsubK d a k s
  | .smul d a b => Sys2Proof.Machine.execSmul d a b s
  | .smulK d a k => Sys2Proof.Machine.execSmulK d a k s
  | .smulh d a b => Sys2Proof.Machine.execSmulh d a b s
  | .sand d a b => Sys2Proof.Machine.execSand d a b s
  | .sandK d a k => Sys2Proof.Machine.execSandK d a k s
  | .sor d a b => Sys2Proof.Machine.execSor d a b s
  | .sorK d a k => Sys2Proof.Machine.execSorK d a k s
  | .sxor d a b => Sys2Proof.Machine.execSxor d a b s
  | .sxorK d a k => Sys2Proof.Machine.execSxorK d a k s
  | .sshl d a b => Sys2Proof.Machine.execSshl d a b s
  | .sshlK d a k => Sys2Proof.Machine.execSshlK d a k s
  | .sshr d a b => Sys2Proof.Machine.execSshr d a b s
  | .sshrK d a k => Sys2Proof.Machine.execSshrK d a k s
  | .ssra d a b => Sys2Proof.Machine.execSsra d a b s
  | .ssraK d a k => Sys2Proof.Machine.execSsraK d a k s
  | .smin d a b => Sys2Proof.Machine.execSmin d a b s
  | .sminK d a k => Sys2Proof.Machine.execSminK d a k s
  | .smax d a b => Sys2Proof.Machine.execSmax d a b s
  | .smaxK d a k => Sys2Proof.Machine.execSmaxK d a k s
  | .scmp c q a b => Sys2Proof.Machine.execScmp c q a b s
  | .scmpK c q a k => Sys2Proof.Machine.execScmpK c q a k s
  | .ssel d n b => Sys2Proof.Machine.execSsel d n b s
  | .sselK d n k => Sys2Proof.Machine.execSselK d n k s
  | .smov d b => Sys2Proof.Machine.execSmov d b s
  | .smovK d k => Sys2Proof.Machine.execSmovK d k s
  | .sadd64 d a b => Sys2Proof.Machine.execSadd64 d a b s
  | .sadd64K d a k => Sys2Proof.Machine.execSadd64K d a k s
  | .sbfe d a b => Sys2Proof.Machine.execSbfe d a b s
  | .sbfeK d a k => Sys2Proof.Machine.execSbfeK d a k s
  | .spopc d a => Sys2Proof.Machine.execSpopc d a s
  | .vadd d a b => Sys2Proof.Machine.execVadd d a b s
  | .vaddK d a k => Sys2Proof.Machine.execVaddK d a k s
  | .vsub d a b => Sys2Proof.Machine.execVsub d a b s
  | .vsubK d a k => Sys2Proof.Machine.execVsubK d a k s
  | .vmul d a b => Sys2Proof.Machine.execVmul d a b s
  | .vmulK d a k => Sys2Proof.Machine.execVmulK d a k s
  | .vmulh d a b => Sys2Proof.Machine.execVmulh d a b s
  | .vmad d a b => Sys2Proof.Machine.execVmad d a b s
  | .vmadK d a k => Sys2Proof.Machine.execVmadK d a k s
  | .vand d a b => Sys2Proof.Machine.execVand d a b s
  | .vandK d a k => Sys2Proof.Machine.execVandK d a k s
  | .vor d a b => Sys2Proof.Machine.execVor d a b s
  | .vorK d a k => Sys2Proof.Machine.execVorK d a k s
  | .vxor d a b => Sys2Proof.Machine.execVxor d a b s
  | .vxorK d a k => Sys2Proof.Machine.execVxorK d a k s
  | .vshl d a b => Sys2Proof.Machine.execVshl d a b s
  | .vshlK d a k => Sys2Proof.Machine.execVshlK d a k s
  | .vshr d a b => Sys2Proof.Machine.execVshr d a b s
  | .vshrK d a k => Sys2Proof.Machine.execVshrK d a k s
  | .vsra d a b => Sys2Proof.Machine.execVsra d a b s
  | .vsraK d a k => Sys2Proof.Machine.execVsraK d a k s
  | .vmin d a b => Sys2Proof.Machine.execVmin d a b s
  | .vminK d a k => Sys2Proof.Machine.execVminK d a k s
  | .vmax d a b => Sys2Proof.Machine.execVmax d a b s
  | .vmaxK d a k => Sys2Proof.Machine.execVmaxK d a k s
  | .vabs d a => Sys2Proof.Machine.execVabs d a s
  | .vneg d a => Sys2Proof.Machine.execVneg d a s
  | .vbfe d a b => Sys2Proof.Machine.execVbfe d a b s
  | .vbfeK d a k => Sys2Proof.Machine.execVbfeK d a k s
  | .vbfi d a b => Sys2Proof.Machine.execVbfi d a b s
  | .vbfiK d a k => Sys2Proof.Machine.execVbfiK d a k s
  | .vpopc d a => Sys2Proof.Machine.execVpopc d a s
  | .vclz d a => Sys2Proof.Machine.execVclz d a s
  | .vcmp c p a b => Sys2Proof.Machine.execVcmp c p a b s
  | .vcmpK c p a k => Sys2Proof.Machine.execVcmpK c p a k s
  | .vsel d n b => Sys2Proof.Machine.execVsel d n b s
  | .vselK d n k => Sys2Proof.Machine.execVselK d n k s
  | .vmov d b => Sys2Proof.Machine.execVmov d b s
  | .vmovK d k => Sys2Proof.Machine.execVmovK d k s
  | .fadd d a b => Sys2Proof.Machine.execFadd d a b s
  | .faddK d a k => Sys2Proof.Machine.execFaddK d a k s
  | .fsub d a b => Sys2Proof.Machine.execFsub d a b s
  | .fsubK d a k => Sys2Proof.Machine.execFsubK d a k s
  | .fmul d a b => Sys2Proof.Machine.execFmul d a b s
  | .fmulK d a k => Sys2Proof.Machine.execFmulK d a k s
  | .ffma d a b => Sys2Proof.Machine.execFfma d a b s
  | .ffmaK d a k => Sys2Proof.Machine.execFfmaK d a k s
  | .fmin d a b => Sys2Proof.Machine.execFmin d a b s
  | .fminK d a k => Sys2Proof.Machine.execFminK d a k s
  | .fmax d a b => Sys2Proof.Machine.execFmax d a b s
  | .fmaxK d a k => Sys2Proof.Machine.execFmaxK d a k s
  | .fcmp c p a b => Sys2Proof.Machine.execFcmp c p a b s
  | .fcmpK c p a k => Sys2Proof.Machine.execFcmpK c p a k s
  | .frcp d a => Sys2Proof.Machine.execFrcp d a s
  | .frsq d a => Sys2Proof.Machine.execFrsq d a s
  | .fsqrt d a => Sys2Proof.Machine.execFsqrt d a s
  | .fexp2 d a => Sys2Proof.Machine.execFexp2 d a s
  | .flog2 d a => Sys2Proof.Machine.execFlog2 d a s
  | .fsin d a => Sys2Proof.Machine.execFsin d a s
  | .fcos d a => Sys2Proof.Machine.execFcos d a s
  | .ftanh d a => Sys2Proof.Machine.execFtanh d a s
  | .fsigm d a => Sys2Proof.Machine.execFsigm d a s
  | .cvt d a b => Sys2Proof.Machine.execCvt d a b s
  | .quant d a b => Sys2Proof.Machine.execQuant d a b s
  | .deq d a b => Sys2Proof.Machine.execDeq d a b s
  | .pack d a b => Sys2Proof.Machine.execPack d a b s
  | .unpk d a b => Sys2Proof.Machine.execUnpk d a b s
  | .lballot d a => Sys2Proof.Machine.execLballot d a s
  | .lbcast d a b => Sys2Proof.Machine.execLbcast d a b s
  | .lpush d a b => Sys2Proof.Machine.execLpush d a b s
  | .lreduce d a b => Sys2Proof.Machine.execLreduce d a b s
  | .lscan d a b => Sys2Proof.Machine.execLscan d a b s
  | .lshuf d a b => Sys2Proof.Machine.execLshuf d a b s
  | .rng d a b => Sys2Proof.Machine.execRng d a b s
  | .rngdrop d a b => Sys2Proof.Machine.execRngdrop d a b s
  | .rngkey a b => Sys2Proof.Machine.execRngkey a b s
  | .ld8 d a b => Sys2Proof.Machine.execLd8 d a b s
  | .ld8K d a k => Sys2Proof.Machine.execLd8K d a k s
  | .lds8 d a b => Sys2Proof.Machine.execLds8 d a b s
  | .lds8K d a k => Sys2Proof.Machine.execLds8K d a k s
  | .ld16 d a b => Sys2Proof.Machine.execLd16 d a b s
  | .ld16K d a k => Sys2Proof.Machine.execLd16K d a k s
  | .lds16 d a b => Sys2Proof.Machine.execLds16 d a b s
  | .lds16K d a k => Sys2Proof.Machine.execLds16K d a k s
  | .ld32 d a b => Sys2Proof.Machine.execLd32 d a b s
  | .ld32K d a k => Sys2Proof.Machine.execLd32K d a k s
  | .ld64 d a b => Sys2Proof.Machine.execLd64 d a b s
  | .ld64K d a k => Sys2Proof.Machine.execLd64K d a k s
  | .ld128 d a b => Sys2Proof.Machine.execLd128 d a b s
  | .ld128K d a k => Sys2Proof.Machine.execLd128K d a k s
  | .st8 d a b => Sys2Proof.Machine.execSt8 d a b s
  | .st8K d a k => Sys2Proof.Machine.execSt8K d a k s
  | .st16 d a b => Sys2Proof.Machine.execSt16 d a b s
  | .st16K d a k => Sys2Proof.Machine.execSt16K d a k s
  | .st32 d a b => Sys2Proof.Machine.execSt32 d a b s
  | .st32K d a k => Sys2Proof.Machine.execSt32K d a k s
  | .st64 d a b => Sys2Proof.Machine.execSt64 d a b s
  | .st64K d a k => Sys2Proof.Machine.execSt64K d a k s
  | .st128 d a b => Sys2Proof.Machine.execSt128 d a b s
  | .st128K d a k => Sys2Proof.Machine.execSt128K d a k s
  | .sld32 d a b => Sys2Proof.Machine.execSld32 d a b s
  | .sld32K d a k => Sys2Proof.Machine.execSld32K d a k s
  | .sld64 d a b => Sys2Proof.Machine.execSld64 d a b s
  | .sld64K d a k => Sys2Proof.Machine.execSld64K d a k s
  | .sst32 d a b => Sys2Proof.Machine.execSst32 d a b s
  | .sst32K d a k => Sys2Proof.Machine.execSst32K d a k s
  | .sst64 d a b => Sys2Proof.Machine.execSst64 d a b s
  | .sst64K d a k => Sys2Proof.Machine.execSst64K d a k s
  | .ldl32 d a b => Sys2Proof.Machine.execLdl32 d a b s
  | .ldl32K d a k => Sys2Proof.Machine.execLdl32K d a k s
  | .ldl64 d a b => Sys2Proof.Machine.execLdl64 d a b s
  | .ldl64K d a k => Sys2Proof.Machine.execLdl64K d a k s
  | .ldl128 d a b => Sys2Proof.Machine.execLdl128 d a b s
  | .ldl128K d a k => Sys2Proof.Machine.execLdl128K d a k s
  | .stl32 d a b => Sys2Proof.Machine.execStl32 d a b s
  | .stl32K d a k => Sys2Proof.Machine.execStl32K d a k s
  | .stl64 d a b => Sys2Proof.Machine.execStl64 d a b s
  | .stl64K d a k => Sys2Proof.Machine.execStl64K d a k s
  | .stl128 d a b => Sys2Proof.Machine.execStl128 d a b s
  | .stl128K d a k => Sys2Proof.Machine.execStl128K d a k s
  | .fence k => Sys2Proof.Machine.execFence k s
  | .mwait a b => Sys2Proof.Machine.execMwait a b s
  | .pref l a b => Sys2Proof.Machine.execPref l a b s
  | .atadd d a b => Sys2Proof.Machine.execAtadd d a b s
  | .atand d a b => Sys2Proof.Machine.execAtand d a b s
  | .atcas d a b => Sys2Proof.Machine.execAtcas d a b s
  | .atfadd d a b => Sys2Proof.Machine.execAtfadd d a b s
  | .atmax d a b => Sys2Proof.Machine.execAtmax d a b s
  | .atmin d a b => Sys2Proof.Machine.execAtmin d a b s
  | .ator d a b => Sys2Proof.Machine.execAtor d a b s
  | .atxchg d a b => Sys2Proof.Machine.execAtxchg d a b s
  | .atxor d a b => Sys2Proof.Machine.execAtxor d a b s
  | .msadd a b => Sys2Proof.Machine.execMsadd a b s
  | .msmax a b => Sys2Proof.Machine.execMsmax a b s
  | .msmin a b => Sys2Proof.Machine.execMsmin a b s
  | .hnew d a => Sys2Proof.Machine.execHnew d a s
  | .hfree a => Sys2Proof.Machine.execHfree a s
  | .hupg d a => Sys2Proof.Machine.execHupg d a s
  | .hrel a => Sys2Proof.Machine.execHrel a s
  | .hprio a b => Sys2Proof.Machine.execHprio a b s
  | .vpublish d a => Sys2Proof.Machine.execVpublish d a s
  | .kvx d a b => Sys2Proof.Machine.execKvx d a b s
  | .mappg a b => Sys2Proof.Machine.execMappg a b s
  | .tlbinv g l a b => Sys2Proof.Machine.execTlbinv g l a b s
  | .copy n b => Sys2Proof.Machine.execCopy n b s
  | .binit a b => Sys2Proof.Machine.execBinit a b s
  | .bexpect a b => Sys2Proof.Machine.execBexpect a b s
  | .barrive a => Sys2Proof.Machine.execBarrive a s
  | .bwait a b => Sys2Proof.Machine.execBwait a b s
  | .tsync => Sys2Proof.Machine.execTsync s
  | .csync => Sys2Proof.Machine.execCsync s
  | .nbar a b => Sys2Proof.Machine.execNbar a b s
  | .mma d h r b => Sys2Proof.Machine.execMma d h r b s
  | .mmah d h r b => Sys2Proof.Machine.execMmah d h r b s
  | .mdist d h r b => Sys2Proof.Machine.execMdist d h r b s
  | .mtopk d a b => Sys2Proof.Machine.execMtopk d a b s
  | .tzero d => Sys2Proof.Machine.execTzero d s
  | .tld d b => Sys2Proof.Machine.execTld d b s
  | .tst d b => Sys2Proof.Machine.execTst d b s
  | .trowmax d b => Sys2Proof.Machine.execTrowmax d b s
  | .texpsub d b => Sys2Proof.Machine.execTexpsub d b s
  | .tscale d b => Sys2Proof.Machine.execTscale d b s
  | .sample d b => Sys2Proof.Machine.execSample d b s
  | .specacc d b => Sys2Proof.Machine.execSpecacc d b s
  | .ticket d b => Sys2Proof.Machine.execTicket d b s
  | .redeem d b => Sys2Proof.Machine.execRedeem d b s
  | .tkquery d a => Sys2Proof.Machine.execTkquery d a s
  | .window d => Sys2Proof.Machine.execWindow d s
  | .logctlEnable a => Sys2Proof.Machine.execLogctlEnable a s
  | .logctlDisable a => Sys2Proof.Machine.execLogctlDisable a s
  | .logctlPolicy a => Sys2Proof.Machine.execLogctlPolicy a s
  | .logctlTrim a => Sys2Proof.Machine.execLogctlTrim a s
  | .rewind d a c f => Sys2Proof.Machine.execRewind d a c f s
  | .frd d a b => Sys2Proof.Machine.execFrd d a b s
  | .fwr d a b => Sys2Proof.Machine.execFwr d a b s
  | .fresume a => Sys2Proof.Machine.execFresume a s
  | .fkill a => Sys2Proof.Machine.execFkill a s
  | .fstep a => Sys2Proof.Machine.execFstep a s
  | .escalate => Sys2Proof.Machine.execEscalate s
  | .launch a b => Sys2Proof.Machine.execLaunch a b s
  | .markdone => Sys2Proof.Machine.execMarkdone s
  | .regrow d a => Sys2Proof.Machine.execRegrow d a s
  | .regfree a => Sys2Proof.Machine.execRegfree a s
  | .reorder a b => Sys2Proof.Machine.execReorder a b s
  | .compactRelease => Sys2Proof.Machine.execCompactRelease s
  | .yieldResume => Sys2Proof.Machine.execYieldResume s
  | .mwaitWake => Sys2Proof.Machine.execMwaitWake s
  | .memorySideApply => Sys2Proof.Machine.execMemorySideApply s
  | .copyUnitWrite => Sys2Proof.Machine.execCopyUnitWrite s
  | .regrowGrant => Sys2Proof.Machine.execRegrowGrant s
  | .regrowRefusal => Sys2Proof.Machine.execRegrowRefusal s
  | .regfreeShrink => Sys2Proof.Machine.execRegfreeShrink s
  | .reorderDeposit => Sys2Proof.Machine.execReorderDeposit s
  | .gladeRelaunch => Sys2Proof.Machine.execGladeRelaunch s
  | .clauseCheck => Sys2Proof.Machine.execClauseCheck s
  | .operationComplete => Sys2Proof.Machine.execOperationComplete s
  | .tlbWalk => Sys2Proof.Machine.execTlbWalk s
  | .copyOnWriteCopy => Sys2Proof.Machine.execCopyOnWriteCopy s
  | .pathPromotion => Sys2Proof.Machine.execPathPromotion s
  | .watchdogNoprogress => Sys2Proof.Machine.execWatchdogNoprogress s
  | .groupRetire => Sys2Proof.Machine.execGroupRetire s
  | .qbaseWrite => Sys2Proof.Machine.execQbaseWrite s
  | .qctlWrite => Sys2Proof.Machine.execQctlWrite s
  | .qctxWrite => Sys2Proof.Machine.execQctxWrite s
  | .qtailWrite => Sys2Proof.Machine.execQtailWrite s
  | .packetHeadCheck => Sys2Proof.Machine.execPacketHeadCheck s
  | .placementDecision => Sys2Proof.Machine.execPlacementDecision s
  | .teamStart => Sys2Proof.Machine.execTeamStart s
  | .gridComplete => Sys2Proof.Machine.execGridComplete s
  | .handlerSpawn => Sys2Proof.Machine.execHandlerSpawn s
  | .escalation => Sys2Proof.Machine.execEscalation s
  | .escalationTimeout => Sys2Proof.Machine.execEscalationTimeout s
  | .rungTimeout => Sys2Proof.Machine.execRungTimeout s
  | .matrixPairReset => Sys2Proof.Machine.execMatrixPairReset s
  | .uncorrectableError => Sys2Proof.Machine.execUncorrectableError s
  | .poisonContainment => Sys2Proof.Machine.execPoisonContainment s
  | .linkFailure => Sys2Proof.Machine.execLinkFailure s
  | .teamSave => Sys2Proof.Machine.execTeamSave s
  | .drainTimeout => Sys2Proof.Machine.execDrainTimeout s
  | .governorSample => Sys2Proof.Machine.execGovernorSample s
  | .powerEscalation => Sys2Proof.Machine.execPowerEscalation s
  | .thermalLimit => Sys2Proof.Machine.execThermalLimit s
  | .powerOff => Sys2Proof.Machine.execPowerOff s
  | .stage0 => Sys2Proof.Machine.execStage0 s
  | .stage1 => Sys2Proof.Machine.execStage1 s
  | .stage2 => Sys2Proof.Machine.execStage2 s
  | .hostMemoryWrite => Sys2Proof.Machine.execHostMemoryWrite s
  | .reclaim => Sys2Proof.Machine.execReclaim s
  | .objectDestruction => Sys2Proof.Machine.execObjectDestruction s
  | .profilerSample => Sys2Proof.Machine.execProfilerSample s
  | .reverseStepComplete => Sys2Proof.Machine.execReverseStepComplete s
  | .tkcfgWrite => Sys2Proof.Machine.execTkcfgWrite s
  | .tkbaseWrite => Sys2Proof.Machine.execTkbaseWrite s
  | .poolmarkWrite => Sys2Proof.Machine.execPoolmarkWrite s
  | .roleWrite => Sys2Proof.Machine.execRoleWrite s
  | .progressWrite => Sys2Proof.Machine.execProgressWrite s
  | .wdogWrite => Sys2Proof.Machine.execWdogWrite s
  | .fltcfgWrite => Sys2Proof.Machine.execFltcfgWrite s
  | .prethWrite => Sys2Proof.Machine.execPrethWrite s
  | .profcfgWrite => Sys2Proof.Machine.execProfcfgWrite s
  | .fpstatWrite => Sys2Proof.Machine.execFpstatWrite s
  | .registerWrite => Sys2Proof.Machine.execRegisterWrite s
  | .ident => Sys2Proof.Machine.execIdent s
  | .attest => Sys2Proof.Machine.execAttest s
  | .keyset => Sys2Proof.Machine.execKeyset s
  | .seal => Sys2Proof.Machine.execSeal s
  | .unseal => Sys2Proof.Machine.execUnseal s
  | .signonly => Sys2Proof.Machine.execSignonly s
  | .event => Sys2Proof.Machine.execEvent s
  | .answer => Sys2Proof.Machine.execAnswer s
  | .ctxregRead => Sys2Proof.Machine.execCtxregRead s
  | .ctxregWrite => Sys2Proof.Machine.execCtxregWrite s
  | .mailboxTlbinv => Sys2Proof.Machine.execMailboxTlbinv s
  | .preempt => Sys2Proof.Machine.execPreempt s
  | .restore => Sys2Proof.Machine.execRestore s
  | .pooladd => Sys2Proof.Machine.execPooladd s
  | .objregion => Sys2Proof.Machine.execObjregion s
  | .ctxkill => Sys2Proof.Machine.execCtxkill s
  | .attach => Sys2Proof.Machine.execAttach s
  | .detach => Sys2Proof.Machine.execDetach s
  | .setreg => Sys2Proof.Machine.execSetreg s
  | .freeze => Sys2Proof.Machine.execFreeze s
  | .resume => Sys2Proof.Machine.execResume s
  | .step => Sys2Proof.Machine.execStep s
  | .rstep => Sys2Proof.Machine.execRstep s
  | .boroiviWindow => Sys2Proof.Machine.execBoroiviWindow s
  | .read => Sys2Proof.Machine.execRead s
  | .write => Sys2Proof.Machine.execWrite s
  | .boroiviRewind => Sys2Proof.Machine.execBoroiviRewind s
  | .memread => Sys2Proof.Machine.execMemread s
  | .memwrite => Sys2Proof.Machine.execMemwrite s
  | .illegalInstruction w => Sys2Proof.Machine.execIllegalInstruction w s
  | .nonzeroReservedField w => Sys2Proof.Machine.execNonzeroReservedField w s
  | .hostSideCoherence => Sys2Proof.Machine.execHostSideCoherence s

end Sys2Proof.Machine
end

