-- ==== Sys2Proof/Machine/Release.lean ====
section
/-! DEFINITION. What every step does beside its word or event (log 1): the counts of cycles, the parked paths whose wait is over, and
the events that the device now owes itself. -/

namespace Sys2Proof.Machine

/-! Counts. -/

/-- The management core or a debugger holds the team frozen (R188): each of its paths, which a stop or a ladder's rung may have frozen
before. -/
def State.heldFrozen (s : State) (team : Nat) : Bool :=
  let es := (s.teamGroups team).flatMap fun k => (s.group k).entries
  !es.isEmpty && es.all fun e => e.2.state == .frozen &&
    (e.2.freezer == .management || e.2.freezer == .debugger || e.2.mgmtHeld || e.2.dbgHeld)

/-- One step of a team's counts: resident (R188), the watchdog's from its placement on (R45, R172), and a drain's. -/
def Team.tick (t : Team) (held frozen : Bool) : Team :=
  if !t.onCore then t
  else { t with resident := if held || t.stage == .placed then t.resident else t.resident + 1,
                idle := if frozen then t.idle else t.idle + 1, drain := t.drain.map (· + 1) }

/-- One step of a group's counts. -/
def Group.tick (g : Group) : Group := { g with hcap := g.hcap.map fun (h : HCap) => { h with elapsed := h.elapsed + 1 } }

/-- Every count goes on by one step (log 2). -/
def State.tick (s : State) : State :=
  { s with
    clock := s.clock + 1,
    free := s.free + 1,
    teams := s.teams.map fun e => (e.1, e.2.tick (s.heldFrozen e.1) (s.allFrozen e.1)),
    groups := s.groups.map fun e => (e.1, e.2.tick),
    ctxs := s.ctxs.map fun e => (e.1, { e.2 with escal := e.2.escal.map fun (x : Escal) =>
      if x.queued then { x with elapsed := x.elapsed + 1 } else x }) }

/-! Releases. -/

/-- Keys of all groups. -/
def State.keys (s : State) : List Nat := (s.groups.filter fun e => e.2.used).map (·.1)

/-- The barriers at which paths of a group stand. -/
def Group.barriers (g : Group) : List Nat := distinct (g.entries.filterMap fun e => e.2.atBarrier)

/-- Steps whose last wait is over (R293), and handlers that wait for a step that ended otherwise. -/
def State.endWaits (s : State) (k : Nat) : State :=
  let s := (s.group k).entries.foldl (fun (s : State) e =>
    if e.2.state = .stepping ∧ e.2.wait = .stepped ∧ e.2.freezer ≠ .rewind then s.stepOver k e.1 else s) s
  match (s.group k).hcap with
  | some h => if (s.group k).entries.any fun e => (match e.2.wait with | .fstep _ => true | _ => false) then s.finishSteps h.group else s
  | none => s

/-- What a group's parked paths wait for is tested. -/
def State.releaseGroup (s : State) (k : Nat) : State :=
  let s := s.testWaits k
  let s := s.updGroup k (·.regangs s.clock)
  let s := (s.group k).barriers.foldl (fun (s : State) b => s.testBarrier k b) s
  s.endWaits k

/-- What goes on by itself in a context. -/
def State.releaseCtx (s : State) (ctx : Nat) : State :=
  ((((s.sweepSaving ctx).endSaving ctx).placeHoming ctx).replaySteps ctx).replayEnd ctx

/-- Everything that parked and can go on, goes on. -/
def State.releases (s : State) : State :=
  let s := s.keys.foldl State.releaseGroup s
  let s := ((s.teams.map (·.1)).filter s.windowReady).foldl State.releaseWindow s
  let s := (s.ctxs.map (·.1)).foldl State.releaseCtx s
  s.refillEvents

/-! Events that are due. -/

/-- An event with operands. -/
def evt (i : Instr) (a : Nat := 0) (b : Nat := 0) : Event := ⟨i, { a := a, b := b }⟩

/-- What an operation in flight does next (R56, R149, R240); work that must still wait gives nothing. -/
def State.dueOp (s : State) (o : Op) : List Event :=
  if o.done then []
  else match o.work with
    | .copy (_ :: us) => [evt .copyUnitWrite o.id (s.choose (o.id + 64) (us.length + 1))]
    | .memorySide (_ :: us) => [evt .memorySideApply o.id (s.choose (o.id + 64) (us.length + 1))]
    | w =>
      if w.done then [evt .operationComplete o.id]
      else
        let s' := s.settle o
        match s'.ops.find? (·.id == o.id) with
        | some x => if x.work == o.work then [] else [evt .operationComplete o.id]
        | none => []

/-- What a path is due. -/
def State.duePath (s : State) (k i : Nat) (g : Group) (p : Path) : List Event :=
  match p.state, p.wait with
  | .yielded, .nothing => [evt .yieldResume k i]
  | .barwait, .monitor [] => [evt .mwaitWake k i]
  | .flagwait, .regfree n | .stepping, .regfree n =>
    if g.servesNext i && (n ≥ g.window || !g.pendingFrom n) then [evt .regfreeShrink k i] else []
  | .flagwait, .reorder _ _ m | .stepping, .reorder _ _ m =>
    if g.w.all (fun e => e.2 == 0) && (lanesOf (m &&& p.mask)).length ≤ s.gladeRoom (coreOf k) then [evt .reorderDeposit k i] else []
  | .ready, _ | .stepping, .nothing =>
    (if p.state = .ready && !p.promoted && p.waited ≠ 0 && clocks (coreOf k) p.waited ≥ 64 then [evt .pathPromotion k i] else []) ++
    (if p.held = 19 then ((p.wants.filter s.copyReady).take 1).map fun w => evt .copyOnWriteCopy w.1 w.2 else [])
  | _, _ => []

/-- What a group is due. -/
def State.dueGroup (s : State) (k : Nat) : List Event :=
  let g := s.group k
  (if s.groupSpent k then [evt .groupRetire k] else []) ++ g.entries.flatMap fun e => s.duePath k e.1 g e.2

/-- Partitions on which a REGROW waits. -/
def State.waitingParts (s : State) : List Nat :=
  distinct (s.groups.flatMap fun e =>
    if e.2.used && e.2.entries.any (fun p => p.2.request.isSome) then [coreOf e.1 * 4 + partOf e.1] else [])

/-- What a partition's requests are due (R41, R42). -/
def State.duePart (s : State) (cp : Nat) : List Event :=
  let grant := match s.oldestRequest cp with
    | some (k, _, p) => (match p.request with | some (_, n) => s.grantable cp k n | none => false)
    | none => false
  if grant then [evt .regrowGrant cp] else if (s.refused cp).isSome then [evt .regrowRefusal cp] else []

/-- What a team is due. -/
def State.dueTeam (s : State) (t : Nat) : List Event :=
  let x := s.team t
  (if x.stage = .placed then [evt .teamStart t] else []) ++
  (if s.compactReady t then [evt .compactRelease t] else []) ++
  (match x.reorder with
   | some d => if s.relaunchDue t && (s.relaunchPart t d.regs).isSome then [evt .gladeRelaunch t] else []
   | none => []) ++
  (match (s.ctx x.ctx).saving with
   | some sv => if x.onCore && sv.waiting.any (fun e => e.1 == t && e.2 != 0) then [evt .teamSave t] else []
   | none => [])

/-- What a queue is due. -/
def State.dueQueue (s : State) (q : Nat) : List Event :=
  let x := s.queue q
  (if s.host.stage ≠ 0 && bit x.ctl 31 && x.head != x.tail && x.grid.isNone then [evt .packetHeadCheck q] else []) ++
  (if (s.offer q).isSome && s.host.stage ≠ 0 && !s.host.throt then [evt .placementDecision] else [])

/-- What a core is due: a stop that leaves its pending queue, and samples. -/
def State.dueCore (s : State) (c : Nat) : List Event :=
  (match s.nextPending c with | some (k, e) => [evt .handlerSpawn k e] | none => []) ++
  ((List.range 4).filter fun p => s.sampleDue (c * 4 + p)).map fun p => evt .profilerSample (c * 4 + p)

/-- What a context is due: destructions past their point, and the end of a reverse step. -/
def State.dueCtx (s : State) (c : Nat) : List Event :=
  let x := s.ctx c
  let freeing (i : Nat) : Bool := s.ops.any fun o => match o.work with | .destroy c' i' => c' == c && i' == i | _ => false
  ((x.ranges.filter fun r => !(s.obj c r.2.2).alive && !freeing r.2.2 && s.objQuiet c r.2.2).map fun r => evt .objectDestruction c r.2.2) ++
  (match x.rstep with
   | some y =>
     (match s.replayGroup y with
      | some k => if y.running && y.reached (s.group k) y.targets then [evt .reverseStepComplete y.team] else []
      | none => if y.running then [evt .reverseStepComplete y.team] else [])
   | none => [])

/-- Time-outs (R45, R184, R185, R188), which the model looks at once in 64 steps. -/
def State.dueTimeouts (s : State) : List Event :=
  if s.clock % 64 ≠ 0 then []
  else
    (s.teams.flatMap fun e =>
      (if s.noProgress e.1 then [evt .watchdogNoprogress e.1] else []) ++
      (if e.2.drain.isSome then [evt .drainTimeout e.1] else [])) ++
    (s.groups.flatMap fun e => if e.2.used && e.2.isHandler then [evt .rungTimeout e.1] else []) ++
    (s.ctxs.flatMap fun e => if e.2.escal.isSome then [evt .escalationTimeout e.1] else []) ++
    s.hungPairs.map fun p => evt .matrixPairReset p

/-- Everything that is due. -/
def State.due (s : State) : List Event :=
  s.ops.flatMap s.dueOp ++ s.keys.flatMap s.dueGroup ++ s.waitingParts.flatMap s.duePart ++
  (s.teams.map (·.1)).flatMap s.dueTeam ++ (s.queues.map (·.1)).flatMap s.dueQueue ++
  (s.grids.filter fun e => e.2.spent).map (fun e => evt .gridComplete e.1) ++
  (s.cores.map (·.1)).flatMap s.dueCore ++ (s.ctxs.map (·.1)).flatMap s.dueCtx ++
  (if (s.coppice.isSome || (s.poolFree < 16 * fld s.poolmark 15 0 && !s.candidates.isEmpty)) && !s.dying then [evt .reclaim] else []) ++
  (match s.host.command with | some i => [evt i] | none => []) ++ s.dueTimeouts

/-- The agenda holds the event already; of the units of one operation it holds one at a time. -/
def State.owed (s : State) (e : Event) : Bool :=
  s.agenda.any fun x => x == e ||
    (x.what == e.what && x.args.a == e.args.a && (e.what == .copyUnitWrite || e.what == .memorySideApply))

/-- The events that are due enter the agenda. -/
def State.postDue (s : State) : State :=
  s.due.foldl (fun (s : State) e => if s.owed e then s else { s with agenda := s.agenda ++ [e] }) s

/-- Reuse latches whose registers have been written are dropped (R225). -/
def State.unlatch (s : State) : State := { s with groups := s.groups.map fun e => (e.1, e.2.unlatched) }

/-- What follows every step. -/
def State.settled (s : State) : State := s.pruneShadows.unlatch.releases.postDue

/-! The agenda. -/

/-- How often in a row the device passes over what also waits: a path, the agenda, or the agenda's first event (R44, R147). -/
def patience : Nat := 64

/-- The index of an event in the agenda, but for a stop that of the first of its core: stops go on in the order they froze (R183). -/
def State.inTurn (s : State) (i : Nat) : Nat :=
  match s.agenda[i]? with
  | some e =>
    if e.what = .handlerSpawn then (s.agenda.findIdx? fun x => x.what == .handlerSpawn && coreOf x.args.a == coreOf e.args.a).getD i else i
  | none => i

/-- The next event of the agenda, in an order that the device chooses (log 1), and the state without it; the first is not passed over
for ever. -/
def State.takeAgenda (s : State) : Option (Event × State) :=
  let i := s.inTurn (if s.overtaken ≥ patience then 0 else s.choose 1 s.agenda.length)
  (s.agenda[i]?).map fun e =>
    (e, { s with agenda := s.agenda.eraseIdx i, free := s.free + 1, overtaken := if i = 0 then 0 else s.overtaken + 1 })

/-- The state in which an event is executed. -/
def State.withEvent (s : State) (e : Event) : State := { s with ev := e.args, cur := none }

/-- What follows an event. -/
def State.afterEvent (s : State) : State := ({ s with ev := {} }).unheld.settled

/-- What the device does in a step in which no input waits. -/
inductive Turn where
  /-- an event of the agenda happens -/
  | event (e : Event) (s : State)
  /-- a path issues -/
  | path (r : PathRef) (s : State)
  /-- nothing is to be done -/
  | idle (s : State)
  deriving Repr

/-- The next event of the agenda, or nothing where it is empty. -/
def State.agendaTurn (s : State) : Turn :=
  match s.takeAgenda with
  | some (e, s) => .event e s
  | none => .idle s

/-- The device chooses the agenda, where a path could issue too (log 1): neither waits for ever (R44, R147). -/
def State.agendaFirst (s : State) : Bool :=
  !s.agenda.isEmpty && (s.passedBy ≥ patience || (s.keptOff < patience && s.choose 2 2 == 1))

/-- A path that can issue, or the agenda. -/
def State.nextTurn (s : State) : Turn :=
  match s.select with
  | none => ({ s with turn := [] }.tick).agendaTurn
  | some (r, turn) =>
    if s.agendaFirst then ({ s with passedBy := 0, keptOff := s.keptOff + 1 }.tick).agendaTurn
    else .path r ({ s with turn := turn, keptOff := 0, passedBy := if s.agenda.isEmpty then 0 else s.passedBy + 1 }.tick)

/-- A term of `Instr` that is an event of the part, no word. -/
def isEvent (i : Instr) : Bool := (encode i).isNone

end Sys2Proof.Machine
end

