-- ==== Sys2Proof/Machine/Step.lean ====
section
/-! DEFINITION. One step of the machine: an input, an event that the device owes itself, or the issue of one path (log 1). -/

namespace Sys2Proof.Machine

/-- Apply what follows to a next state; a fault and a refusal stay. -/
def thenDo (o : Res) (f : State → State) : Res :=
  match o with
  | .next s => .next (f s)
  | .fault x => .fault x
  | .refused x => .refused x

/-- An event happens. -/
def runEvent (e : Event) (s : State) : Res := thenDo (exec e.what (s.withEvent e)) State.afterEvent

/-- A path comes to its turn: it stops or waits, its clause is checked, it issues a word, or it looks again at one held back. -/
def runPath (r : PathRef) (s : State) : Res :=
  match s.begin r with
  | .moves t => .next (t.noIssue r).settled
  | .check t => thenDo (exec .clauseCheck t) fun u => (t.afterCheck u r).settled
  | .word t i => thenDo (exec i t) fun u => (s.afterWord t u r).settled
  | .probe t i => thenDo (exec i t) fun u => (s.afterProbe u r).settled

/-- The device's own step. -/
def runDevice (s : State) : Res :=
  match s.nextTurn with
  | .event e t => runEvent e t
  | .path r t => runPath r t
  | .idle t => .next t.settled

/-- One step. -/
def step (s : State) : Res :=
  match s.inbox with
  | e :: rest => if isEvent e.what then runEvent e (State.tick { s with inbox := rest }) else .fault .inputIsNoEvent
  | [] =>
    match s.loads with
    | x :: rest => .next ((State.tick { s with loads := rest }).load x).unheld.settled
    | [] => runDevice s

/-- The state with one word placed where the next step issues it (log 11). -/
def State.withFetchWord (s : State) (_nbits w : Nat) : State := s.placeWord (BitVec.ofNat 32 w)

end Sys2Proof.Machine
end

