-- ==== Sys2Proof/Safety.lean ====
section
/-! DEFINITION. What counts as a safe run, the invariant that every step keeps, and the vocabulary that claims share. -/

namespace Sys2Proof.Machine

/-! Safe runs. -/

/-- An event that makes sense (see `Instr.wellFormed`): its term is well formed and is an event of the part. -/
def Event.wellFormed (e : Event) : Bool := e.what.wellFormed && isEvent e.what

/-- Every input is an event that makes sense. -/
def State.inputsOk (s : State) : Bool := s.inbox.all Event.wellFormed

/-- Device memory and host memory keep the canonical form. -/
def State.memoryOk (s : State) : Bool := Memory.wf s.mem && Memory.wf s.hmem

/-- A run of `n` steps ends in no fault and no refusal. -/
def safeRun : Nat → State → Bool
  | 0, _ => true
  | n + 1, s =>
    match step s with
    | .next s' => safeRun n s'
    | .fault _ => false
    | .refused _ => false

/-- The invariant of the machine: memory keeps its canonical form, the clock of the part stays between 1000 and 1750 MHz (R25), the
pool's high mark is not below its low mark (R126), and no start stage lies beyond the second (R261). -/
structure State.Sound (s : State) : Prop where
  mem   : Memory.wf s.mem = true
  hmem  : Memory.wf s.hmem = true
  slow  : 1000 ≤ s.host.mhz
  fast  : s.host.mhz ≤ 1750
  pool  : fld s.poolmark 15 0 ≤ fld s.poolmark 31 16
  stage : s.host.stage ≤ 2

/-! A word that issues. -/

/-- A path of a group issues a word: it has lanes, and its group stands in a slot. -/
structure Issuing (s : State) (r : PathRef) : Prop where
  cur   : s.cur = some r
  used  : (s.group r.group).used = true
  lanes : (s.path r).mask ≠ 0#32

/-- The word that path `r` issued in `s` has retired in `t`, and the path goes where `move` says: RCNT counts in each lane of the path
(R197), and the progress counter of the team clears (R45). -/
def wentBy (s : State) (r : PathRef) (move : Path → Path) (t : State) : State :=
  (t.retire r.group (lanesOf (s.path r).mask)).updPath r move

/-- The word has retired, and the path stands behind it (R51). -/
def went (s : State) (r : PathRef) (t : State) : State := wentBy s r Path.advance t

/-- A word that moves its path as `move` says has retired, its other effect being `t`. -/
def moved (s : State) (r : PathRef) (move : Path → Path) (t : State) : State :=
  (t.updPath r move).retire r.group (lanesOf (s.path r).mask)

/-- No uniform register among those read or written is pending (R58), and none that is read is poisoned (R191). -/
structure SFree (g : Group) (reads writes : List Nat) : Prop where
  pend   : ∀ n ∈ reads ++ writes, bit g.sPend n = false
  poison : ∀ n ∈ reads, bit g.sPoison n = false

/-- The lanes of a path in which a guarded word is active (R65). -/
def State.active (s : State) (r : PathRef) : List Nat := (s.group r.group).activeLanes (s.path r)

/-- A guarded word issues, and in no active lane does a register stand in its way: the guard predicate is pending in no lane (R65) and
poisoned in no active one, no register that is read or written is pending (R58), and none that is read is poisoned (R191). -/
structure Ready (s : State) (r : PathRef) (u : Uses) : Prop extends Issuing s r where
  guard : ∀ l ∈ lanesOf (s.path r).mask, (s.path r).guardPending ((s.group r.group).lane l) = false
  sure  : ∀ l ∈ s.active r, (s.path r).guardPoisoned ((s.group r.group).lane l) = false
  free  : ∀ l ∈ s.active r, u.hazard (s.group r.group) ((s.group r.group).lane l) = false ∧
            u.poison (s.group r.group) ((s.group r.group).lane l) = false

/-- The registers of a vector instruction `vD, vA, B`: A and B read, D written. -/
def vecUses (e : Nat) (d a : BitVec 8) (b : Opnd) : Uses :=
  ((readsRun a (eRegs e)).and (b.uses (eRegs e))).and (writesRun d (eRegs e))

/-- The address step of a guarded access (R106) succeeds in every active lane, no page that it needs must wait for frames (R131), and no
place lies in a tile in flight: it leaves state `t`, and `locs` are the places, by lane. -/
def Reaches (s : State) (r : PathRef) (kind : Acc) (n : Nat) (addr : Nat → DWord) (t : State) (locs : List (Nat × Loc)) : Prop :=
  State.resolveLanes r kind n addr (s.active r) s [] = (t, locs, []) ∧ t.lacks = s.lacks ∧
    s.tileBusy locs = false

/-- A cross-lane word issues, and nothing stands in its way: the guard is pending in no lane, and neither is a register that it reads
in any lane or writes; and no value that it reads, the guard among them, is poisoned (R302). -/
structure CrossReady (s : State) (r : PathRef) (u : CrossUses) : Prop extends Issuing s r where
  guard  : ∀ l ∈ lanesOf (s.path r).mask, (s.path r).guardPending ((s.group r.group).lane l) = false
  sure   : ∀ l ∈ s.active r, (s.path r).guardPoisoned ((s.group r.group).lane l) = false
  vreg   : ∀ e ∈ u.reads ++ u.push, bit ((s.group r.group).lane e.1).vPend e.2 = false
  clean  : ∀ e ∈ u.reads, bit ((s.group r.group).lane e.1).vPoison e.2 = false
  pred   : ∀ n ∈ u.pred, ∀ l ∈ s.active r, bit ((s.group r.group).lane l).pPend n = false ∧
             bit ((s.group r.group).lane l).pPoison n = false
  sregs  : SFree (s.group r.group) u.sr u.sw
  own    : ∀ n ∈ u.own, ∀ l ∈ s.active r, bit ((s.group r.group).lane l).vPend n = false

/-! Frames. -/

/-- Outside one group slot nothing that software sees has changed: neither memory nor what a path sees of it, nor a
scratchpad or a tile, nor a special register, nor an operation in flight; the agenda of the device and the progress counters may have. -/
structure OnlyGroup (k : Nat) (s t : State) : Prop where
  mem    : t.mem = s.mem
  hmem   : t.hmem = s.hmem
  poison : t.memPoison = s.memPoison
  groups : ∀ x, x ≠ k → t.group x = s.group x
  teams  : ∀ x, { t.team x with idle := 0 } = { s.team x with idle := 0 }
  cores  : t.cores = s.cores
  ctxs   : t.ctxs = s.ctxs
  queues : t.queues = s.queues
  grids  : t.grids = s.grids
  ops    : t.ops = s.ops
  pool   : t.pool = s.pool ∧ t.poolmark = s.poolmark ∧ t.birth = s.birth
  host   : t.host = s.host
  tlb    : t.dieTlb = s.dieTlb ∧ t.released = s.released
  seen   : t.shadows = s.shadows ∧ t.rels = s.rels ∧ t.l2 = s.l2

/-- Of a group, only what is named has changed beside its path table: vector registers `vw`, lane predicates `pw`, uniform registers
`sw`, uniform predicates `qw`, and with `fl` the sticky flags. -/
structure OnlyRegs (vw pw sw qw : List Nat) (fl : Bool) (a b : Group) : Prop where
  vregs   : ∀ l n, n ∉ vw → (b.lane l).reg n = (a.lane l).reg n
  preds   : ∀ l n, n ∉ pw → (b.lane l).pred n = (a.lane l).pred n
  sregs   : ∀ n, n ∉ sw → b.sreg n = a.sreg n
  qpreds  : ∀ n, n ∉ qw → b.qpred n = a.qpred n
  flags   : fl = false → ∀ l, (b.lane l).fpstat = (a.lane l).fpstat
  pend    : b.sPend = a.sPend ∧ ∀ l, (b.lane l).vPend = (a.lane l).vPend ∧ (b.lane l).pPend = (a.lane l).pPend
  counts  : b.w = a.w
  window  : b.window = a.window ∧ b.role = a.role ∧ b.prio = a.prio
  keys    : b.seed = a.seed ∧ b.stream = a.stream
  special : ∀ l, (b.lane l).sridx = (a.lane l).sridx ∧ (b.lane l).marks = (a.lane l).marks ∧
              (b.lane l).lastPage = (a.lane l).lastPage

end Sys2Proof.Machine
end

