-- ==== Sys2Proof/Certificates/Slice0/Obligations.lean ====
section
/-! DEFINITION. The statements for the provers. Each is about the machine, for every state and operand that meets its
hypotheses; the vocabulary that they share stands in Safety.lean. -/

open Sys2Proof Sys2Proof.Machine

/-! Encoding and the step. -/

/-- R60, R64, R69, R70: decode and encode agree. The word of a well-formed instruction decodes to that instruction, with every
operand at every value that its fields admit; and every word is the word of the term that it decodes to, so that no bit is dropped. -/
def Obligations.DecodeAndEncodeAgree : Prop :=
  (∀ (i : Instr) (w : BitVec 32), i.wellFormed = true → encode i = some w → decodeWord w = i) ∧
  (∀ w : BitVec 32, encode (decodeWord w) = some w)

/-- The clause of "A clause encoded" and worked encodings of the reference chapters, written out from the spec's field lines. -/
def Obligations.WorkedEncodingsDecode : Prop :=
  decodeWord 0xED080280#32 = .ld32K 8 2 0x80 ∧ decodeWord 0xD1040405#32 = .vaddK 4 4 5 ∧
  decodeWord 0x14868687#32 = .sadd 0x86 0x86 0x87 ∧ decodeWord 0x0200FFC0#32 = .bra 0 0xFFC0 ∧
  decodeWord 0x0700A800#32 = .calli 0xA8 ∧ decodeWord 0x06000008#32 = .call 0 8 ∧
  decodeWord 0x0800A800#32 = .nonzeroReservedField 0x0800A800#32 ∧ decodeWord 0x0900A800#32 = .jmpi 0xA8 ∧
  decodeWord 0x96080294#32 = .kvx 8 2 0x94 ∧ decodeWord 0x0C000000#32 = .exit ∧
  decodeWord 0x00000000#32 = .illegalInstruction 0#32 ∧ decodeWord 0xFF000000#32 = .illegalInstruction 0xFF000000#32

/-- One step issues the word that the path stands at: the word of its checked clause, decoded; word 0 where the path stands at its
header and every flag of WAIT is zero, whose wait orders the path behind what the operations counted have read (R50, R57, R142). What the
step adds is the bookkeeping of the issue (`afterWord`) and what is due by then (`settled`); a word that was held back is looked at first
(`afterProbe`). The model's own: that a step is one word, and the look at a word held back: log 1. -/
def Obligations.StepIssuesTheDecodedWord : Prop :=
  ∀ (s t : State) (r : PathRef) (c : Clause),
    s.inbox = [] → s.loads = [] → s.nextTurn = .path r t → t.breakAt r = none → (t.path r).clause = some c →
    let p := t.path r
    let at_ (u : State) : State := if p.held = 0#5 then { u with cur := some r } else { u with cur := some r }.updPath r Path.unheld
    let runs (u : State) (w : Word) : Prop :=
      step s = thenDo (exec (decodeWord w) (at_ u)) fun v =>
        (if p.held = 0#5 then t.afterWord (at_ u) v r else t.afterProbe v r).settled
    (p.pc ≠ p.clhdr → runs t (c.words.getD ((p.pc - p.clhdr).toNat / 4 - 1) 0)) ∧
    (p.pc = p.clhdr → (t.group r.group).flagsZero (hWait c.header) = true →
      let u := (if hWait c.header = 0#12 then t else t.seeGroup r).updPath r fun q => { q with pc := q.clhdr + 4 }
      u.breakAt r = none → runs u (c.words.getD 0 0))

/-- One step takes the head of the input list, which must be an event, and executes it; with no input it takes
what system software loads, an event that the device owes itself, or the check of the clause of a path that has none checked (R50, R53).
The model's own: that a step is one event: log 1. -/
def Obligations.StepRunsEvents : Prop :=
  (∀ (s : State) (e : Event) (rest : List Event), s.inbox = e :: rest →
    step s = if isEvent e.what then
        thenDo (exec e.what ((State.tick { s with inbox := rest }).withEvent e)) State.afterEvent
      else .fault .inputIsNoEvent) ∧
  (∀ (s : State) (x : Loading) (rest : List Loading), s.inbox = [] → s.loads = x :: rest →
    step s = .next ((State.tick { s with loads := rest }).load x).unheld.settled) ∧
  (∀ (s t : State) (e : Event), s.inbox = [] → s.loads = [] → s.nextTurn = .event e t →
    step s = thenDo (exec e.what (t.withEvent e)) State.afterEvent) ∧
  (∀ (s t : State) (r : PathRef), s.inbox = [] → s.loads = [] → s.nextTurn = .path r t → t.breakAt r = none →
    (t.path r).clause = none →
    let u : State := { t with ev := { a := r.group, b := r.path } }
    step s = thenDo (exec .clauseCheck u) fun v => (u.afterCheck v r).settled)

/-- No step is refused; a step faults only where the head of the input list is no event, where the agenda gives something that is
no event, which the device never puts there, or where the path that would issue has no lane, which no path of a path table is
without (R30). The model's own: the two faults are the model's own: log 1. -/
def Obligations.StepStopsOnNothingElse : Prop :=
  ∀ s : State,
    (∃ t, step s = .next t) ∨
    (step s = .fault .inputIsNoEvent ∧ ∃ e rest, s.inbox = e :: rest ∧ isEvent e.what = false) ∨
    (step s = .fault .noIssuingPath ∧ s.inbox = [] ∧ s.loads = [] ∧
      ((∃ e t, s.nextTurn = .event e t ∧ isEvent e.what = false) ∨
        ∃ r t, s.nextTurn = .path r t ∧ ((t.group r.group).used = false ∨ (t.path r).mask = 0#32)))

/-- R48, R49, R50, R53: CLAUSE_CHECK of a path that has no clause checked. Every word from the header to the last literal is fetched, and
a word whose address has a bit of [63:55] set is an INVALID-ADDRESS; then KIND, the reserved bits and the SET fields, the position of
control transfers and of REGANG and COMPACT, SETA wherever a word returns a result, and last the place of a PC inside the clause are
checked, in that order, each with its cause. A clause that passes is kept; a clause fault strikes every lane of the path, which keeps its
PC. The model's own: where the path stands after a fault: log 12. -/
def Obligations.ClauseCheckResults : Prop :=
  ∀ (s : State) (r : PathRef), s.ev.a = r.group → s.ev.b = r.path → (s.group r.group).used = true → (s.path r).mask ≠ 0#32 →
    (s.path r).state = .ready ∨ (s.path r).state = .stepping → (s.path r).clause = none →
    let p := s.path r
    let ag := (s.group r.group).agent r.group none
    (∀ a : DWord, (fld a 63 55 ≠ 0 → s.fetchWord ag a = (s, .error (.invalidAddress, a))) ∧
      (fld a 63 55 = 0 → ∀ (t : State),
        (∀ c : Cause, s.access ag .fetch 4 a = (t, .error c) → s.fetchWord ag a = (t, .error (c, a))) ∧
        (∀ l : Loc, s.access ag .fetch 4 a = (t, .ok l) → s.fetchWord ag a = (t, .ok (BitVec.ofNat 32 (t.numAt l 4)))))) ∧
    (∀ (t : State) (x : Cause) (a : DWord), s.fetchWord ag p.clhdr = (t, .error (x, a)) →
      exec .clauseCheck s = .next (t.stopAll r p x a)) ∧
    (∀ (t u : State) (h : Word), s.fetchWord ag p.clhdr = (t, .ok h) →
      let got := State.fetchWords ag (1 + fld h 27 24 + fld h 23 22) (p.clhdr + 4) t
      (∀ (x : Cause) (a : DWord), got = (u, .error (x, a)) → exec .clauseCheck s = .next (u.stopAll r p x a)) ∧
      (∀ ws : List Word, got = (u, .ok ws) →
        let words := ws.take (1 + fld h 27 24)
        let ins := words.map fun w => nominal (decodeWord w)
        let setOk (v f : Nat) : Bool := if v = 0 then f == 0 else decide (f ≤ 11)
        let inside : Bool := (List.range (1 + fld h 27 24)).any fun k => p.pc == p.clhdr + BitVec.ofNat 64 (4 * (k + 1))
        ws.length = 1 + fld h 27 24 + fld h 23 22 ∧
        exec .clauseCheck s = .next (
          if fld h 31 30 ≠ 2 then u.stopAll r p .clauseFormat
          else if fld h 29 28 ≠ 0 ∨ setOk (fld h 12 12) (fld h 16 13) = false ∨ setOk (fld h 17 17) (fld h 21 18) = false
            then u.stopAll r p .illegalOperand
          else if ins.dropLast.any isControl = true ∨ (1 < ins.length ∧ ins.any standsAlone = true)
            then u.stopAll r p .clauseFormat
          else if fld h 12 12 = 0 ∧ ins.any returnsResult = true then u.stopAll r p .clauseFormat
          else if p.pc ≠ p.clhdr ∧ inside = false then u.stopAll r p .clauseFormat
          else u.updPath r fun q => { q with clause := some { header := h, words := words, lits := ws.drop (1 + fld h 27 24) } })))

/-! Uniform arithmetic (R321, R322). -/

/-- R321: the two-operand uniform instructions in register form. Each writes sD, whatever the guard, and nothing else; ETYPE decides
between signed and unsigned where it matters, and a shift takes the low five bits of its amount. -/
def Obligations.UniformRegisterFormResults : Prop :=
  ∀ (s : State) (r : PathRef) (d a b : BitVec 8), Issuing s r →
    isS d = true → isS a = true → isS b = true → SFree (s.group r.group) [sNum a, sNum b] [sNum d] →
    let g := s.group r.group
    let x := g.sreg (sNum a)
    let y := g.sreg (sNum b)
    let u := eUnsigned (mEtype (s.path r).mode)
    let wrote (v : Word) : Res := .next (went s r (s.setGroup r.group (g.setSreg (sNum d) v)))
    exec (.sadd d a b) s = wrote (x + y) ∧
    exec (.ssub d a b) s = wrote (x - y) ∧
    exec (.smul d a b) s = wrote (x * y) ∧
    exec (.smulh d a b) s = wrote (if u then BitVec.ofNat 32 (x.toNat * y.toNat / 2 ^ 32) else BitVec.ofInt 32 (x.toInt * y.toInt / 2 ^ 32)) ∧
    exec (.sand d a b) s = wrote (x &&& y) ∧
    exec (.sor d a b) s = wrote (x ||| y) ∧
    exec (.sxor d a b) s = wrote (x ^^^ y) ∧
    exec (.sshl d a b) s = wrote (x <<< (y.toNat % 32)) ∧
    exec (.sshr d a b) s = wrote (x >>> (y.toNat % 32)) ∧
    exec (.ssra d a b) s = wrote (x.sshiftRight (y.toNat % 32)) ∧
    exec (.smin d a b) s = wrote (if (if u then x.toNat ≤ y.toNat else x.toInt ≤ y.toInt) then x else y) ∧
    exec (.smax d a b) s = wrote (if (if u then x.toNat ≤ y.toNat else x.toInt ≤ y.toInt) then y else x)

/-- R63, R70, R321: their K forms, with the immediate sign-extended from seven bits or the literal in the place of the second
source. -/
def Obligations.UniformKFormResults : Prop :=
  ∀ (s : State) (r : PathRef) (d a k : BitVec 8), Issuing s r →
    isS d = true → isS a = true → isK (s.path r) k = true → SFree (s.group r.group) [sNum a] [sNum d] →
    let g := s.group r.group
    let x := g.sreg (sNum a)
    let y : Word := if k.toNat < 128 then (k.extractLsb' 0 7).signExtend 32 else (s.path r).cl.lits.getD (k.toNat - 128) 0
    let u := eUnsigned (mEtype (s.path r).mode)
    let wrote (v : Word) : Res := .next (went s r (s.setGroup r.group (g.setSreg (sNum d) v)))
    let holds (c : BitVec 3) : Bool := condHolds c.toNat (if u then x.toNat else x.toInt) (if u then y.toNat else y.toInt)
    exec (.saddK d a k) s = wrote (x + y) ∧
    exec (.ssubK d a k) s = wrote (x - y) ∧
    exec (.smulK d a k) s = wrote (x * y) ∧
    exec (.sandK d a k) s = wrote (x &&& y) ∧
    exec (.sorK d a k) s = wrote (x ||| y) ∧
    exec (.sxorK d a k) s = wrote (x ^^^ y) ∧
    exec (.sshlK d a k) s = wrote (x <<< (y.toNat % 32)) ∧
    exec (.sshrK d a k) s = wrote (x >>> (y.toNat % 32)) ∧
    exec (.ssraK d a k) s = wrote (x.sshiftRight (y.toNat % 32)) ∧
    exec (.sminK d a k) s = wrote (if (if u then x.toNat ≤ y.toNat else x.toInt ≤ y.toInt) then x else y) ∧
    exec (.smaxK d a k) s = wrote (if (if u then x.toNat ≤ y.toNat else x.toInt ≤ y.toInt) then y else x) ∧
    exec (.smovK d k) s = wrote y ∧
    (∀ n : BitVec 3, bit g.sPoison (sNum d) = false →
      exec (.sselK d n k) s = wrote (if n = 0#3 ∨ bit g.q n.toNat = true then y else g.sreg (sNum d))) ∧
    (fieldOk y = true → exec (.sbfeK d a k) s = wrote (BitVec.ofNat 32 (x.toNat / 2 ^ (y.toNat % 32) % 2 ^ (y.toNat / 256 % 64)))) ∧
    (∀ c q : BitVec 3, c.toNat ≤ 5 → q ≠ 0#3 →
      exec (.scmpK c q a k) s = .next (went s r (s.setGroup r.group { g with q := setBit g.q q.toNat (holds c) })))

/-- R321, R322: the uniform instructions of other shapes: the move, the selection by a uniform predicate (q0 is true), the
comparison into one, the field extraction, whose selector has its limits, the count of ones, and the addition of pairs. -/
def Obligations.UniformOtherResults : Prop :=
  ∀ (s : State) (r : PathRef) (d a b k : BitVec 8), Issuing s r → isS d = true →
    let g := s.group r.group
    let p := s.path r
    let x := g.sreg (sNum a)
    let y := g.sreg (sNum b)
    let u := eUnsigned (mEtype p.mode)
    let wrote (v : Word) : Res := .next (went s r (s.setGroup r.group (g.setSreg (sNum d) v)))
    let holds (c : BitVec 3) : Bool := condHolds c.toNat (if u then x.toNat else x.toInt) (if u then y.toNat else y.toInt)
    (isS b = true → SFree g [sNum b] [sNum d] → exec (.smov d b) s = wrote y) ∧
    (∀ n : BitVec 3, isS b = true → SFree g [sNum d, sNum b] [sNum d] →
      exec (.ssel d n b) s = wrote (if n = 0#3 ∨ bit g.q n.toNat = true then y else g.sreg (sNum d))) ∧
    (∀ c q : BitVec 3, isS a = true → isS b = true → c.toNat ≤ 5 → q ≠ 0#3 → SFree g [sNum a, sNum b] [] →
      exec (.scmp c q a b) s = .next (went s r (s.setGroup r.group { g with q := setBit g.q q.toNat (holds c) }))) ∧
    (isS a = true → isS b = true → fieldOk y = true → SFree g [sNum a, sNum b] [sNum d] →
      exec (.sbfe d a b) s = wrote (BitVec.ofNat 32 (x.toNat / 2 ^ (y.toNat % 32) % 2 ^ (y.toNat / 256 % 64)))) ∧
    (isS a = true → SFree g [sNum a] [sNum d] →
      exec (.spopc d a) s = wrote (BitVec.ofNat 32 ((List.range 32).filter fun i => x.getLsbD i).length)) ∧
    (isSPair d = true → isSPair a = true → isSPair b = true →
      SFree g [sNum a, sNum a + 1, sNum b, sNum b + 1] [sNum d, sNum d + 1] →
      exec (.sadd64 d a b) s = .next (went s r (s.setGroup r.group (g.setSpair (sNum d) (g.spair (sNum a) + g.spair (sNum b)))))) ∧
    (isSPair d = true → isSPair a = true → isK p k = true → SFree g [sNum a, sNum a + 1] [sNum d, sNum d + 1] →
      exec (.sadd64K d a k) s = .next (went s r (s.setGroup r.group (g.setSpair (sNum d) (g.spair (sNum a) +
        if k.toNat < 128 then (k.extractLsb' 0 7).signExtend 64 else (p.cl.lits.getD (k.toNat - 128) 0).signExtend 64)))))

/-! Vector integer arithmetic (R347 to R349, R243). -/

/-- R348: the vector integer instructions with two sources, in both forms. In each active lane every live element of vD becomes the
named function of the elements x of vA, y of B and z of vD: signed under an i type and unsigned under an n type, exact, then wrapped
or, under SAT, clamped (R94). A shift takes its amount modulo the width of the element. -/
def Obligations.VectorIntegerResults : Prop :=
  ∀ (s : State) (r : PathRef) (d a : BitVec 8) (o : Opnd),
    let g := s.group r.group
    let p := s.path r
    let e := mEtype p.mode
    let w := eWidth e
    let into := intoType e (mSat p.mode)
    let num := elemInt e
    let does (i : Instr) (f : Nat → Nat → Nat → Nat) : Prop :=
      exec i s = .next (went s r (s.onLanes r.group (s.active r) fun _ ln => vecLane (fun _ _ => f) d a o g p ln))
    eInt e = true → isVE e g d = true → isVE e g a = true → o.okV e g p = true → Ready s r (vecUses e d a o) →
    (∀ b : BitVec 8, o = .reg b →
      does (.vadd d a b) (fun x y _ => into (num x + num y)) ∧
      does (.vsub d a b) (fun x y _ => into (num x - num y)) ∧
      does (.vmul d a b) (fun x y _ => into (num x * num y)) ∧
      does (.vand d a b) (fun x y _ => x &&& y) ∧
      does (.vor d a b) (fun x y _ => x ||| y) ∧
      does (.vxor d a b) (fun x y _ => x ^^^ y) ∧
      does (.vshl d a b) (fun x y _ => x * 2 ^ (y % w)) ∧
      does (.vshr d a b) (fun x y _ => x / 2 ^ (y % w)) ∧
      does (.vsra d a b) (fun x y _ => wrapTo w (signedOf w x / 2 ^ (y % w))) ∧
      does (.vmin d a b) (fun x y _ => into (min (num x) (num y))) ∧
      does (.vmax d a b) (fun x y _ => into (max (num x) (num y))) ∧
      ((∀ l ∈ s.active r, (readsRun d (eRegs e)).poison g (g.lane l) = false) →
        does (.vmad d a b) fun x y z => into (num x * num y + num z)) ∧
      (w ≠ 64 → does (.vmulh d a b) fun x y _ => wrapTo w (num x * num y / 2 ^ w))) ∧
    (∀ k : BitVec 8, o = .k k →
      does (.vaddK d a k) (fun x y _ => into (num x + num y)) ∧
      does (.vsubK d a k) (fun x y _ => into (num x - num y)) ∧
      does (.vmulK d a k) (fun x y _ => into (num x * num y)) ∧
      does (.vandK d a k) (fun x y _ => x &&& y) ∧
      does (.vorK d a k) (fun x y _ => x ||| y) ∧
      does (.vxorK d a k) (fun x y _ => x ^^^ y) ∧
      does (.vshlK d a k) (fun x y _ => x * 2 ^ (y % w)) ∧
      does (.vshrK d a k) (fun x y _ => x / 2 ^ (y % w)) ∧
      does (.vsraK d a k) (fun x y _ => wrapTo w (signedOf w x / 2 ^ (y % w))) ∧
      does (.vminK d a k) (fun x y _ => into (min (num x) (num y))) ∧
      does (.vmaxK d a k) (fun x y _ => into (max (num x) (num y))) ∧
      ((∀ l ∈ s.active r, (readsRun d (eRegs e)).poison g (g.lane l) = false) →
        does (.vmadK d a k) fun x y z => into (num x * num y + num z)))

/-- R243, R348, R349: the other vector integer instructions. VABS and VNEG, the counts, the bit fields (their selector within its
limits in every active lane), the selection by a lane predicate, the move, and the comparison, which writes a predicate that is true
where every live element compares so. VSEL and VMOV run under every ETYPE. -/
def Obligations.VectorOtherResults : Prop :=
  ∀ (s : State) (r : PathRef) (d a : BitVec 8) (o : Opnd),
    let g := s.group r.group
    let p := s.path r
    let e := mEtype p.mode
    let num := elemInt e
    let does (i : Instr) (f : Lane → Nat → Nat → Nat → Nat) : Prop :=
      exec i s = .next (went s r (s.onLanes r.group (s.active r) fun _ ln => vecLane (fun _ _ => f ln) d a o g p ln))
    let fieldIn (ln : Lane) : Prop := let y := (o.image e g p ln).toNat % 2 ^ 32; y / 256 ≤ 32 ∧ y / 32 % 8 = 0
    let fields (bfe bfi : Instr) : Prop :=
      e ≤ 1 → isV g a = true → (∀ l ∈ s.active r, fieldIn (g.lane l)) → Ready s r (vecUses e d a o) →
      (does bfe fun _ x y _ => let n := y / 256 % 64; let v := x / 2 ^ (y % 32) % 2 ^ n; if e = 0 ∧ n ≠ 0 then wrapTo 32 (signedOf n v) else v) ∧
      ((∀ l ∈ s.active r, (readsRun d (eRegs e)).poison g (g.lane l) = false) →
        does bfi fun _ x y z => let n := min (y / 256 % 64) (32 - y % 32); z - z / 2 ^ (y % 32) % 2 ^ n * 2 ^ (y % 32) + x % 2 ^ n * 2 ^ (y % 32))
    let compares (i : BitVec 3 → BitVec 3 → Instr) : Prop :=
      eInt e = true → isVE e g a = true → ∀ c q : BitVec 3, c.toNat ≤ 5 → q ≠ 0#3 →
      Ready s r (((readsRun a (eRegs e)).and (o.uses (eRegs e))).and { pw := [q.toNat] }) →
      exec (i c q) s = .next (went s r (s.onLanes r.group (s.active r) fun _ ln => ln.setPred q.toNat
        ((List.range (eCount e)).all fun h => !eLive e (mLive p.mode) h ||
          condHolds c.toNat (num (elemOf e h (ln.image e a.toNat))) (num (elemOf e h (o.image e g p ln))))))
    let picks (sel : BitVec 3 → Instr) (mov : Instr) : Prop :=
      (∀ n : BitVec 3, Ready s r ((((o.uses (eRegs e)).and (readsRun d (eRegs e))).and { pr := [n.toNat] }).and (writesRun d (eRegs e))) →
        does (sel n) fun ln _ y z => if n = 0#3 ∨ bit ln.p n.toNat = true then y else z) ∧
      (Ready s r ((o.uses (eRegs e)).and (writesRun d (eRegs e))) → does mov fun _ _ y _ => y)
    isVE e g d = true →
    (isVE e g a = true → eInt e = true → Ready s r ((readsRun a (eRegs e)).and (writesRun d (eRegs e))) →
      (does (.vabs d a) fun _ x _ _ => intoType e (mSat p.mode) (num x).natAbs) ∧
      (does (.vneg d a) fun _ x _ _ => intoType e (mSat p.mode) (-num x)) ∧
      (e ≤ 1 →
        (does (.vpopc d a) fun _ x _ _ => ((List.range 32).filter fun i => x.testBit i).length) ∧
        (does (.vclz d a) fun _ x _ _ => if x = 0 then 32 else 31 - Nat.log2 x))) ∧
    (o.okV e g p = true →
      (∀ b : BitVec 8, o = .reg b → fields (.vbfe d a b) (.vbfi d a b) ∧ (compares fun c q => .vcmp c q a b) ∧
        picks (fun n => .vsel d n b) (.vmov d b)) ∧
      (∀ k : BitVec 8, o = .k k → fields (.vbfeK d a k) (.vbfiK d a k) ∧ (compares fun c q => .vcmpK c q a k) ∧
        picks (fun n => .vselK d n k) (.vmovK d k)))

/-- R65, R86: what a vector instruction does to one lane, its element function f being given. Each live element of vD becomes
f of the elements, cut to its width; a dead element keeps its bits; no other register, no predicate and no flag of the lane changes,
and the registers written are no longer poisoned. -/
def Obligations.VectorLaneChangesLiveElements : Prop :=
  ∀ (f : ElemFn) (d a : BitVec 8) (o : Opnd) (g : Group) (p : Path) (ln : Lane),
    let e := mEtype p.mode
    isVE e g d = true →
    let ln' := vecLane f d a o g p ln
    (∀ h, h < eCount e → elemOf e h (ln'.image e d.toNat) =
      if eLive e (mLive p.mode) h
      then f e (mSat p.mode) (elemOf e h (ln.image e a.toNat)) (elemOf e h (o.image e g p ln)) (elemOf e h (ln.image e d.toNat)) % 2 ^ eWidth e
      else elemOf e h (ln.image e d.toNat)) ∧
    (∀ n, ¬ (d.toNat ≤ n ∧ n < d.toNat + eRegs e) → ln'.reg n = ln.reg n ∧ bit ln'.vPoison n = bit ln.vPoison n) ∧
    (∀ n, d.toNat ≤ n → n < d.toNat + eRegs e → bit ln'.vPoison n = false) ∧
    ln'.p = ln.p ∧ ln'.pPoison = ln.pPoison ∧ ln'.fpstat = ln.fpstat ∧ ln'.vPend = ln.vPend ∧ ln'.pPend = ln.pPend ∧
    ln'.rcnt = ln.rcnt ∧ ln'.sridx = ln.sridx

/-- R94, R348: an exact integer comes into an element type by its residue, or, under SAT, by the nearest value of the type. -/
def Obligations.IntegerResultsWrapOrClamp : Prop :=
  ∀ (e : Nat) (x : Int), eInt e = true →
    intoType e false x < 2 ^ eWidth e ∧ (intoType e false x : Int) % 2 ^ eWidth e = x % 2 ^ eWidth e ∧
    intoType e true x < 2 ^ eWidth e ∧
    elemInt e (intoType e true x) = if x < eMin e then eMin e else if eMax e < x then eMax e else x

/-! Vector floating point, conversions and random bits. -/

/-- R87, R95, R288, R289: the two-source and three-source floating-point instructions, in both forms. In each active lane every live
element of vD becomes the exact result of the elements, rounded once into the format of ETYPE by RND, FTZ and SAT, with the random
bits of R92 under stochastic rounding; the flags of all live elements are raised, NV for an invalid operation and for a signalling
NaN among the operands. -/
def Obligations.FloatArithmeticResults : Prop :=
  ∀ (s : State) (r : PathRef) (d a : BitVec 8) (o : Opnd),
    let g := s.group r.group
    let p := s.path r
    let e := mEtype p.mode
    let f := fmtOf e
    let ftz := mFtz p.mode
    let does (i : Instr) (third : Bool) (val : FV → FV → FV → FV × Bool) : Prop :=
      exec i s = .next (went s r (s.onLanes r.group (s.active r) fun _ ln =>
        let z := mapLiveF e (mLive p.mode) (ln.image e d.toNat) fun h =>
          let x := f.read ftz (elemOf e h (ln.image e a.toNat))
          let y := f.read ftz (elemOf e h (o.image e g p ln))
          let z := f.read ftz (elemOf e h (ln.image e d.toNat))
          let w := f.write (mRnd p.mode) (g.srBits p ln (eCount e) h) ftz (mSat p.mode) (val x y z).1
          (w.1, w.2.or { nv := (val x y z).2 || (x.isSnan || y.isSnan || (third && z.isSnan)) })
        (ln.setImage e d.toNat z.1).raise z.2))
    let sum := FV.add (mRnd p.mode)
    let all (add sub mul fma min max : Instr) : Prop :=
      does add false (fun x y _ => sum x y) ∧ does sub false (fun x y _ => sum x y.neg) ∧ does mul false (fun x y _ => x.mul y) ∧
      does min false (fun x y _ => (x.minNum y, false)) ∧ does max false (fun x y _ => (x.maxNum y, false)) ∧
      ((∀ l ∈ s.active r, bit (g.lane l).vPoison d.toNat = false) →
        does fma true fun x y z => ((sum (x.mul y).1 z).1, (x.mul y).2 || (sum (x.mul y).1 z).2))
    eFloat e = true → isV g d = true → isV g a = true → o.okV 0 g p = true → Ready s r (vecUses 0 d a o) →
    (∀ b : BitVec 8, o = .reg b →
      all (.fadd d a b) (.fsub d a b) (.fmul d a b) (.ffma d a b) (.fmin d a b) (.fmax d a b)) ∧
    (∀ k : BitVec 8, o = .k k →
      all (.faddK d a k) (.fsubK d a k) (.fmulK d a k) (.ffmaK d a k) (.fminK d a k) (.fmaxK d a k))

/-- R289, R290: the one-source floating-point instructions, with every special case of the table and its flags DZ and NV, and the
values that are exact; a reciprocal and a square root lie within one step below the exact value, which they are where it is such a
number. FSIN and FTANH are odd and FCOS is even. The comparison writes a predicate: true where the relation holds in every live
element, an unordered pair raising NV under an order relation alone. The model's own: the values of the functions beyond these, and
the number that stands for a value between two others: log 10. -/
def Obligations.FloatFunctionResults : Prop :=
  ∀ (s : State) (r : PathRef) (d a : BitVec 8),
    let g := s.group r.group
    let p := s.path r
    let e := mEtype p.mode
    let f := fmtOf e
    let ftz := mFtz p.mode
    let does (i : Instr) (val : FV → FV × Bool × Bool) : Prop :=
      exec i s = .next (went s r (s.onLanes r.group (s.active r) fun _ ln =>
        let z := mapLiveF e (mLive p.mode) (ln.image e d.toNat) fun h =>
          let x := f.read ftz (elemOf e h (ln.image e a.toNat))
          let w := f.write (mRnd p.mode) (g.srBits p ln (eCount e) h) ftz (mSat p.mode) (val x).1
          (w.1, w.2.or { nv := (val x).2.1 || x.isSnan, dz := (val x).2.2 })
        (ln.setImage e d.toNat z.1).raise z.2))
    let ops : List UOp := [.rcp, .rsq, .sqrt, .exp2, .log2, .sin, .cos, .tanh, .sigm]
    let invalid : FV × Bool × Bool := (.nan false, true, false)
    let exact (v : FV) : FV × Bool × Bool := (v, false, false)
    let zero (n : Bool) : FV := .fin n 0 0
    (∀ q, ops.map (UOp.exact · (.nan q)) = List.replicate 9 (exact (.nan false))) ∧
    ops.map (UOp.exact · (.inf false)) = [exact (zero false), exact (zero false), exact (.inf false), exact (.inf false),
      exact (.inf false), invalid, invalid, exact (.fin false 1 0), exact (.fin false 1 0)] ∧
    ops.map (UOp.exact · (.inf true)) = [exact (zero true), invalid, invalid, exact (zero false),
      invalid, invalid, invalid, exact (.fin true 1 0), exact (zero false)] ∧
    (∀ (n : Bool) (x : Int), ops.map (UOp.exact · (.fin n 0 x)) = [(.inf n, false, true), (.inf n, false, true), exact (zero n),
      exact (.fin false 1 0), (.inf true, false, true), exact (zero n), exact (.fin false 1 0), exact (zero n), exact (.fin false 1 (-1))]) ∧
    (∀ (m : Nat) (x : Int), m ≠ 0 →
      UOp.exact .rsq (.fin true m x) = invalid ∧ UOp.exact .sqrt (.fin true m x) = invalid ∧ UOp.exact .log2 (.fin true m x) = invalid ∧
      (∀ n, ∃ k q, UOp.exact .rcp (.fin n m x) = exact (.fin n k q) ∧ q + x ≤ 0 ∧ 2 ^ 95 ≤ k ∧
        let u := 2 ^ (-(q + x)).toNat
        k * m = u ∨ ((k - 1) * m < u ∧ u < (k + 3) * m)) ∧
      (∃ k q, UOp.exact .sqrt (.fin false m x) = exact (.fin false k q) ∧ 2 * q ≤ x ∧ 2 ^ 95 ≤ k ∧
        let u := m * 2 ^ (x - 2 * q).toNat
        k ^ 2 = u ∨ ((k - 1) ^ 2 < u ∧ u < (k + 3) ^ 2)) ∧
      (∃ k q, UOp.exact .rsq (.fin false m x) = exact (.fin false k q) ∧ 2 * q + x ≤ 0 ∧ 2 ^ 95 ≤ k ∧
        let u := 2 ^ (-(2 * q + x)).toNat
        k ^ 2 * m = u ∨ ((k - 1) ^ 2 * m < u ∧ u < (k + 3) ^ 2 * m)) ∧
      (∀ n, let v := UOp.exact .sin (.fin n m x); UOp.exact .sin (.fin (!n) m x) = (v.1.neg, v.2)) ∧
      (∀ n, let v := UOp.exact .tanh (.fin n m x); UOp.exact .tanh (.fin (!n) m x) = (v.1.neg, v.2)) ∧
      UOp.exact .cos (.fin true m x) = UOp.exact .cos (.fin false m x)) ∧
    (∀ i : Int, i ≠ 0 → i.natAbs < 8192 → UOp.exact .exp2 (FV.ofInt i) = exact (.fin false 1 i)) ∧
    (∀ (l : Nat) (x : Int), UOp.exact .log2 (.fin false (2 ^ l) x) = exact (FV.ofInt (x + l))) ∧
    (eFloat e = true → isV g a = true →
    (isV g d = true → Ready s r ((readsRun a 1).and (writesRun d 1)) →
      does (.frcp d a) (UOp.exact .rcp) ∧ does (.frsq d a) (UOp.exact .rsq) ∧ does (.fsqrt d a) (UOp.exact .sqrt) ∧
      does (.fexp2 d a) (UOp.exact .exp2) ∧ does (.flog2 d a) (UOp.exact .log2) ∧ does (.fsin d a) (UOp.exact .sin) ∧
      does (.fcos d a) (UOp.exact .cos) ∧ does (.ftanh d a) (UOp.exact .tanh) ∧ does (.fsigm d a) (UOp.exact .sigm)) ∧
    (∀ (c q : BitVec 3) (o : Opnd), q ≠ 0#3 → o.okV 0 g p = true →
      Ready s r (((readsRun a 1).and (o.uses 1)).and { pw := [q.toNat] }) →
      let compares (i : Instr) : Prop :=
        exec i s = .next (went s r (s.onLanes r.group (s.active r) fun _ ln =>
          let hs := (List.range (eCount e)).filter (eLive e (mLive p.mode))
          let x (h : Nat) := f.read ftz (elemOf e h (ln.image e a.toNat))
          let y (h : Nat) := f.read ftz (elemOf e h (o.image e g p ln))
          let un (h : Nat) : Bool := (x h).isNan || (y h).isNan
          let holds (h : Nat) : Bool := match c.toNat with
            | 0 => (x h).eq (y h)
            | 1 => un h || !(x h).eq (y h)
            | 2 => !un h && (x h).lt (y h)
            | 3 => !un h && !(y h).lt (x h)
            | 4 => !un h && (y h).lt (x h)
            | 5 => !un h && !(x h).lt (y h)
            | 6 => un h
            | _ => !un h
          let invalid (h : Nat) : Bool := (x h).isSnan || (y h).isSnan || (decide (2 ≤ c.toNat ∧ c.toNat ≤ 5) && un h)
          (ln.raise { nv := hs.any invalid }).setPred q.toNat (hs.all holds)))
      (∀ b : BitVec 8, o = .reg b → compares (.fcmp c q a b)) ∧ (∀ k : BitVec 8, o = .k k → compares (.fcmpK c q a k))))

/-- R91: what rounding m × 2^e to a multiple k × 2^q does. Toward zero, toward −∞ and toward +∞ it takes the neighbour on that side;
to nearest it takes a neighbour at most half a step away, the even one of two at the same distance, or the larger under RNA. It is
exact where m × 2^e is such a multiple, and it says so. -/
def Obligations.RoundingDirections : Prop :=
  ∀ (neg : Bool) (m : Nat) (e q : Int) (rnd r16 : Nat), e < q → rnd ≤ 5 → r16 < 65536 →
    let u := 2 ^ (q - e).toNat
    let k := (roundAt neg m e q rnd r16).1
    ((roundAt neg m e q rnd r16).2 = false ↔ k * u = m) ∧
    (m % u = 0 → k * u = m) ∧
    m < (k + 1) * u ∧ k * u < m + u ∧
    (rnd = 1 ∨ (rnd = 2 ∧ neg = false) ∨ (rnd = 3 ∧ neg = true) → k = m / u) ∧
    ((rnd = 2 ∧ neg = true) ∨ (rnd = 3 ∧ neg = false) → m ≤ k * u) ∧
    (rnd = 0 ∨ rnd = 4 → 2 * (k * u) ≤ 2 * m + u ∧ 2 * m ≤ 2 * (k * u) + u) ∧
    (rnd = 0 → 2 * m = (2 * (m / u) + 1) * u → k % 2 = 0) ∧
    (rnd = 4 → 2 * m = (2 * (m / u) + 1) * u → k = m / u + 1) ∧
    (rnd = 5 → k = (m * 65536 + r16 * u) / (65536 * u))

/-- R101, R102, R103: the generator. What it answers is what six rounds leave, with the round constants; it gives the outputs of the
table, and the rounds of the first input leave the values of the second table. -/
def Obligations.GeneratorRoundsAndVectors : Prop :=
  let K : Nat → DWord := fun i => match i with
    | 0 => 0x9E3779B97F4A7C15#64 | 1 => 0xBB67AE8584CAA73B#64 | 2 => 0x3C6EF372FE94F82B#64
    | 3 => 0xA54FF53A5F1D36F1#64 | 4 => 0x510E527FADE682D1#64 | _ => 0x9B05688C2B3E6C1F#64
  let round (seed : DWord) (x : DWord × DWord) (i : Nat) : DWord × DWord :=
    let (hi, lo) := x
    let a := lo ^^^ (seed ^^^ K i)
    let b := a + (a <<< 24)
    (b, hi ^^^ b.rotateLeft 28)
  let rounds (seed : DWord) (stream : Word) (counter : DWord) (n : Nat) : DWord × DWord :=
    (List.range n).foldl (round seed) (stream.setWidth 64, counter)
  (∀ (seed : DWord) (stream : Word) (counter : DWord), gen seed stream counter = rounds seed stream counter 6) ∧
  gen 0 0 0 = (0xFD2BFD11C040C5DB#64, 0xA10A954A61FFE29E#64) ∧ gen 0 0 1 = (0x367A0FF9BE05EFF1#64, 0x7BA56341E9AEA28A#64) ∧
  gen 0 1 0 = (0xC2349F7AC05CC2D9#64, 0x108B2501629E3B78#64) ∧ gen 1 0 0 = (0xDAAD62F6BA0FE10A#64, 0x8B052C008637859A#64) ∧
  (List.range 6).map (fun n => rounds 0 0 0 (n + 1)) =
    [(0x57B6C435944A7C15#64, 0x5944A7C1557B6C43#64), (0x26F4BB1049B1CB78#64, 0x532DD882162537A4#64),
     (0x602BDDC077B1CF8F#64, 0x218FA7E8BFB376A4#64), (0x57A1011335AE4055#64, 0x537139C522CBDF9E#64),
     (0xBD0E9917DE2D5D4F#64, 0x2A43D4C7CE7EA9C4#64), (0xFD2BFD11C040C5DB#64, 0xA10A954A61FFE29E#64)]

/-- R96, R97, R284 to R286, R313, R346: the conversions. CVT, PACK and UNPK convert the elements of a run, in order; an element
that is dead keeps its bits under CVT. An integer's value is kept, wrapped or clamped; a value into an integer is rounded and
clamped; into a floating-point format it is rounded once, with the overflow of RND and SAT and, under FTZ, no subnormal; into
binary8 the format's OVF decides. BF16, FP16 and binary8 values are exact in f32. DEQ multiplies each live code by the scale and
writes the f32 product. The model's own: a draw into an integer: log 54; DEQ: log 42. -/
def Obligations.ConversionResults : Prop :=
  (∀ (x y : Elem) (n : Nat) (live : Nat → Bool) (rnd : Nat) (fi fo sat : Bool) (r16 : Nat → Nat) (v old h : Nat), h < n →
    let el (w z : Nat) : Nat := z / 2 ^ (w * h) % 2 ^ w
    el y.width (convertRun x y n live rnd fi fo sat r16 v old).1 =
      if live h then (y.write rnd (r16 h) fo sat (x.read fi (el x.width v))).1 % 2 ^ y.width else el y.width old) ∧
  (∀ (rnd r16 : Nat) (ftz sat : Bool),
    (∀ (k : Nat) (v : FV), k ≤ 7 →
      let into := (Elem.of k).write rnd r16 ftz sat
      (∀ i : Int, into (v, some i) = (intoType k sat i, {})) ∧
      (∀ b : Bool, into (.nan b, none) = (0, { nv := true })) ∧
      (∀ b : Bool, elemInt k (into (.inf b, none)).1 = (if b then eMin k else eMax k) ∧ (into (.inf b, none)).2 = { nv := true }) ∧
      (∀ (neg : Bool) (m : Nat) (e : Int),
        let z := roundAt neg m e 0 rnd r16
        let i : Int := if neg then -(z.1 : Int) else z.1
        let y := into (.fin neg m e, none)
        (eMin k ≤ i → i ≤ eMax k → elemInt k y.1 = i ∧ y.2 = { nx := z.2 }) ∧
        (i < eMin k → elemInt k y.1 = eMin k ∧ y.2 = { nv := true }) ∧
        (eMax k < i → elemInt k y.1 = eMax k ∧ y.2 = { nv := true }))) ∧
    (∀ (k : Nat) (j : Option Int) (neg : Bool), 8 ≤ k → k ≤ 10 →
      let f := fmtOf k
      let into (v : FV) := (Elem.of k).write rnd r16 ftz sat (v, j)
      let sign := neg.toNat * 2 ^ (f.width - 1)
      into (.nan neg) = (f.nanBits, { nv := neg }) ∧
      into (.inf neg) = (sign + (if sat then f.maxBits else f.infBits), {}) ∧
      (∀ e : Int, into (.fin neg 0 e) = (sign, {})) ∧
      (∀ (m : Nat) (e : Int), m ≠ 0 →
        let q := max (leadExp m e - f.p + 1) (f.emin - f.p + 1)
        let z := roundAt neg m e q rnd r16
        let y := into (.fin neg m e)
        let huge : Prop := z.1 ≠ 0 ∧ f.emax < leadExp z.1 q
        let small : Prop := z.1 ≠ 0 ∧ leadExp z.1 q < f.emin
        (huge → y = (sign + (if sat || overflowToMax neg rnd then f.maxBits else f.infBits), { of := true, nx := true })) ∧
        (¬ huge → ftz = true → small → y = (sign, { uf := true, nx := true })) ∧
        (¬ huge → ¬ (ftz = true ∧ small) → (f.read false y.1).eq (.fin neg z.1 q) = true ∧ y.1 / 2 ^ (f.width - 1) = neg.toNat ∧
          y.2 = { uf := z.2 && tinyAfter f.p f.emin neg m e rnd r16, nx := z.2 }))) ∧
    (∀ (c : Nat) (f : B8) (j : Option Int) (neg : Bool), b8Of c = some f →
      let into (v : FV) := (Elem.b8 f).write rnd r16 ftz sat (v, j)
      let sign := if neg then 0x80 else 0
      let below : Prop := neg = true ∧ f.sgn = false
      let barred : Nat × FFlags := (if f.ovf = 0 then 0 else f.nanCode, { nv := true })
      into (.nan neg) = (f.nanCode, { nv := neg }) ∧
      (below → into (.inf neg) = barred) ∧
      (¬ below → into (.inf neg) = (if f.ovf = 0 then f.maxCode + sign else f.infCode neg, {})) ∧
      (∀ e : Int, into (.fin neg 0 e) = (0, {})) ∧
      (∀ (m : Nat) (e : Int), m ≠ 0 →
        let q := max (leadExp m e - f.p + 1) (f.emin - f.p + 1)
        let z := roundAt neg m e q rnd r16
        let y := into (.fin neg m e)
        (z.1 = 0 → y = (0, { uf := true, nx := true })) ∧
        (z.1 ≠ 0 → below → y = barred) ∧
        (z.1 ≠ 0 → ¬ below → f.exceeds z.1 q = true →
          y = (if f.ovf < 2 || overflowToMax neg rnd then f.maxCode + sign else f.infCode neg, { of := true, nx := true })) ∧
        (z.1 ≠ 0 → ¬ below → f.exceeds z.1 q = false → (f.read y.1).eq (.fin neg z.1 q) = true ∧
          y.2 = { uf := z.2 && tinyAfter f.p f.emin neg m e rnd r16, nx := z.2 }))) ∧
    (∀ (v : FV) (neg : Bool) (m : Nat) (e : Int), v = .fin neg m e →
      ((∃ c x : Nat, ∃ f : B8, b8Of c = some f ∧ x < 256 ∧ f.read x = v) ∨ (∃ x : Nat, x < 65536 ∧ (fmtB16.read false x = v ∨ fmt16.read false x = v))) →
      let y := (Elem.of 8).write rnd r16 false sat (v, none)
      (fmt32.read false y.1).eq v = true ∧ y.1 / 2 ^ 31 = neg.toNat ∧ y.2 = {})) ∧
  ∀ (s : State) (r : PathRef) (d a b : BitVec 8),
    let g := s.group r.group
    let p := s.path r
    let e := mEtype p.mode
    let wrote (f : Lane → Lane) : Res := .next (went s r (s.onLanes r.group (s.active r) fun _ => f))
    (∀ t : Elem, cvtTarget b = some t →
      let m := max 1 (eCount e * t.width / 32)
      isVE e g a = true → isRun g d m m = true → Ready s r ((readsRun a (eRegs e)).and (writesRun d m)) →
      exec (.cvt d a b) s = wrote fun ln =>
        let x := convertRun (.of e) t (eCount e) (eLive e (mLive p.mode)) (mRnd p.mode) (mFtz p.mode) (mFtz p.mode) (mSat p.mode)
          (g.srBits p ln (eCount e)) (ln.image e a.toNat).toNat (ln.run d.toNat m % 2 ^ (eCount e * t.width))
        (ln.setRun d.toNat m x.1).raise x.2) ∧
    (∀ t : Elem, packFormat b = some t → e = 0 ∨ e = 1 ∨ e = 8 →
      let n := 32 / t.width
      (isV g d = true → isRun g a n n = true → Ready s r ((readsRun a n).and (writesRun d 1)) →
        exec (.pack d a b) s = wrote fun ln =>
          let x := convertRun (.of e) t n (fun _ => true) (mRnd p.mode) (mFtz p.mode) (mFtz p.mode) (mSat p.mode) (g.srBits p ln n)
            (ln.run a.toNat n) 0
          (ln.setRun d.toNat 1 x.1).raise x.2) ∧
      (isV g a = true → isRun g d n n = true → Ready s r ((readsRun a 1).and (writesRun d n)) →
        exec (.unpk d a b) s = wrote fun ln =>
          let x := convertRun t (.of e) n (fun _ => true) (mRnd p.mode) (mFtz p.mode) false false (g.srBits p ln n)
            (ln.reg a.toNat).toNat 0
          (ln.setRun d.toNat n x.1).raise x.2)) ∧
    (isRun g d 4 4 = true → isV g a = true → isReg g b = true → e = 7 →
      Ready s r (((readsRun a 1).and (readsRun b 1)).and (writesRun d 4)) →
      ∀ scale : Lane → Word, (∀ ln, scale ln = if isS b then g.sreg (sNum b) else ln.reg b.toNat) →
      (∀ l ∈ s.active r, fld (scale (g.lane l)) 31 16 = 0 ∧ (b8Of (fld (scale (g.lane l)) 7 0)).isSome = true) →
      exec (.deq d a b) s = wrote fun ln =>
        let f := (b8Of (fld (scale ln) 7 0)).getD ⟨1, false, false, 0⟩
        ((List.range 4).filter (eLive 7 (mLive p.mode))).foldl (fun t h =>
          let v := (f.read ((ln.reg a.toNat).toNat / 2 ^ (8 * h) % 2 ^ 8)).mul (B8.read ⟨1, false, false, 0⟩ (fld (scale ln) 15 8))
          let w := fmt32.write (mRnd p.mode) (g.srBits p ln 4 h) (mFtz p.mode) (mSat p.mode) v.1
          (t.setReg (d.toNat + h) (BitVec.ofNat 32 w.1)).raise (w.2.or { nv := v.2 })) ln)

/-- R99, R155, R254, R315, R319: QUANT and the instructions of the generator. QUANT quantises blocks of 32, 32 or 64 elements, or
two blocks of sixteen, over the active lanes; each lane gets its code, with the scale of the block above it. The scale is the one of
three candidates with the least error, ties in their order, and a NaN or an infinity makes the block NaN. RNG writes the
four words of a draw, RNGDROP the mask of sixteen bytes that are not below a threshold, and RNGKEY a key slot, whatever the
guard. The model's own: the lanes of a block: log 42. -/
def Obligations.QuantAndGeneratorResults : Prop :=
  (∀ (c : Nat) (f : B8) (xs : List FV), b8Of c = some f →
    let finite : Prop := ∀ x ∈ xs, ∃ n m e, x = .fin n m e
    let most := f.read f.maxCode
    let codes (e : Int) : List Nat := xs.map fun x => (({ f with ovf := 0 } : B8).write 0 0 (x.scale (-e))).1
    let error (e : Int) : FV := (xs.zip (codes e)).foldl (fun err y =>
      let d := (y.1.add 0 ((f.read y.2).scale e).neg).1
      val32 (f32 (err.add 0 (val32 (f32 (d.mul d).1))).1)) (.fin false 0 0)
    (¬ finite → quantBlock f xs = (0xFF, xs.map fun _ => f.nanCode, true)) ∧
    (finite → (∀ x ∈ xs, x.isZero = true) → quantBlock f xs = (0x80, xs.map fun _ => 0, false)) ∧
    (finite → ∀ e0 : Int, (∃ x ∈ xs, x.isZero = false ∧ (most.scale (e0 - 1)).lt x.abs = true) →
      (∀ x ∈ xs, (most.scale e0).lt x.abs = false) →
      let fits := [e0, e0 + 1, e0 - 1].filter fun e => decide (-127 ≤ e) && decide (e ≤ 126)
      (fits = [] → quantBlock f xs = (if e0 < 0 then (1, codes (-127), false) else (0xFE, codes 126, false))) ∧
      (∀ (pre post : List Int) (e : Int), fits = pre ++ e :: post → (∀ j ∈ pre, (error e).lt (error j) = true) →
        (∀ j ∈ post, (error j).lt (error e) = false) → quantBlock f xs = ((e + 128).toNat, codes e, false)))) ∧
  ∀ (s : State) (r : PathRef) (d a b : BitVec 8),
    let g := s.group r.group
    let p := s.path r
    let w := g.sreg (sNum b)
    isS b = true →
    (let n := if fld w 9 8 = 3 then 2 else 1
     isV g d = true → isV g a = true → mEtype p.mode = 8 →
     fld w 31 10 = 0 → fld w 9 8 ≠ 0 → (fld w 9 8 = 3 → isRun g a 2 2 = true ∧ isRun g d 2 2 = true) →
     Ready s r (((readsRun a n).and (readsRun b 1)).and (writesRun d n)) →
     ∀ f : B8, b8Of (fld w 7 0) = some f →
     let go := quantLanes f (mFtz p.mode) d.toNat a.toNat
     exec (.quant d a b) s = .next (went s r (s.setGroup r.group
      (if fld w 9 8 = 1 then go [0] ((s.active r).filter (· ≥ 16)) (go [0] ((s.active r).filter (· < 16)) g)
       else if fld w 9 8 = 2 then go [0] (s.active r) g
       else go [0, 1] (s.active r) g)))) ∧
    (isRun g d 4 4 = true → isVPair g a = true → w.toNat ≤ 15 →
      Ready s r (((readsRun a 2).and (readsRun b 1)).and (writesRun d 4)) →
      exec (.rng d a b) s = .next (went s r (s.onLanes r.group (s.active r) fun _ ln =>
        let x := gen (tget 0 g.seed w.toNat) (tget 0 g.stream w.toNat) (ln.pair a.toNat)
        (((ln.setReg d.toNat (loWord x.2)).setReg (d.toNat + 1) (hiWord x.2)).setReg (d.toNat + 2) (loWord x.1)).setReg
          (d.toNat + 2 + 1) (hiWord x.1)))) ∧
    (isV g d = true → isVPair g a = true → fld w 7 4 = 0 → fld w 31 16 = 0 →
      Ready s r (((readsRun a 2).and (readsRun b 1)).and (writesRun d 1)) →
      exec (.rngdrop d a b) s = .next (went s r (s.onLanes r.group (s.active r) fun _ ln =>
        let x := gen (tget 0 g.seed (fld w 3 0)) (tget 0 g.stream (fld w 3 0)) (ln.pair a.toNat)
        ln.setReg d.toNat (maskOf ((List.range 16).filter fun j =>
          fld w 15 8 ≤ (x.1.toNat * 2 ^ 64 + x.2.toNat) / 2 ^ (8 * j) % 256))))) ∧
    (isS a = true → a.toNat % 4 = 0 → w.toNat ≤ 15 → Issuing s r →
      SFree g [sNum a, sNum a + 1, sNum a + 2, sNum b] [] →
      exec (.rngkey a b) s = .next (went s r (s.setGroup r.group
        { g with seed := tput g.seed w.toNat (g.spair (sNum a)), stream := tput g.stream w.toNat (g.sreg (sNum a + 2)) })))

/-! Cross-lane instructions (R301 to R303). -/

/-- R302: the cross-lane instructions over the set L of active lanes, in ascending order; with L empty nothing of the group
changes. What a source holds is read as it stands at issue. The model's own: the lanes that the checks strike: log 37, log 38. -/
def Obligations.CrossLaneResults : Prop :=
  ∀ (s : State) (r : PathRef) (d a b : BitVec 8) (n : BitVec 3),
    let g := s.group r.group
    let p := s.path r
    let L := s.active r
    let index (l : Nat) : Nat := fld (if isS b then g.sreg (sNum b) else (g.lane l).reg b.toNat) 4 0
    let value (l : Nat) : Word := (g.lane l).reg a.toNat
    let idx : List (Nat × Nat) := if isS b then [] else L.map fun l => (l, b.toNat)
    let sr : List Nat := if isS b then [sNum b] else []
    let wrote (f : Group → Group) : Res := .next (went s r (s.updGroup r.group fun g => if L.isEmpty then g else f g))
    let live (old x : Word) : Word := moveLive p old x
    (isS d = true → CrossReady s r { pred := some n.toNat, sw := [sNum d] } →
      exec (.lballot d n) s = wrote fun g => g.setSreg (sNum d) (maskOf (L.filter fun l => (g.lane l).pred n.toNat))) ∧
    (isS d = true → isV g a = true → isS b = true → fld (g.sreg (sNum b)) 31 5 = 0 →
      CrossReady s r { reads := [(index 0, a.toNat)], sr := [sNum b], sw := [sNum d] } →
      exec (.lbcast d a b) s = wrote fun g => g.setSreg (sNum d) (value (index 0))) ∧
    (isV g d = true → isV g a = true → isReg g b = true →
      (CrossReady s r { reads := idx ++ L.map fun l => (index l, a.toNat), own := some d.toNat, sr := sr } →
        exec (.lshuf d a b) s = wrote fun g' => L.foldl (fun g' l => g'.updLane l fun ln =>
          ln.setReg d.toNat (live (ln.reg d.toNat) (value (index l)))) g') ∧
      (CrossReady s r { reads := idx ++ L.map fun l => (l, a.toNat),
                        push := (L.filter fun l => L.contains (index l)).map fun l => (index l, d.toNat), sr := sr } →
        exec (.lpush d a b) s = wrote fun g' => L.foldl (fun g' l => if L.contains (index l)
          then g'.updLane (index l) fun ln => ln.setReg d.toNat (live (ln.reg d.toNat) (value l)) else g') g')) ∧
    (isV g a = true → b.toNat ≤ 2 → mEtype p.mode = 0 ∨ mEtype p.mode = 1 ∨ mEtype p.mode = 8 →
      (isS d = true → CrossReady s r { reads := L.map fun l => (l, a.toNat), sw := [sNum d] } →
        exec (.lreduce d a b) s = wrote fun g =>
          let z := combineLanes b.toNat a.toNat p (fun _ _ g => g) none L
            { g with lflags := L.foldl (fun f l => f ||| (g.lane l).fpstat) 0 }
          z.2.setSreg (sNum d) (z.1.getD 0)) ∧
      (isV g d = true → CrossReady s r { reads := L.map fun l => (l, a.toNat), own := some d.toNat } →
        exec (.lscan d a b) s = wrote fun g =>
          (combineLanes b.toNat a.toNat p (fun l x g => g.updLane l fun ln => ln.setReg d.toNat x) none L g).2))

/-! Control transfers, waits and stops. -/

/-- R61, R279, R298, R312: the transfers that move a whole path, whatever the guard, and NOP. A branch-form target is CLHDR plus
four times the sign-extended offset; an indirect target below bit 55 and on a word boundary is taken from its pair as it stands
before the link is written; the link is the address of the clause that follows;
where a register of the link is pending, CALL stops every lane with HAZARD. -/
def Obligations.TransfersMoveThePath : Prop :=
  ∀ (s : State) (r : PathRef) (h : BitVec 2) (q : BitVec 3) (o : BitVec 16) (a : BitVec 8), Issuing s r →
    let g := s.group r.group
    let p := s.path r
    let target : DWord := p.clhdr + BitVec.ofInt 64 (4 * o.toInt)
    let goes (x : DWord) (t : State) : Res := .next (moved s r (fun p => { p with pc := x, clhdr := x, clause := none }) t)
    let linked : State := s.setGroup r.group ((g.setSreg 126 (loWord p.following)).setSreg 127 (hiWord p.following))
    let legal (x : DWord) : Prop := x.toNat < 2 ^ 55 ∧ x.toNat % 4 = 0
    exec .nop s = .next (went s r s) ∧
    exec (.bra h o) s = goes target s ∧
    exec (.brq h q o) s = (if q = 0#3 ∨ bit g.q q.toNat = true then goes target s else .next (moved s r Path.advance s)) ∧
    (SFree g [] [126, 127] → exec (.call h o) s = goes target linked) ∧
    (bit g.sPend 126 = true ∨ bit g.sPend 127 = true → exec (.call h o) s = .next (s.stopAll r p .hazard)) ∧
    (SFree g [126, 127] [] → legal (g.spair 126) → exec .ret s = goes (g.spair 126) s) ∧
    (isSPair a = true → legal (g.spair (sNum a)) →
      (SFree g [sNum a, sNum a + 1] [] → exec (.jmpi a) s = goes (g.spair (sNum a)) s) ∧
      (SFree g [sNum a, sNum a + 1] [126, 127] → exec (.calli a) s = goes (g.spair (sNum a)) linked))

/-- R33: BRP and BRPN, where the predicate is pending or poisoned in no lane of the path. With T the lanes for which the test holds:
T empty goes on at the following clause, T whole goes to the target, and a proper part splits the path, or, under the hint uniform,
stops every lane. -/
def Obligations.BranchResults : Prop :=
  ∀ (s : State) (r : PathRef) (h : BitVec 2) (n : BitVec 3) (o : BitVec 16) (neg : Bool), Issuing s r →
    let g := s.group r.group
    let p := s.path r
    let target : DWord := p.clhdr + BitVec.ofInt 64 (4 * o.toInt)
    let T := (lanesOf p.mask).filter fun l => (g.lane l).pred n.toNat != neg
    let retired (t : State) : Res := .next (t.retire r.group (lanesOf p.mask))
    (∀ l ∈ lanesOf p.mask, bit (g.lane l).pPend n.toNat = false ∧ bit (g.lane l).pPoison n.toNat = false) →
    exec (if neg then .brpn h n o else .brp h n o) s =
      if T = [] then retired (s.updPath r Path.advance)
      else if T = lanesOf p.mask then retired (s.updPath r fun p => p.goto target)
      else if h = 3#2 then .next (s.stopAll r p .uniformHint)
      else retired (s.updGroup r.group fun g => g.split r.path (maskOf T) target (takenFirst h p.mask (maskOf T)) s.clock)

/-- R33: a split. The lanes T form a new entry at the target, the lowest EMPTY one, with the mode of the path, and READY; the old
entry keeps the other lanes and goes on; the masks part the old mask; and no other entry and no register of the group changes.
The side that runs first is the older. The model's own: the age: log 46. -/
def Obligations.SplitDividesThePath : Prop :=
  ∀ (g : Group) (i now : Nat) (m : BitVec 32) (target : DWord) (first : Bool),
    i < 32 → (g.path i).state = .ready → (∃ j, j < 32 ∧ (g.path j).state = .empty) →
    let t := g.split i m target first now
    let e := g.emptyEntry
    e ≠ i ∧ e < 32 ∧ (g.path e).state = .empty ∧ (∀ j, j < e → (g.path j).state ≠ .empty) ∧
    (t.path e).mask = m ∧ (t.path e).pc = target ∧ (t.path e).clhdr = target ∧ (t.path e).mode = (g.path i).mode ∧
    (t.path e).state = .ready ∧ (t.path i).mask = (g.path i).mask &&& ~~~m ∧ (t.path i).pc = (g.path i).advance.pc ∧
    (t.path i).clhdr = (g.path i).advance.clhdr ∧ (t.path i).mode = (g.path i).mode ∧ (t.path i).state = .ready ∧
    (first = true → 0 < (g.path i).age → (t.path e).age < (t.path i).age) ∧
    (first = false → (g.path i).age < readyAge now → (t.path i).age < (t.path e).age) ∧
    (∀ j, j ≠ i → j ≠ e → t.path j = g.path j) ∧ t.lanes = g.lanes ∧ t.s = g.s ∧ t.q = g.q ∧ t.w = g.w

/-- R35, R57, R281, R287, R352, R354: the waits, and EXIT. Each acts on its whole path, whatever the guard. A path reads its expected
mask as it arrives at REGANG; WAITF and YIELDC go on at once where the flag already allows it. -/
def Obligations.WaitsAndExit : Prop :=
  ∀ (s : State) (r : PathRef) (a b f : BitVec 8), Issuing s r →
    let g := s.group r.group
    let p := s.path r
    let goes (move : Path → Path) : Res := .next (moved s r move s)
    exec .compact s = goes (fun p => p.park .barwait .compact) ∧
    exec .exit s = .next ((s.updGroup r.group fun g => g.exitLanes p.mask).retire r.group (lanesOf p.mask)) ∧
    (isS a = true → SFree g [sNum a] [] →
      exec (.regang a) s = goes fun p => { p.park .regang .nothing with expected := g.sreg (sNum a) }) ∧
    (isFlag a = true → b.toNat < 64 →
      exec (.waitf a b) s = goes fun p => if (g.flag a.toNat).toNat ≤ b.toNat then p.advance
        else p.park .flagwait (.flag a.toNat b.toNat) a.toNat) ∧
    (isFlag f = true → isSPair a = true → SFree g [sNum a, sNum a + 1] [] →
      (g.spair (sNum a)).toNat < 2 ^ 55 → (g.spair (sNum a)).toNat % 4 = 0 →
      exec (.yieldc f a) s = goes fun p =>
        if g.flag f.toNat = 0 then (if p.state = .stepping then p.goto (g.spair (sNum a)) else (p.goto (g.spair (sNum a))).ready s.clock)
        else (p.goto (g.spair (sNum a))).park .yielded .yield f.toNat)

/-- R65 to R67, R280, R323, R344: SETMODE writes the mode of the issuing path, from a uniform register or a constant, where R65 and
R66 admit the value; where they do not, every lane stops with ILLEGAL-MODE and the mode keeps its value; a vector register is an
ILLEGAL-OPERAND. The codes 0 to 10 of ETYPE are the types of R66. TRAP and BRK stop each active lane with their cause and their code;
the other lanes go on; with no active lane nothing but the path moves. -/
def Obligations.SetmodeAndTrapResults : Prop :=
  ∀ (s : State) (r : PathRef) (x : BitVec 8), Issuing s r →
    let g := s.group r.group
    let p := s.path r
    let legal (m : Word) : Prop :=
      m.toNat < 2 ^ 26 ∧ m.toNat / 2 ^ 19 % 8 ≤ 4 ∧ m.toNat / 2 ^ 16 % 8 ≤ 4 ∧ m.toNat / 2 ^ 14 % 4 ≠ 0 ∧
      m.toNat / 2 ^ 9 % 8 ≤ 5 ∧ m.toNat / 2 ^ 4 % 32 ≤ 10
    let sets (i : Instr) (m : Word) : Prop :=
      (legal m → exec i s = .next (went s r (s.updPath r fun q => { q with mode := m }))) ∧
      (¬ legal m → exec i s = .next (s.stopAll r p .illegalMode))
    let stops (c : Cause) : List Stop := (s.active r).map fun l => { lane := l, cause := c }
    let traps (i : Instr) (c : Cause) : Prop :=
      exec i s = .next (if s.active r = [] then went s r s
        else if s.active r = lanesOf p.mask then s.stop r (stops c) x
        else (s.stop r (stops c) x).updPath r Path.advance)
    ((List.range 11).map fun e => (eWidth e, eCount e, eInt e, eUnsigned e)) =
      [(32, 1, true, false), (32, 1, true, true), (64, 1, true, false), (64, 1, true, true), (16, 2, true, false), (16, 2, true, true),
       (8, 4, true, false), (8, 4, true, true), (32, 1, false, false), (16, 2, false, false), (16, 2, false, false)] ∧
    (isS x = false → exec (.setmode x) s = .next (s.stopAll r p .illegalOperand)) ∧
    (isS x = true → SFree g [sNum x] [] → sets (.setmode x) (g.sreg (sNum x))) ∧
    (isK p x = true → sets (.setmodeK x)
      (if x.toNat < 128 then (x.extractLsb' 0 7).signExtend 32 else p.cl.lits.getD (x.toNat - 128) 0)) ∧
    ((∀ l ∈ lanesOf p.mask, p.guardPending (g.lane l) = false) → (∀ l ∈ s.active r, p.guardPoisoned (g.lane l) = false) →
      s.pendingFull r.group = false →
      traps (.trap x) .trap ∧ traps (.brk x) .breakpoint)

/-- R34, R173, R174, R176, R177: TAKING A STOP. All lanes that stop at one issue freeze in one entry: in place where they are all the
lanes of the path, else in the lowest EMPTY entry, which stands at the instruction with the path's header and mode, while the path
keeps the rest. Each lane records its own cause. Nothing else of a lane changes, no uniform register and no flag does, and the stop is
on its way to a handler. -/
def Obligations.StopFreezesTheLanes : Prop :=
  ∀ (s : State) (r : PathRef) (stops : List Stop) (code : BitVec 8),
    (s.path r).state ≠ .empty → (s.path r).state ≠ .stepping → stops ≠ [] → (∀ x ∈ stops, x.lane < 32 ∧ (s.path r).mask.getLsbD x.lane = true) →
    (stops.map (·.lane)).Nodup → r.path < 32 → (∃ j, j < 32 ∧ ((s.group r.group).path j).state = .empty) →
    let g := s.group r.group
    let p := s.path r
    let m := maskOf (stops.map (·.lane))
    let e := if m = p.mask then r.path else g.emptyEntry
    let t := s.stop r stops code
    let g' := t.group r.group
    let f := g'.path e
    f.state = .frozen ∧ f.mask = m ∧ f.pc = p.pc ∧ f.clhdr = p.clhdr ∧ f.mode = p.mode ∧ f.tcode = code ∧
    (m ≠ p.mask → g'.path r.path = { p with mask := p.mask &&& ~~~m }) ∧
    (∀ j, j ≠ e → j ≠ r.path → g'.path j = g.path j) ∧
    (∀ x ∈ stops, (g'.lane x.lane).cause = some x.cause) ∧
    (∀ l, { g'.lane l with cause := none, faultAddr := 0 } = { g.lane l with cause := none, faultAddr := 0 }) ∧
    g'.s = g.s ∧ g'.q = g.q ∧ g'.w = g.w ∧ t.mem = s.mem ∧ (∀ k, k ≠ r.group → t.group k = s.group k) ∧
    (⟨.handlerSpawn, { a := r.group, b := e }⟩ : Event) ∈ t.agenda

/-- R64, R69, R70: an unassigned opcode stops every lane of the path with ILLEGAL-INSTRUCTION, whatever the guard. A reserved bit
that is set stops with ILLEGAL-OPERAND the lanes to which the instruction applies: those that the guard selects for a guarded word,
else all; of a guarded word with no such lane nothing is left but its count (R56). -/
def Obligations.UnmatchedWordsStop : Prop :=
  ∀ (s : State) (r : PathRef) (w : BitVec 32), Issuing s r →
    let p := s.path r
    let g := s.group r.group
    let applied := (lanesOf p.mask).filter fun l => p.guardPending (g.lane l) || p.active (g.lane l)
    let stops : List Stop := applied.map fun l => { lane := l, cause := .illegalOperand }
    let flag := p.flagFor (classOf (nominal (.nonzeroReservedField w)))
    exec (.illegalInstruction w) s = .next (s.stopAll r p .illegalInstruction) ∧
    (s.pendingFull r.group = false →
      exec (.nonzeroReservedField w) s = .next (
        if wordGuarded w = false then s.stopAll r p .illegalOperand
        else if applied = [] then went s r (if flag.isSome then s.issueEmpty r flag else s)
        else if applied = lanesOf p.mask then s.stop r stops
        else (s.stop r stops).updPath r Path.advance))

/-- R64, R65: the order of the checks of a guarded word, on the vector addition, in each lane to which it applies: its own fields, the
ETYPE, a pending guard or register, a poisoned source. Where every lane of the path is active, all stop with one such cause. -/
def Obligations.VectorChecksInOrder : Prop :=
  ∀ (s : State) (r : PathRef) (d a b : BitVec 8), Issuing s r → s.pendingFull r.group = false →
    let g := s.group r.group
    let p := s.path r
    let e := mEtype p.mode
    let kinds := isVE e g d = true ∧ isVE e g a = true ∧ (if eWide e then isRegPair g b else isReg g b) = true
    let u := vecUses e d a (.reg b)
    let stops (c : Cause) : Prop := exec (.vadd d a b) s = .next (s.stopAll r p c)
    (∀ l ∈ lanesOf p.mask, p.guardPending (g.lane l) = true ∨ p.active (g.lane l) = true) →
    (¬ kinds → stops .illegalOperand) ∧
    (kinds → eInt e = false → stops .illegalMode) ∧
    (kinds → eInt e = true → (∀ l ∈ lanesOf p.mask, p.guardPending (g.lane l) = true ∨ u.hazard g (g.lane l) = true) → stops .hazard) ∧
    (kinds → eInt e = true → (∀ l ∈ lanesOf p.mask, p.guardPending (g.lane l) = false ∧ u.hazard g (g.lane l) = false ∧ u.poison g (g.lane l) = true) →
      stops .poison)

/-! Loads and stores. -/

/-- R106, R304, R334: the vector loads, where the address step of every active lane succeeds. Values are read after that step, as the
path then sees memory; the destination registers and p7 are pending, and the operation counts on the flag of the clause, until it
completes and they land. The address is the pair of vA plus the sign-extended offset. With no active lane the operation
completes at once. The model's own: that a load reads at issue, and what a path sees: log 3. -/
def Obligations.VectorLoadResults : Prop :=
  ∀ (s t : State) (r : PathRef) (d a : BitVec 8) (o : Opnd) (locs : List (Nat × Loc)),
    let g := s.group r.group
    let p := s.path r
    let addr (l : Nat) : DWord := (g.lane l).pair a.toNat + (o.word g p).signExtend 64
    let flag := p.flagFor .returning
    let places := locs.map (·.2)
    let loads (i : Instr) (n : Nat) (sext : Bool) : Prop :=
      isRun g d (regsOf n) (regsOf n) = true → isVPair g a = true → o.okS p = true →
      Ready s r (((readsRun a 2).and (o.uses 1)).and (writesRun d (regsOf n))) → Reaches s r .load n addr t locs →
      exec i s = .next (went t r (if locs.isEmpty then t.issueEmpty r flag
        else (t.readBy r p.mode n places (t.staleIds r)).issueAccess r flag
          (locs.flatMap fun e => loadDests (t.view r) n sext d.toNat e.1 e.2) places p.lowLane))
    (∀ b : BitVec 8, o = .reg b →
      loads (.ld8 d a b) 1 false ∧ loads (.lds8 d a b) 1 true ∧ loads (.ld16 d a b) 2 false ∧ loads (.lds16 d a b) 2 true ∧
      loads (.ld32 d a b) 4 false ∧ loads (.ld64 d a b) 8 false ∧ loads (.ld128 d a b) 16 false) ∧
    (∀ k : BitVec 8, o = .k k →
      loads (.ld8K d a k) 1 false ∧ loads (.lds8K d a k) 1 true ∧ loads (.ld16K d a k) 2 false ∧ loads (.lds16K d a k) 2 true ∧
      loads (.ld32K d a k) 4 false ∧ loads (.ld64K d a k) 8 false ∧ loads (.ld128K d a k) 16 false)

/-- R114, R124, R304: what a lane's load lands: up to four bytes zero- or sign-extended into one register, eight and sixteen bytes in two
and four registers, little-endian; p7 tells whether the bytes exist; all of it poisoned where a byte is. A path to which every write
is performed reads memory; where some is still in progress, a byte that it reads is that of memory, or that which stood there before
such a write. The model's own: what a path sees: log 3. -/
def Obligations.LoadedValues : Prop :=
  ∀ (s : State) (d l : Nat) (loc : Loc) (sext : Bool),
    let byte (i : Nat) : Byte := s.byteAt (loc.plus i)
    let po (n : Nat) : Bool := (List.range n).any fun i => s.poisonAt (loc.plus i)
    let p7 : Dest := .pred l 7 (decide (loc ≠ .lost ∧ loc ≠ .gone)) false
    let ext (n : Nat) (x : BitVec n) : Word := if sext then x.signExtend 32 else x.setWidth 32
    let word (i : Nat) : Word := byte (i + 3) ++ byte (i + 2) ++ byte (i + 1) ++ byte i
    loadDests s 1 sext d l loc = [.vreg l (d + 0) (ext 8 (byte 0)) (po 1), p7] ∧
    loadDests s 2 sext d l loc = [.vreg l (d + 0) (ext 16 (byte 1 ++ byte 0)) (po 2), p7] ∧
    loadDests s 4 sext d l loc = [.vreg l (d + 0) (word 0) (po 4), p7] ∧
    loadDests s 8 sext d l loc = [.vreg l (d + 0) (word 0) (po 8), .vreg l (d + 1) (word 4) (po 8), p7] ∧
    loadDests s 16 sext d l loc = [.vreg l (d + 0) (word 0) (po 16), .vreg l (d + 1) (word 4) (po 16),
      .vreg l (d + 2) (word 8) (po 16), .vreg l (d + 3) (word 12) (po 16), p7] ∧
    ∀ r : PathRef, (s.behind r = [] → s.view r = s ∧ s.staleIds r = []) ∧
      (s.memoryOk = true → (∀ k, twf 0#8 (s.team k).pad = true) → ∀ x : Loc, (∀ k off, x ≠ .acc k off) →
        (s.view r).byteAt x = s.byteAt x ∨
        ∃ y ∈ s.behind r, ∃ i, i < y.old.length ∧ y.loc.plus i = x ∧ (s.view r).byteAt x = y.old.getD i 0)

/-- R333, R335, R336: the vector stores, where the address step of every active lane succeeds: lane by lane in ascending order the bytes
of the run at vD are written, with their log entries; no register of the group changes. The model's own: that memory holds the
bytes from the issue on, while other paths may still read those before them or before one of its later lanes, and that a store may come
before a write in progress that its path has not seen: log 3. -/
def Obligations.VectorStoreResults : Prop :=
  ∀ (s t : State) (r : PathRef) (d a : BitVec 8) (o : Opnd) (locs : List (Nat × Loc)),
    let g := s.group r.group
    let p := s.path r
    let addr (l : Nat) : DWord := (g.lane l).pair a.toNat + (o.word g p).signExtend 64
    let flag := p.flagFor .nonReturning
    let stores (i : Instr) (n : Nat) : Prop :=
      isRun g d (regsOf n) (regsOf n) = true → isVPair g a = true → o.okS p = true → mMord p.mode ≠ 4 →
      Ready s r (((readsRun a 2).and (o.uses 1)).and (readsRun d (regsOf n))) → Reaches s r .store n addr t locs →
      let data (l : Nat) : List Byte := storeBytes n d.toNat (g.lane l)
      let places : List Loc := locs.map (·.2)
      let stored : State := match t.under r p.mode n places with
        | some x => t.layUnder x ((locs.head?).elim [] fun e => data e.1)
        | none => (storeLanes 1 r data locs t).wrote (t.storeBefore r data locs) r p.mode false (p.flagFor .nonReturning).isNone n places
      exec i s = .next (went t r (if locs.isEmpty then t.issueEmpty r flag
        else stored.issueAccess r flag [] places p.lowLane))
    (∀ b : BitVec 8, o = .reg b → stores (.st8 d a b) 1 ∧ stores (.st16 d a b) 2 ∧ stores (.st32 d a b) 4 ∧ stores (.st64 d a b) 8 ∧
      stores (.st128 d a b) 16) ∧
    (∀ k : BitVec 8, o = .k k → stores (.st8K d a k) 1 ∧ stores (.st16K d a k) 2 ∧ stores (.st32K d a k) 4 ∧ stores (.st64K d a k) 8 ∧
      stores (.st128K d a k) 16)

/-- R194, R335: the FRAME of a store to memory. Of the bytes of device memory, host memory and the scratchpads, each one stored to,
at the places that the address step finds, holds the byte of the last lane that stores there, and every other byte reads as before,
but for the entries that a log in memory takes. -/
def Obligations.StoresChangeOnlyTheirBytes : Prop :=
  ∀ (s : State) (r : PathRef) (kind : Nat) (data : Nat → List Byte) (locs : List (Nat × Loc)),
    let t := storeLanes kind r data locs s
    let c := s.ctx (s.group r.group).ctx
    let stored (x : Loc) : Prop := ∃ e ∈ locs, ∃ i, i < (data e.1).length ∧ e.2.plus i = x
    Memory.wf s.mem = true → Memory.wf s.hmem = true → (∀ k, twf 0#8 (s.team k).pad = true) → (c.logEn && !c.logStop) = false →
    (∀ pa, ¬ stored (.dev pa) → t.byteAt (.dev pa) = s.byteAt (.dev pa)) ∧
    (∀ pa, ¬ stored (.host pa) → t.byteAt (.host pa) = s.byteAt (.host pa)) ∧
    (∀ k x, ¬ stored (.pad k x) → t.byteAt (.pad k x) = s.byteAt (.pad k x)) ∧
    (∀ (l : Nat) (x : Loc) (pre post : List (Nat × Loc)), locs = pre ++ (l, x) :: post →
      (∀ k off, x ≠ .acc k off) → x ≠ .lost → x ≠ .gone →
      ∀ i, i < (data l).length → (∀ e ∈ post, ∀ j, j < (data e.1).length → e.2.plus j ≠ x.plus i) →
        t.byteAt (x.plus i) = (data l).getD i 0) ∧
    t.groups = s.groups ∧ t.ctxs = s.ctxs ∧ t.ops = s.ops

/-- R106, R117: the address step of any access changes nothing that a program holds: no register, predicate, flag or path of a group,
no scratchpad, no tile, no queue and no operation in flight. -/
def Obligations.AddressingChangesNoRegister : Prop :=
  ∀ (s t : State) (r : PathRef) (kind : Acc) (n : Nat) (addr : Nat → DWord) (ls need : List Nat) (locs : List (Nat × Loc)) (stops : List Stop),
    State.resolveLanes r kind n addr ls s need = (t, locs, stops) →
    (∀ k l, { (t.group k).lane l with lastPage := none } = { (s.group k).lane l with lastPage := none }) ∧
    (∀ k, { t.group k with lanes := [] } = { s.group k with lanes := [] }) ∧
    t.teams = s.teams ∧ t.queues = s.queues ∧ t.grids = s.grids ∧ t.ops = s.ops ∧ t.hmem = s.hmem ∧ t.host = s.host ∧
    (locs.map (·.1) ++ stops.map (·.lane)).Perm ls

/-- R106, R119, R120, R304, R305, R330: an address whose top bits name no space, an ordinary one with a bit of [61:55] set, and an
on-chip one of no team's window, reach nothing: INVALID-ADDRESS; one that is not aligned to the access is MISALIGNED. A
scratchpad access reaches its offset in the scratchpad of the issuing team, inside it and aligned; a handler has none. The
model's own: a handler's scratchpad access: log 28; an on-chip access over the end of S: log 36. -/
def Obligations.AddressCauses : Prop :=
  ∀ (s : State) (ag : Agent) (kind : Acc) (n : Nat) (a : DWord), 0 < n →
    (a.toNat / 2 ^ 62 = 3 → s.access ag kind n a = (s, .error .invalidAddress)) ∧
    (a.toNat / 2 ^ 62 = 0 → a.toNat / 2 ^ 55 ≠ 0 → s.access ag kind n a = (s, .error .invalidAddress)) ∧
    (a.toNat / 2 ^ 55 = 0 → a.toNat % n ≠ 0 → s.access ag kind n a = (s, .error .misaligned)) ∧
    (a.toNat / 2 ^ 62 = 1 → a.toNat % n ≠ 0 → s.access ag kind n a = (s, .error .misaligned)) ∧
    (a.toNat / 2 ^ 62 = 2 → (a.toNat / 2 ^ 56 % 64 ≠ 0 ∨ 95 < a.toNat / 2 ^ 48 % 256 ∨ 1 < a.toNat / 2 ^ 44 % 16) →
      s.access ag kind n a = (s, .error .invalidAddress)) ∧
    (∀ loc, (s.access ag kind n a).2 = .ok loc → a.toNat % n = 0) ∧
    (∀ (g : Group) (off : Nat), padLoc s g n off =
      if g.hcap.isSome = true ∨ (s.team g.team).scratch < off + n then .error .invalidAddress
      else if off % n ≠ 0 then .error .misaligned
      else .ok (.pad g.team off))

/-- R107 to R111, R117: an ordinary address that no TLB holds is walked in three levels from PTROOT, by bits [54:42], [41:29] and
[28:16]: the entries of levels 0 and 1 name the next table, with every other bit zero; a leaf stands at level 2, or at level 1 as a
large page with its frame on a 512 MiB boundary; a frame lies in device memory or is the host's. An address that reaches no leaf is
PAGE-NOT-PRESENT. A page without USER is closed to a thread that is no handler, one without W to a write, one without X to a fetch;
else the access goes to the frame. The model's own: the walk in the step itself: log 30. -/
def Obligations.PagePermissions : Prop :=
  ∀ (s : State) (ag : Agent) (kind : Acc) (va : DWord),
    let at_ (f sh : Nat) : Nat := f * 65536 + 8 * (va.toNat / 2 ^ sh % 8192)
    let frame (e : DWord) : Nat := fld e 51 16
    let root := (s.ctx ag.ctx).ptroot.toNat
    let e0 := s.entryAt (at_ root 42)
    let e1 := s.entryAt (at_ (frame e0) 29)
    let e2 := s.entryAt (at_ (frame e1) 16)
    let good (f : Nat) : Prop := f < 12582912 ∧ (s.host.stage ≥ 2 ∨ f % 12 ≤ 2)
    let table (e : DWord) : Prop := bit e 0 = true ∧ bit e 1 = false ∧ fld e 63 52 = 0 ∧ fld e 15 2 = 0
    let leaf (e : DWord) (f : Nat) : Prop := bit e 0 = true ∧ bit e 1 = true ∧ fld e 63 52 = 0 ∧ (bit e 14 = true ∨ good f)
    let res := (s.ordinary ag kind va).2
    (∀ (e : DWord) (slot : Nat) (large : Bool), s.walk ag.ctx va = .leaf e slot large ↔
      good root ∧ table e0 ∧ good (frame e0) ∧
      ((large = true ∧ e = e1 ∧ slot = at_ (frame e0) 29 ∧ leaf e1 (frame e1 + va.toNat / 65536 % 8192) ∧ frame e1 % 8192 = 0) ∨
       (large = false ∧ e = e2 ∧ slot = at_ (frame e1) 16 ∧ table e1 ∧ good (frame e1) ∧ leaf e2 (frame e2)))) ∧
    (s.cached ag va = none →
      ((∀ e slot large, s.walk ag.ctx va ≠ .leaf e slot large) → res = .error .pageNotPresent) ∧
      ∀ (e : DWord) (slot : Nat) (large : Bool), s.walk ag.ctx va = .leaf e slot large →
        (ag.priv = false → bit e 4 = false → res = .error .permission) ∧
        (kind.writes = true → bit e 2 = false → res = .error .permission) ∧
        (kind = .fetch → bit e 3 = false → res = .error .permission) ∧
        (kind = .load → bit e 4 = true → bit e 14 = false →
          let pa := frame e * 65536 + if large then va.toNat % 2 ^ 29 else va.toNat % 65536
          res = .ok (if tget false s.lost (pa / 65536) then .lost else .dev pa)))

/-- R119, R305, R337: the scratchpad loads and stores, in both forms, where every active lane's offset is aligned and its bytes lie in the
team's scratchpad; a load lands as any other, a store writes as any other. The model's own: that a load takes its value, and a store
writes, at issue, and what other paths see: log 3. -/
def Obligations.ScratchpadResults : Prop :=
  ∀ (s t : State) (r : PathRef) (d a : BitVec 8) (o : Opnd) (locs : List (Nat × Loc)),
    let g := s.group r.group
    let p := s.path r
    let off (l : Nat) : Nat := ((g.lane l).reg a.toNat + o.word g p).toNat
    let loads (i : Instr) (n : Nat) : Prop :=
      isRun g d (regsOf n) (regsOf n) = true → isV g a = true → o.okS p = true →
      Ready s r (((readsRun a 1).and (o.uses 1)).and (writesRun d (regsOf n))) →
      State.padLanes r false n off (s.active r) s 0 = (t, locs, []) →
      exec i s = .next (went t r (if locs.isEmpty then t.issueEmpty r (p.flagFor .returning)
        else (t.readBy r p.mode n (locs.map (·.2)) (t.staleIds r)).issueAccess r (p.flagFor .returning)
          (locs.flatMap fun e => loadDests (t.view r) n false d.toNat e.1 e.2) (locs.map (·.2)) p.lowLane))
    let stores (i : Instr) (n : Nat) : Prop :=
      isRun g d (regsOf n) (regsOf n) = true → isV g a = true → o.okS p = true → mMord p.mode ≠ 4 →
      Ready s r (((readsRun a 1).and (o.uses 1)).and (readsRun d (regsOf n))) →
      State.padLanes r true n off (s.active r) s 0 = (t, locs, []) →
      let data (l : Nat) : List Byte := storeBytes n d.toNat (g.lane l)
      let places : List Loc := locs.map (·.2)
      let stored : State := match t.under r p.mode n places with
        | some x => t.layUnder x ((locs.head?).elim [] fun e => data e.1)
        | none => (storeLanes 1 r data locs t).wrote (t.storeBefore r data locs) r p.mode false (p.flagFor .nonReturning).isNone n places 16
      exec i s = .next (went t r (if locs.isEmpty then t.issueEmpty r (p.flagFor .nonReturning)
        else stored.issueAccess r (p.flagFor .nonReturning) [] places p.lowLane))
    (∀ b : BitVec 8, o = .reg b → loads (.ldl32 d a b) 4 ∧ loads (.ldl64 d a b) 8 ∧ loads (.ldl128 d a b) 16 ∧
      stores (.stl32 d a b) 4 ∧ stores (.stl64 d a b) 8 ∧ stores (.stl128 d a b) 16) ∧
    (∀ k : BitVec 8, o = .k k → loads (.ldl32K d a k) 4 ∧ loads (.ldl64K d a k) 8 ∧ loads (.ldl128K d a k) 16 ∧
      stores (.stl32K d a k) 4 ∧ stores (.stl64K d a k) 8 ∧ stores (.stl128K d a k) 16)

/-- R329, R330: the uniform loads and stores, once for the group whatever the guard, where the address step succeeds. The model's own:
that a load takes its value, and a store writes, at issue, and what other paths see: log 3. -/
def Obligations.UniformMemoryResults : Prop :=
  ∀ (s t u : State) (r : PathRef) (d a : BitVec 8) (o : Opnd) (loc : Loc),
    let g := s.group r.group
    let p := s.path r
    let addr : DWord := g.spair (sNum a) + (o.word g p).signExtend 64
    let sure (kind : Acc) (n : Nat) : Prop :=
      Issuing s r ∧ (n = 4 ∨ isSPair d = true) ∧ isS d = true ∧ isSPair a = true ∧ o.okS p = true ∧
      SFree g ([sNum a, sNum a + 1] ++ (o.uses 1).sr) [] ∧
      s.access { ctx := g.ctx, priv := g.isHandler, core := some (coreOf r.group), lane := none,
                 team := if g.isHandler then none else some g.team } kind n addr = (t, .ok loc) ∧ t.lacks = s.lacks ∧
      s.tileBusy [(0, loc)] = false ∧ t.watched r p.lowLane addr n kind.writes (!kind.writes) = none
    let loads (i : Instr) (n : Nat) : Prop :=
      sure .uload n → SFree g [] ((List.range (regsOf n)).map (sNum d + ·)) →
      exec i s = .next (went t r ((t.readBy r p.mode n [loc] (t.staleIds r)).issueAccess r (p.flagFor .returning)
        ((List.range (regsOf n)).map fun i => let v := t.view r
          Dest.sreg (sNum d + i) (BitVec.ofNat 32 (v.numAt loc n / 2 ^ (32 * i))) (v.poisoned loc n)) [loc] p.lowLane))
    let stores (i : Instr) (n : Nat) : Prop :=
      sure .store n → mMord p.mode ≠ 4 → SFree g ((List.range (regsOf n)).map (sNum d + ·)) [] →
      (if loc.logs then t.reserve g.ctx 1 g.isHandler = some u else t = u) →
      let bytes := (List.range (regsOf n)).flatMap fun i => bytesOfNat 4 (g.sreg (sNum d + i)).toNat
      exec i s = .next (went u r ((match u.under r p.mode n [loc] with
        | some x => u.layUnder x bytes
        | none => (u.store (u.writer r.group p.lowLane) 1 loc bytes).wrote (u.storeBefore r (fun _ => bytes) [(p.lowLane, loc)]) r p.mode
            false (p.flagFor .nonReturning).isNone n [loc]).issueAccess r (p.flagFor .nonReturning) [] [loc] p.lowLane))
    (∀ b : BitVec 8, o = .reg b → loads (.sld32 d a b) 4 ∧ loads (.sld64 d a b) 8 ∧ stores (.sst32 d a b) 4 ∧ stores (.sst64 d a b) 8) ∧
    (∀ k : BitVec 8, o = .k k → loads (.sld32K d a k) 4 ∧ loads (.sld64K d a k) 8 ∧ stores (.sst32K d a k) 4 ∧ stores (.sst64K d a k) 8)

/-- R140, R152, R153, R310, R314: MWAIT arms the 128-byte lines that its active lanes name and parks until one of them is written. PREF,
which no poison stops, drops a lane whose address fails, fills the line of another, into the L1 too under L1, and changes no register.
FENCE, whatever the guard, is an operation that completes when the earlier events of its kinds are performed at its scope; memory-side
operations count only at device scope or wider; an acquire at cluster scope or wider discards the L1; a release fence publishes by its
scope, and the path's next write carries its release. The model's own: what an acquire fence orders: log 3. -/
def Obligations.MonitorPrefetchAndFenceResults : Prop :=
  ∀ (s : State) (r : PathRef),
    let g := s.group r.group
    let p := s.path r
    (∀ (h : BitVec 1) (a b : BitVec 8) (t : State) (locs : List (Nat × Loc)), isVPair g a = true → isS b = true →
      let addr (l : Nat) : DWord := (g.lane l).pair a.toNat + (g.sreg (sNum b)).signExtend 64
      (mMord p.mode ≠ 4 → Ready s r ((readsRun a 2).and (readsRun b 1)) → Reaches s r .mwait 4 addr t locs →
        exec (.mwait a b) s = .next (wentBy t r
          (fun p => if locs.isEmpty then p.advance else p.park .barwait (.monitor (locs.filterMap fun e => e.2.line)))
          (t.readBy r p.mode 4 (locs.map (·.2))))) ∧
      (Issuing s r → (∀ l ∈ lanesOf p.mask, p.guardPending (g.lane l) = false) →
        (let u : Uses := { vw := [a.toNat, a.toNat + 1], sw := [sNum b], pw := [mGuard p.mode] }
         ∀ l ∈ s.active r, u.hazard g (g.lane l) = false) →
        exec (.pref h a b) s = .next (went s r (
          let kind : Acc := if h = 1#1 then .load else .pref
          let u := (s.active r).foldl (fun u l => (u.access ((u.group r.group).agent r.group (some l)) kind 1 (addr l)).1) s
          if (s.active r).isEmpty then u.issueEmpty r (p.flagFor .nonReturning)
          else u.issueOp r (p.flagFor .nonReturning) [] (lane := p.lowLane))))) ∧
    (∀ k : BitVec 5, Issuing s r → k ≠ 0#5 → mMord p.mode ≠ 4 →
      let sc := mScope p.mode
      let kinds : Nat := if sc < 3 ∧ k.toNat / 4 % 2 = 1 then k.toNat - 4 else k.toNat
      let u := if mMord p.mode = 1 ∨ mMord p.mode = 3 then
          (if 2 ≤ sc then (s.seeWithin r sc).l1Discard (coreOf r.group) else s.seeWithin r sc) else s
      let t := u.issueOp r (p.flagFor .nonReturning) [] (work := .fence kinds sc) (lane := p.lowLane)
      exec (.fence k) s = .next (went s r (
        if mMord p.mode = 2 ∨ mMord p.mode = 3 then (t.release r.group sc none).updPath r fun q => { q with relFence := some sc } else t)))

/-! Atomics, memory-side operations and fences. -/

/-- R274 to R276: the atomics, where the address step of every active lane succeeds: lane by lane, in an order that the device chooses
where two lanes name one place, the old value is read and, where it is not poisoned, f of it written with a log entry, in one
indivisible pair; the old value of each lane, with its poison, is to land in vD as the operation completes, and nowhere where D is
0xFF. With no active lane the operation completes at once. The model's own: the order of lanes: log 6; what a path sees: log 3. -/
def Obligations.AtomicResults : Prop :=
  ∀ (s t : State) (r : PathRef) (d a b : BitVec 8) (locs : List (Nat × Loc)),
    let g := s.group r.group
    let p := s.path r
    let e := mEtype p.mode
    let n := if eWide e then 8 else 4
    let flag := p.flagFor (if d = 0xFF#8 then .nonReturning else .returning)
    let order := t.performOrder locs
    let t' : State := if order = locs then t else { t with free := t.free + 1 }
    let updates (i : Instr) (o : AtOp) (regs : Nat) : Prop :=
      let lane (z : State × List Dest × List Loc) (x : Nat × Loc) : State × List Dest × List Loc :=
        let old := z.1.numAt x.2 n
        let po := z.1.poisoned x.2 n
        let v := g.opNum (g.lane x.1) b regs
        let lands := (List.range (n / 4)).map fun i => Dest.vreg x.1 (d.toNat + i) (BitVec.ofNat 32 (old / 2 ^ (32 * i))) po
        match (if po then none else o.apply e old (v % 2 ^ (8 * n)) (v / 2 ^ (8 * n))) with
        | some new => (z.1.store (z.1.writer r.group x.1) 2 x.2 (bytesOfNat n new), z.2.1 ++ lands, z.2.2 ++ [x.2])
        | none => (z.1, z.2.1 ++ lands, z.2.2)
      let z := order.foldl lane (t', [], [])
      (d = 0xFF#8 ∨ isRun g d (n / 4) (n / 4) = true) → isVPair g a = true →
      (if isS b then b.toNat % regs = 0 else isRun g b regs regs = true) →
      Ready s r (((readsRun a 2).and (readsRun b regs)).and (if d = 0xFF#8 then {} else writesRun d (n / 4))) →
      Reaches s r .atomic n (fun l => (g.lane l).pair a.toNat) t locs →
      exec i s = .next (went t r (if locs.isEmpty then t.issueEmpty r flag
        else ((z.1.readBy r p.mode n (locs.map (·.2))).wrote t' r p.mode true flag.isNone n z.2.2).issueOp r flag
          (if d = 0xFF#8 then [] else z.2.1) (lane := p.lowLane)))
    order.Perm locs ∧
    (e ≤ 3 →
      updates (.atadd d a b) .add (n / 4) ∧ updates (.atand d a b) .and (n / 4) ∧ updates (.ator d a b) .or (n / 4) ∧
      updates (.atxor d a b) .xor (n / 4) ∧ updates (.atmax d a b) .max (n / 4) ∧ updates (.atmin d a b) .min (n / 4) ∧
      updates (.atxchg d a b) .xchg (n / 4) ∧ updates (.atcas d a b) .cas (n / 4 * 2)) ∧
    (e = 8 → updates (.atfadd d a b) .fadd 1)

/-- R274, R275, R276: one lane's pair of an atomic. f of the old value: ATCAS writes where the old value equals the compare value, the
others always; ATFADD adds as f32 to nearest even, with subnormals kept. Of the lane's place in device memory, host memory or a
scratchpad, a poisoned element is not changed; else its bytes are those of f, where f writes; every other byte reads as before, but
for the log entry; and the pair answers the old value and its poison. -/
def Obligations.AtomicPairs : Prop :=
  (∀ (e old x y : Nat), e ≤ 3 → old < 2 ^ eWidth e → x < 2 ^ eWidth e → y < 2 ^ eWidth e →
    let w := eWidth e
    let num := elemInt e
    AtOp.apply .add e old x y = some ((old + x) % 2 ^ w) ∧
    AtOp.apply .and e old x y = some (old &&& x) ∧ AtOp.apply .or e old x y = some (old ||| x) ∧ AtOp.apply .xor e old x y = some (old ^^^ x) ∧
    AtOp.apply .xchg e old x y = some x ∧
    (∃ z, AtOp.apply .max e old x y = some z ∧ (z = old ∨ z = x) ∧ num old ≤ num z ∧ num x ≤ num z) ∧
    (∃ z, AtOp.apply .min e old x y = some z ∧ (z = old ∨ z = x) ∧ num z ≤ num old ∧ num z ≤ num x) ∧
    AtOp.apply .cas e old x y = (if old = x then some y else none) ∧
    ∀ o, ∀ z ∈ AtOp.apply o e old x y, o ≠ .fadd → z < 2 ^ w) ∧
  (∀ old x y : Nat, old < 2 ^ 32 → x < 2 ^ 32 → AtOp.apply .fadd 8 old x y =
    some (fmt32.write 0 0 false false (FV.add 0 (fmt32.read false old) (fmt32.read false x)).1).1) ∧
  (∀ (s : State) (o : AtOp) (b : BitVec 8) (r : PathRef) (g : Group) (p : Path) (l : Nat) (loc : Loc),
    let n := if eWide (mEtype p.mode) then 8 else 4
    let old := s.numAt loc n
    let v := g.opNum (g.lane l) b (o.bRegs p)
    let new := o.apply (mEtype p.mode) old (v % 2 ^ (8 * n)) (v / 2 ^ (8 * n))
    let z := atomicLane o b r g p s l loc
    let c := s.ctx (s.group r.group).ctx
    let within (x : Loc) : Prop := ∃ i, i < n ∧ loc.plus i = x
    s.memoryOk = true → (∀ k, twf 0#8 (s.team k).pad = true) → (c.logEn && !c.logStop) = false →
    (∀ k off, loc ≠ .acc k off) → loc ≠ .lost → loc ≠ .gone →
    z.2.1 = old ∧ z.2.2.1 = s.poisoned loc n ∧
    (s.poisoned loc n = true → z.1 = s ∧ z.2.2.2 = false) ∧
    (s.poisoned loc n = false → z.2.2.2 = new.isSome ∧ z.1.numAt loc n = new.getD old % 2 ^ (8 * n)) ∧
    (∀ x : Loc, (∀ k off, x ≠ .acc k off) → ¬ within x → z.1.byteAt x = s.byteAt x))

/-- R19, R149, R309: the memory-side operations: an issue leaves one update for each active lane at its home stack, with no result; and
MEMORY_SIDE_APPLY performs one of them, in one indivisible step. -/
def Obligations.MemorySideResults : Prop :=
  ∀ (s t : State) (r : PathRef) (a b : BitVec 8) (locs : List (Nat × Loc)),
    let g := s.group r.group
    let p := s.path r
    let e := mEtype p.mode
    let n := if eWide e then 8 else 4
    let flag := p.flagFor .nonReturning
    let sends (i : Instr) (kind : Nat) : Prop :=
      e ≤ 3 ∨ e = 8 → isVPair g a = true → (if isS b then b.toNat % (n / 4) = 0 else isRun g b (n / 4) (n / 4) = true) →
      Ready s r ((readsRun a 2).and (readsRun b (n / 4))) → Reaches s r .ms n (fun l => (g.lane l).pair a.toNat) t locs →
      exec i s = .next (went t r (if locs.isEmpty then t.issueEmpty r flag else
        ((t.logMs r n locs).spendFence r n (locs.map (·.2))).issueOp r flag [] (lane := p.lowLane) (work := .memorySide (locs.map fun x =>
          { loc := x.2, kind := kind, etype := e, val := BitVec.ofNat 64 (g.opNum (g.lane x.1) b (n / 4)), lane := x.1 }))))
    sends (.msadd a b) 0 ∧ sends (.msmax a b) 1 ∧ sends (.msmin a b) 2 ∧
    (∀ (o : Op) (us : List MsUpdate) (u : MsUpdate), s.ops.find? (·.id == s.ev.a) = some o → o.work = .memorySide us →
      us[s.ev.b]? = some u →
      exec .memorySideApply s = .next { s.msPerform u with ops := (s.msPerform u).ops.map fun x =>
        if x.id = o.id then { x with work := .memorySide (us.eraseIdx s.ev.b) } else x })


/-! Objects, the engines, barriers, the matrix engine and sampling. -/

/-- R125, R130, R150, R296, R297, R351: the object instructions, each once for its path whatever the guard, with its log entry.
HNEW answers the address of a new object, or 0 where no index, range or frame is free, none being still to come by reclaim; HUPG counts one more strong reference
of a live object and answers its strong address, HREL one fewer; HFREE passes the destruction point; HPRIO sets the priority;
VPUBLISH answers the weak address of a frozen version. A gone object is left as it is. The model's own: the frame and the page
tables: log 29. -/
def Obligations.ObjectResults : Prop :=
  ∀ (s t : State) (r : PathRef) (d a b : BitVec 8),
    let g := s.group r.group
    let p := s.path r
    let x := g.spair (sNum a)
    let i := oaIndex x
    let v := t.logIrrev (t.writer r.group p.lowLane) 3
    let o := v.obj g.ctx i
    let alive := v.objAlive g.ctx x
    let answers (u : State) (y : DWord) : Res := .next (went t r (u.issueOp r (p.flagFor .returning)
      [.sreg (sNum d) (loWord y) false, .sreg (sNum d + 1) (hiWord y) false] (lane := p.lowLane)))
    let done (u : State) (work : Work) : Res :=
      .next (went t r ((u.lifeOrder r p.mode g.ctx i).issueOp r (p.flagFor .nonReturning) [] (work := work) (lane := p.lowLane)))
    Issuing s r → isSPair a = true → s.reserve g.ctx 1 g.isHandler = some t →
    (isSPair d = true → SFree g [sNum a, sNum a + 1] [sNum d, sNum d + 1] →
      (0 < x.toNat → x.toNat ≤ 2 ^ 37 → s.mustWait (s.hnewNeeds g.ctx x.toNat) = false → exec (.hnew d a) s =
        answers (if (v.hnew g.ctx x.toNat).2 = 0 then (v.hnew g.ctx x.toNat).1
          else (v.hnew g.ctx x.toNat).1.lifeOrder r p.mode g.ctx (oaIndex (v.hnew g.ctx x.toNat).2)) (v.hnew g.ctx x.toNat).2) ∧
      (fld x 63 62 = 1 → ¬ (s.objAlive g.ctx x = true ∧ (s.obj g.ctx i).scount = 0xFFFFFFFF) → exec (.hupg d a) s =
        answers ((if alive then v.setObj g.ctx i { o with scount := o.scount + 1 } else v).lifeOrder r p.mode g.ctx i)
          (if alive then x &&& ~~~0x2000000000000000#64 else 0)) ∧
      (fld x 63 62 = 1 → oaWeak x = false → s.objAlive g.ctx x = true → (s.obj g.ctx i).frozen = false → s.objQuiet g.ctx i = true →
        s.mustWait (s.vpublishNeeds g.ctx i) = false →
        exec (.vpublish d a) s = answers ((v.vpublish g.ctx i).1.lifeOrder r p.mode g.ctx i) (v.vpublish g.ctx i).2)) ∧
    (SFree g [sNum a, sNum a + 1] [] → fld x 63 62 = 1 → oaWeak x = false →
      (¬ (s.objAlive g.ctx x = true ∧ (s.obj g.ctx i).scount = 0) →
        exec (.hrel a) s = done (if alive then v.setObj g.ctx i { o with scount := o.scount - 1 } else v) .nothing) ∧
      exec (.hfree a) s = .next (went t r (
        let u := v.lifeOrder r p.mode g.ctx i
        (if alive then u.destroyPoint g.ctx i else u).issueOp r (p.flagFor .nonReturning) []
          (work := if alive then .destroy g.ctx i else .nothing) (lane := p.lowLane)))) ∧
    (isS b = true → SFree g [sNum a, sNum a + 1, sNum b] [] → fld x 63 62 = 1 → oaWeak x = false → (g.sreg (sNum b)).toNat ≤ 15 →
      exec (.hprio a b) s = done (if alive then v.setObj g.ctx i { o with prio := (g.sreg (sNum b)).toNat } else v) .nothing)

/-- R232, R233, R240, R282, R299, R306, R342: MAPPG, TLBINV and KVX, and COPY with the writing of its units. MAPPG maps a zeroed
frame at a page that a lane of the capability waits for; TLBINV drops translations when it completes; KVX follows the
directory for each active lane; COPY leaves its 16-byte units to be written, each in one indivisible step with its count on
the barrier object; in a frame lost since, a unit reads zeros and writes nothing (R114). The model's own: the stride of KVX: log 44; what
a path has seen by then: log 3. -/
def Obligations.EngineResults : Prop :=
  ∀ (s t u : State) (r : PathRef) (d a b : BitVec 8),
    let g := s.group r.group
    let p := s.path r
    let va := g.spair (sNum a)
    let w := g.sreg (sNum b)
    (Issuing s r → ∀ h : HCap, g.hcap = some h →
      (isSPair a = true → isS b = true → SFree g [sNum a, sNum a + 1, sNum b] [] → w &&& ~~~0x3F9C#32 = 0#32 → h.map = true →
        va.toNat < 2 ^ 55 → s.pageWanted h va = true → s.mapNeeds g.ctx va ≤ s.poolFree → s.reserve g.ctx 1 true = some t →
        exec (.mappg a b) s = .next (went t r (((t.mapPage g.ctx va w).logIrrev (t.writer r.group p.lowLane) 3).issueOp r
          (p.flagFor .nonReturning) [] (lane := p.lowLane)))) ∧
      (∀ gl : BitVec 1,
        let drops (range : Option (Nat × Nat)) : Res := .next (went s r (s.issueOp r (p.flagFor .nonReturning) []
          (work := .invalidate g.ctx range (gl == 1#1) none) (lane := p.lowLane)))
        exec (.tlbinv gl 1#1 0 0) s = drops none ∧
        (isSPair a = true → isS b = true → SFree g [sNum a, sNum a + 1, sNum b] [] → va.toNat < 2 ^ 55 → w ≠ 0#32 →
          va.toNat / 65536 + w.toNat ≤ 2 ^ 39 → exec (.tlbinv gl 0#1 a b) s = drops (some (va.toNat / 65536, w.toNat))))) ∧
    (∀ (hdr : Loc) (got : List (Nat × DWord × Bool × Bool)), isVPair g d = true → isVPair g a = true → isSPair b = true →
      Ready s r (((readsRun a 2).and (readsRun b 2)).and (writesRun d 2)) → s.active r ≠ [] →
      (g.spair (sNum b)).toNat % 16 = 0 → s.engineRead g r 16 (g.spair (sNum b)) = (t, .ok hdr) →
      State.kvxLanes g r (g.spair (sNum b)) hdr a.toNat (s.active r) t = (u, got, []) → got ≠ [] →
      exec (.kvx d a b) s = .next (went u r (u.issueOp r (p.flagFor .returning) (got.flatMap fun e =>
        [Dest.vreg e.1 d.toNat (loWord e.2.1) e.2.2.2, .vreg e.1 (d.toNat + 1) (hiWord e.2.1) e.2.2.2, .pred e.1 7 e.2.2.1 e.2.2.2])
        (lane := p.lowLane)))) ∧
    (∀ (n : BitVec 4) (us : List CopyUnit),
      let qs := (List.range (n.toNat + 1)).map fun i => s.copyReq g.team (w.toNat + 32 * i)
      Issuing s r → isS b = true → SFree g [sNum b] [] → w.toNat % 32 = 0 → w.toNat + 32 * (n.toNat + 1) ≤ s.scratchOf g →
      s.poisoned (.pad g.team w.toNat) (32 * (n.toNat + 1)) = false → (∀ q ∈ qs, s.copyOk g q = true) →
      State.copyAll g (g.agent r.group none) qs s = (t, .ok us) → t.reserve g.ctx (unitEntries us) g.isHandler = some u →
      exec (.copy n b) s = .next (went u r (((u.saw r [(.pad g.team w.toNat, 32 * (n.toNat + 1))]).spendFence r 16
        ((us.head?).map (·.dst)).toList).issueOp r (p.flagFor .nonReturning) [] (work := .copy us) (lane := p.lowLane)))) ∧
    (∀ (o : Op) (us : List CopyUnit) (c : CopyUnit), s.ops.find? (·.id == s.ev.a) = some o → o.work = .copy us →
      us[s.ev.b]? = some c →
      let dst := s.nowAt c.dst
      let bytes := (List.range 16).map fun i => (s.byteAt ((s.nowAt c.src).plus i), s.poisonAt ((s.nowAt c.src).plus i))
      let v := (s.sawFor o c.src 16).logWrite (s.opWriter o) 3 dst 16
      let v := (((List.range 16).zip bytes).foldl (fun (v : State) e => v.setByte (dst.plus e.1) e.2.1 e.2.2) v).touch dst
      let v := match c.bar with
        | some (k, off) => v.updBarrier (s.opWriter o) 3 k off fun x => { x with bytes := x.bytes - 16 }
        | none => v
      exec .copyUnitWrite s = .next { v with free := v.free + 1, ops := v.ops.map fun x =>
        if x.id = o.id then { x with work := .copy (us.eraseIdx s.ev.b) } else x })

/-- R186, R203, R239, R241, R277, R278, R283, R311, R345: the barriers. BINIT sets the counts of an object and leaves its phase;
BEXPECT adds to its bytes; BARRIVE takes one arrival; a phase is over with the update that leaves no arrival and no byte
missing. BWAIT goes on where the phase has passed, else it parks. TSYNC, CSYNC and NBAR park the path; the first arrival at a
named barrier fixes its mask. The model's own: withdrawn lanes: log 15; what BWAIT puts its path behind: log 3. -/
def Obligations.BarrierResults : Prop :=
  ∀ (s t : State) (r : PathRef) (a b : BitVec 8), Issuing s r →
    let g := s.group r.group
    let p := s.path r
    let w := g.sreg (sNum a)
    let n := g.sreg (sNum b)
    let arrives (move : Path → Path) (u : State) : Res := .next (wentBy s r move u)
    (∀ k off : Nat, isS a = true → s.objectRef g w = some (k, off) → s.poisoned (.pad k off) 16 = false →
      let put (f : Barrier → Barrier) : State :=
        let o := f (t.barrier k off)
        let o : Barrier := if o.arrive = 0#32 ∧ o.bytes = 0#32 then { o with phase := o.phase + 1, arrive := o.expect } else o
        (t.store (t.writer r.group p.lowLane) 2 (.pad k off)
          ([o.phase, o.expect, o.arrive, o.bytes].flatMap fun x => bytesOfNat 4 x.toNat)).touch (.pad k off)
      (s.reserve g.ctx 1 g.isHandler = some t →
        (isS b = true → SFree g [sNum a, sNum b] [] →
          (1 ≤ n.toNat → n.toNat ≤ 0x7FFFFFFF →
            exec (.binit a b) s = .next (went t r (put fun o => { o with expect := n, arrive := n, bytes := 0 }))) ∧
          exec (.bexpect a b) s = .next (went t r (put fun o => { o with bytes := o.bytes + n }))) ∧
        (SFree g [sNum a] [] → (s.barrier k off).arrive ≠ 0#32 → exec (.barrive a) s = .next (went t r (
          let u := put fun o => { o with arrive := o.arrive - 1 }
          if bit w 31 = true ∧ g.isHandler = false then u.publish g.team else u)))) ∧
      (isS b = true → SFree g [sNum a, sNum b] [] →
        exec (.bwait a b) s = arrives (fun q => if s.objectWord k off 0 = n then q.park .barwait (.object k off n) else q.advance)
          (if s.objectWord k off 0 = n then s else s.seeAll r))) ∧
    exec .tsync s = .next (moved s r (fun q => q.park .barwait .tsync) s) ∧
    exec .csync s = .next (moved s r (fun q => q.park .barwait .csync) (if g.isHandler then s else s.publish g.team)) ∧
    (isS a = true → isS b = true → SFree g [sNum a, sNum b] [] → w.toNat ≤ 15 → n ≠ 0#32 → n.toNat < 256 →
      bit n g.role.toNat = true →
      (let fixed := tget 0#8 (s.team g.team).nbarMask w.toNat
       fixed = 0#8 ∨ g.isHandler = true ∨ fixed = n.setWidth 8) →
      exec (.nbar a b) s = arrives (fun q => q.park .barwait (.nbar w.toNat) w.toNat)
        (if g.isHandler = true ∨ (p.state = .stepping ∧ p.freezer ≠ .rewind) then s
         else s.updTeam g.team fun t => { t with nbarMask := tput t.nbarMask w.toNat (n.setWidth 8) }))

/-- R98, R216 to R227: the matrix engine, where no half of the tile is in flight and no other multiply holds a single core's array, the format block is legal and its regions lie in
the scratchpads of the cores that compute. Each cell of the tile becomes the sum of its products in the fixed order, from the
tile's own value where the block accumulates; the tile is in flight until the operation completes. Products and their group sums are
exact, and each sum is rounded once and added in order; a NaN, or two infinities of unlike sign, give the canonical NaN, another
infinity stays. The reuse latch holds the run that the word names until one of its registers is written. MTOPK writes the ranked
choices of a row. The model's own: the hold before the checks: log 18; poison: log 40; an infinite operand times zero, and the sign
of a sum that is zero: log 41; what a path sees of the scratchpad: log 3. -/
def Obligations.MatrixResults : Prop :=
  (∀ (dist : Bool) (f : FBlock) (v : State) (g : Group) (a lead t row c : Nat) (acc : Word),
    let size := if f.a.width = 16 then 4 else 8
    let x (k : Nat) : FV :=
      let n := f.a.width / 8
      let w := ((g.lane (16 * (row % 2) + n * k / 4)).reg (a + row / 2)).toNat
      (f.a.read false (w / 256 ^ (n * k % 4) % 2 ^ f.a.width)).1
    let y (k : Nat) : FV := (f.b.read false (v.numAt (.pad t (f.boff + 64 * c + f.b.width / 8 * k)) (f.b.width / 8))).1
    let scale (t off i len k : Nat) : FV :=
      if len = 0 then .fin false 1 0 else scaleOf (v.numAt (.pad t (off + i * (f.depth / len) + k / len)) 1)
    let product (k : Nat) : FV :=
      if dist then (((x k).add 0 (y k).neg).1.mul ((x k).add 0 (y k).neg).1).1
      else ((((x k).mul (y k)).1.mul (scale lead f.asc row f.la k)).1.mul (scale t f.bsc c f.lb k)).1
    cellAt dist f v g a lead t row c acc = (List.range (f.depth / size)).foldl (fun acc i =>
      f32 ((val32 acc).add 0 (val32 (f32 (exactSum ((List.range size).map fun j => product (i * size + j)))))).1) acc) ∧
  (∀ xs : List FV,
    ((∃ x ∈ xs, x.isNan = true) → f32 (exactSum xs) = 0x7FC00000#32) ∧
    (.inf false ∈ xs → .inf true ∈ xs → f32 (exactSum xs) = 0x7FC00000#32) ∧
    (∀ b : Bool, (∀ x ∈ xs, x.isNan = false) → .inf b ∈ xs → .inf (!b) ∉ xs → exactSum xs = .inf b) ∧
    (∀ q : Int, q ≤ 0 → (∀ x ∈ xs, ∃ n m e, x = .fin n m e ∧ q ≤ e) → ∃ n m e, exactSum xs = .fin n m e ∧
      scaled n m e q = (xs.map fun x => match x with | .fin n m e => scaled n m e q | _ => 0).sum)) ∧
  (∀ (g : Group) (l n : Nat) (x : Word) (h : Bool), l < 32 → n < 128 → g.latch = some h →
    let u := (g.updLane l fun ln => ln.setReg n x).unlatched
    ((n / 64 == 1) = h → u.latch = none) ∧
    ((n / 64 == 1) = !h → (∀ e ∈ g.lanes, e.2.vWritten = 0#128) → u.latch = some h)) ∧
  (∀ (big : Bool) (n : Nat) (xs : List Word),
    let before (x y : Nat × Word) : Prop :=
      let a := val32 x.2
      let b := val32 y.2
      (a.isNan = false ∧ b.isNan = true) ∨ (a.isNan = true ∧ b.isNan = true ∧ x.1 < y.1) ∨
      (a.isNan = false ∧ b.isNan = false ∧ ((if big then b.lt a else a.lt b) = true ∨ (a.eq b = true ∧ x.1 < y.1)))
    ∃ all : List (Nat × Word), all.Perm ((List.range xs.length).zip xs) ∧ all.Pairwise before ∧
      topk big n xs = (all.take n).map fun e => (e.1, if (val32 e.2).isNan then 0x7FC00000#32 else e.2)) ∧
  ∀ (s : State) (r : PathRef) (d b : BitVec 8), Issuing s r → isS b = true → bit (s.group r.group).sPend (sNum b) = false →
    let g := s.group r.group
    let p := s.path r
    let w := g.sreg (sNum b)
    let k := d.toNat
    (∀ (h reuse : BitVec 1) (f : FBlock),
      let a := 64 * h.toNat
      let v := s.view r
      let works (i : Instr) (both dist : Bool) : Prop :=
        let own := s.halves g.team k both
        a + 64 ≤ g.window → k < s.tilesOf g → s.inFlight own = false → (both = false → s.arrayHeld (coreOf r.group) = false) →
        g.runPending a 64 = false → w.toNat % 32 = 0 → w.toNat + 32 ≤ s.scratchOf g →
        parseFBlock dist (v.bytesAt (.pad g.team w.toNat) 32) = some f →
        (both = true → (s.pairTeam g.team k).isSome = true) →
        f.fits (s.scratchOf g) (own.map fun e => (s.team e.1).scratch) = true →
        exec i s = .next (went s r ((((own.foldl (fun (t : State) e =>
            let x := t.team e.1
            (t.setTeam e.1 (x.setTile k (fun j =>
              cellAt dist f v g a g.team e.1 (j / 48) (j % 48) (if f.acc then x.elem k j else 0)) true)).poisonTileIf
              (v.operandPoison f g a w.toNat g.team k b own) e.1 k) s).saw r ((.pad g.team w.toNat, 32) :: f.regions g.team own)
            (s.staleIds r)).issueTile r p own (if both then 1 else 2)).updGroup r.group
          (·.setLatch (if reuse = 1#1 then some (h == 1#1) else none))))
      works (.mma d h reuse b) true false ∧ works (.mmah d h reuse b) false false ∧ works (.mdist d h reuse b) false true) ∧
    (∀ a : BitVec 8,
      let n := fld w 2 0 + 1
      let hs := s.halves g.team a.toNat (bit w 4)
      isV g d = true → d.toNat % 2 = 0 → a.toNat < s.tilesOf g → s.inFlight hs = false → g.runPending d.toNat (2 * n) = false →
      bit g.sPoison (sNum b) = false → (∀ e ∈ hs, bit (s.team e.1).tP e.2 = false) → w.toNat < 128 → d.toNat + 2 * n ≤ g.window →
      (bit w 4 = true → (s.pairTeam g.team a.toNat).isSome = true) →
      exec (.mtopk d a b) s = .next (went s r ((s.setF hs).issueOp r (p.flagFor .returning)
        ((List.range 32).flatMap fun l =>
          let row := 32 * fld w 6 5 + l
          let cs := topk (bit w 3) n ((List.range (if bit w 4 then 96 else 48)).map (s.rowElem hs row))
          ((List.range n).zip cs).flatMap fun e =>
            [Dest.vreg l (d.toNat + 2 * e.1) (BitVec.ofNat 32 e.2.1) false, .vreg l (d.toNat + 2 * e.1 + 1) e.2.2 false])
        (tiles := hs) (lane := p.lowLane))))

/-- R217, R228 to R230, R339, R340: the tile instructions, where the tile is not in flight. TZERO clears a tile whole, TLD and TST
move its 24,576 bytes from and to the scratchpad, and the row instructions of attention act row by row on the tile and its row
state: TROWMAX keeps the maximum and the factor of each row, TEXPSUB writes the probabilities of a row and adds them to its sum,
TSCALE multiplies each element by the factor of its row. The model's own: the maximum of two zeros: log 41; what a path sees of the scratchpad: log 3. -/
def Obligations.TileResults : Prop :=
  (∀ (s : State) (team d : Nat) (hs : List (Nat × Nat)) (x : RowBlock),
    let own := s.team team
    s.rowmax team d hs x = (List.range 128).foldl (fun u row =>
      let old := own.maxOf d row
      let new := ((List.range (if x.pair then 96 else 48)).map (s.rowElem hs row)).foldl (fun m v => fmax32 m (fmul32 x.scale v)) old
      let factor := if new = 0xFF800000#32 then 0x3F800000#32
        else f32 (UOp.exp2.exact (val32 (fmul32 (fsub32 old new) 0x3FB8AA3B#32))).1
      u.updTeam team fun t => (t.setMax d row new).setSum x.t2 row factor) s ∧
    s.tscale team d hs = hs.foldl (fun u e => u.updTeam e.1 fun t =>
      t.setTile e.2 (fun i => fmul32 (t.elem e.2 i) (own.sumOf d (i / 48))) true) s) ∧
  (∀ (half : Bool) (c m l : Word) (xs : List Word),
    let f := if half then fmt16 else fmtB16
    let q (x : Word) : Nat :=
      let y := fmul32 c x
      let p := if m = 0xFF800000#32 then 0#32 else if (val32 y).eq (val32 m) then 0x3F800000#32
        else f32 (UOp.exp2.exact (val32 (fmul32 (fsub32 y m) 0x3FB8AA3B#32))).1
      (f.write 0 0 false false (val32 p)).1
    expSubStep half c m l xs = (xs.map q, xs.foldl (fun a x => fadd32 a (f32 (f.read false (q x)))) l)) ∧
  ∀ (s t : State) (r : PathRef) (d b : BitVec 8), Issuing s r → d.toNat < s.tilesOf (s.group r.group) →
    let g := s.group r.group
    let p := s.path r
    let k := d.toNat
    let off := (g.sreg (sNum b)).toNat
    let one : List (Nat × Nat) := [(g.team, k)]
    let ends (u v : State) (hs : List (Nat × Nat)) : Res :=
      .next (went u r ((v.setF hs).issueOp r (p.flagFor .nonReturning) [] (tiles := hs) (lane := p.lowLane)))
    (s.inFlight one = false → exec (.tzero d) s = ends s (s.updTeam g.team fun x =>
      { x.setTile k (fun _ => 0) true with
        rowMax := x.rowMax.filter fun e => e.1 / 128 != k, rowSum := x.rowSum.filter fun e => e.1 / 128 != k,
        tP := setBit x.tP k false, rowP := setBit x.rowP k false }) one) ∧
    (isS b = true → bit g.sPend (sNum b) = false →
      (s.inFlight one = false → off % 16 = 0 → off + 24576 ≤ s.scratchOf g →
        (let v := s.view r
         exec (.tld d b) s = ends s ((s.saw r [(.pad g.team off, 24576)] (s.staleIds r)).updTeam g.team fun x =>
          { x.setTile k (fun i => BitVec.ofNat 32 (v.numAt (.pad g.team (off + 4 * i)) 4)) false with
            tP := setBit x.tP k (v.poisoned (.pad g.team off) 24576 || bit g.sPoison (sNum b)) }) one) ∧
        (s.reserve g.ctx (chunkCount off 24576) g.isHandler = some t → exec (.tst d b) s = ends t
          (((State.storeRegion (t.writer r.group p.lowLane) g.team (bit (t.team g.team).tP k || bit g.sPoison (sNum b)) 400 off
            ((List.range 6144).flatMap fun i => bytesOfNat 4 ((t.team g.team).elem k i).toNat) t).wroteRegion t r g.team off
              24576).updTeam g.team fun x => { x with tD := setBit x.tD k false }) one)) ∧
      (∀ x : RowBlock, (s.view r).rowBlock g off = some x →
        let hs := (s.view r).halves g.team k x.pair
        let rows (i : Instr) (o : RowOp) (n : Nat) : Prop :=
          rowOk o k (s.view r) g x = true → s.inFlight hs = false → s.reserve g.ctx n g.isHandler = some t →
          (t.view r).rowBlock g off = some x →
          exec i s = ends t (rowEff o k (bit g.sPoison (sNum b) || (t.view r).poisoned (.pad g.team off) 16) r g p x
            (t.saw r [(.pad g.team off, 16)] (t.staleIds r))) hs
        rows (.trowmax d b) .rowmax 0 ∧ rows (.texpsub d b) .expsub (chunkCount x.poff (256 * x.width)) ∧ rows (.tscale d b) .scale 0))

/-- R234 to R237, R245 to R252, R256, R331, R341: the sampling engine and the tickets. SAMPLE and SPECACC read their block at
issue and land what they draw: at temperature 0 the first of the largest logits, and with a draft its token where the target accepts
it, else one of the residual. TICKET takes an entry of the table or gives the reason why not, REDEEM decides what a ticket comes to,
and TKQUERY answers its state. The model's own: poisoned blocks: log 40; the check of RBLK at REDEEM's issue as an engine write: log 44; a replayed
TICKET's block: log 62. -/
def Obligations.SamplingAndTicketResults : Prop :=
  (∀ (x : SBlock) (logits : List Word) (allowed : Nat → Bool), logits.length = x.n → (val32 x.temp).isZero = true →
    let y (i : Nat) : Word := if (val32 (logits.getD i 0)).isNan || !allowed i then 0xFF800000#32 else logits.getD i 0
    ((∀ i : Nat, i < x.n → y i = 0xFF800000#32) → distribution x logits allowed = List.replicate x.n 0) ∧
    (∀ j : Nat, j < x.n → y j ≠ 0xFF800000#32 → (∀ i : Nat, i < x.n → (val32 (y j)).lt (val32 (y i)) = false) →
      (∀ i : Nat, i < j → (val32 (y i)).lt (val32 (y j)) = true) →
      distribution x logits allowed = (List.range x.n).map fun i => if i = j then 0x3F800000#32 else 0)) ∧
  (∀ (g : Group) (x : SBlock) (p q : List Word) (token idx : Nat),
    let at_ (l : List Word) (i : Nat) : Word := l.getD i 0
    let u : FV := .fin false (g.drawBits x.slot idx 32 / 256) (-24)
    let zero : FV := .fin false 0 0
    let pt := val32 (at_ p token)
    let qt := val32 (at_ q token)
    let taken : Prop := token < x.n ∧ ((zero.lt qt = true ∧ (u.mul qt).1.lt pt = true) ∨ (zero.lt qt = false ∧ zero.lt pt = true))
    (taken → accept g x p q token idx = [BitVec.ofNat 32 token, 1]) ∧
    (¬ taken →
      let rest := (List.range x.n).map fun i =>
        let d := fsub32 (at_ p i) (at_ q i)
        if zero.lt (val32 d) then d else 0
      let total := rest.foldl fadd32 0
      accept g x p q token idx =
        [g.drawToken (if (val32 total).isZero then p else rest.map fun y => fdiv32 y total) x.slot x.idx, 0])) ∧
  (∀ (s : State) (r : PathRef) (p : Path) (g : Group) (blk : List Byte) (region : List (Loc × Nat)),
    let ctx := g.ctx
    let at8 (o : Nat) : DWord := BitVec.ofNat 64 (blkNum blk o 8)
    let fails (n : Nat) : DWord := BitVec.ofNat 64 (2 ^ 63 + n)
    let result := s.ticket r p g blk region
    (g.replay = true → result = (s, fails 4)) ∧
    (g.replay = false → s.objAlive ctx (at8 8) = false → result = (s, fails 3)) ∧
    (g.replay = false → s.objAlive ctx (at8 8) = true →
      (∀ t : State, s.holdSome r p ctx (at8 24) = (t, false) → result = (t, fails 2)) ∧
      (∀ t u : State, s.holdSome r p ctx (at8 24) = (t, true) → t.holdSome r p ctx (at8 32) = (u, false) →
        result = (u.dropSome ctx (at8 24), fails 2)) ∧
      (∀ t u : State, s.holdSome r p ctx (at8 24) = (t, true) → t.holdSome r p ctx (at8 32) = (u, true) →
        (u.freeTicket ctx = none → (bit (u.ctx ctx).tkcfg 30 = false ∨ u.oldestTicket ctx = none) →
          result = ((u.dropSome ctx (at8 32)).dropSome ctx (at8 24), fails 1)) ∧
        (∀ e : Nat, u.freeTicket ctx = some e → result.2 = BitVec.ofNat 64 ((u.ctx ctx).tkseq * 2 ^ 20 + e)) ∧
        (∀ e : Nat, u.freeTicket ctx = none → bit (u.ctx ctx).tkcfg 30 = true → u.oldestTicket ctx = some e →
          result.2 = BitVec.ofNat 64 (((u.expire ctx e).ctx ctx).tkseq * 2 ^ 20 + e))))) ∧
  (∀ (s : State) (ctx : Nat) (blk : List Byte),
    let id : DWord := BitVec.ofNat 64 (blkNum blk 0 8)
    let fb : DWord := BitVec.ofNat 64 (blkNum blk 8 8)
    let x := s.redemption ctx blk
    (s.findTicket ctx id = none → x.status = 1) ∧
    (∀ e : Nat, s.findTicket ctx id = some e →
      let pol := if blkNum blk 16 1 = 255 then s.tk ctx e 9 1 else blkNum blk 16 1
      let w := s.tkD ctx e 16
      let l := s.tkD ctx e 24
      (s.tk ctx e 8 1 ≠ 1 → x.status = 2 ∧ x.stale = s.tk ctx e 8 1) ∧
      (s.tk ctx e 8 1 = 1 → fb ≠ 0 → s.objAlive ctx fb = false → x.status = 4) ∧
      (s.tk ctx e 8 1 = 1 → (fb = 0 ∨ s.objAlive ctx fb = true) →
        (pol ≠ 1 → s.objAlive ctx w = true → x.status = 0 ∧ x.exact = true ∧ x.stale = 0 ∧ x.w = w &&& ~~~0x2000000000000000#64) ∧
        (pol = 0 → s.objAlive ctx w = false → x.status = 3) ∧
        ((pol = 1 ∨ (pol ≠ 0 ∧ s.objAlive ctx w = false)) →
          ((l = 0 ∨ s.objAlive ctx l = false) → x.status = 5) ∧
          (l ≠ 0 → s.objAlive ctx l = true → x.status = 0 ∧ x.exact = false ∧ x.stale = s.staleness ctx e ∧
            x.w = l &&& ~~~0x2000000000000000#64))))) ∧
  ∀ (s t u : State) (r : PathRef) (d b : BitVec 8), Issuing s r → isS d = true →
    let g := s.group r.group
    let p := s.path r
    let off := (g.sreg (sNum b)).toNat
    let ag := g.agent r.group none
    let pair := [sNum d, sNum d + 1]
    let answers (u v : State) (y : DWord) (work : Work) : Res := .next (went u r (v.issueOp r (p.flagFor .returning)
      [.sreg (sNum d) (loWord y) false, .sreg (sNum d + 1) (hiWord y) false] (work := work) (lane := p.lowLane)))
    (isS b = true → SFree g [sNum b] [] → off % 16 = 0 → ∀ (ws : List Word) (po : Bool),
      (SFree g [] [sNum d] → off + 48 ≤ s.scratchOf g → sampleRun r g ag (s.bytesAt (.pad g.team off) 48) s = some (t, .ok (ws, po)) →
        exec (.sample d b) s = .next (went t r ((t.saw r [(.pad g.team off, 48)]).issueOp r (p.flagFor .returning)
          [.sreg (sNum d) (ws.getD 0 0) (po || s.poisoned (.pad g.team off) 48)] (lane := p.lowLane)))) ∧
      (isSPair d = true → SFree g [] pair → off + 112 ≤ s.scratchOf g →
        specaccRun r g ag (s.bytesAt (.pad g.team off) 112) s = some (t, .ok (ws, po)) →
        exec (.specacc d b) s = .next (went t r ((t.saw r [(.pad g.team off, 112)]).issueOp r (p.flagFor .returning)
          [.sreg (sNum d) (ws.getD 0 0) (po || s.poisoned (.pad g.team off) 112),
           .sreg (sNum d + 1) (ws.getD 1 0) (po || s.poisoned (.pad g.team off) 112)] (lane := p.lowLane))))) ∧
    (isS b = true → SFree g [sNum b] [] → off % 16 = 0 → isSPair d = true → SFree g [] pair → bit (s.ctx g.ctx).tkcfg 31 = true →
      g.isHandler = false →
      (let blk := s.bytesAt (.pad g.team off) 80
       let at8 (o : Nat) : DWord := BitVec.ofNat 64 (blkNum blk o 8)
       ∀ region : List (Loc × Nat), off + 80 ≤ (s.team g.team).scratch → s.poisoned (.pad g.team off) 80 = false → requestOk g.replay blk = true →
       (g.replay = false → ∀ o ∈ [24, 32], at8 o ≠ 0 → s.holdFull g.ctx (at8 o) = false) →
       s.readRegion ag 16 (at8 56) (blkNum blk 4 4) = (t, .ok region) → t.reserve g.ctx 1 false = some u →
       let z := ((u.saw r ((.pad g.team off, 80) :: region)).logIrrev (u.writer r.group p.lowLane) 3).ticket r p g blk region
       exec (.ticket d b) s = answers u z.1 z.2 .nothing) ∧
      (let blk := s.bytesAt (.pad g.team off) 64
       let at8 (o : Nat) : DWord := BitVec.ofNat 64 (blkNum blk o 8)
       off + 64 ≤ (s.team g.team).scratch → s.poisoned (.pad g.team off) 64 = false → redemptionOk blk = true →
       s.queueOk (blkNum blk 17 1) g.ctx = true → (at8 8 ≠ 0 → s.holdFull g.ctx (at8 8) = false) →
       let x := s.redemption g.ctx blk
       (s.findTicket g.ctx (at8 0) = none → s.reserve g.ctx 1 false = some t →
        let u := (t.saw r [(.pad g.team off, 64)]).logIrrev (t.writer r.group p.lowLane) 3
        u.findTicket g.ctx (at8 0) = none → exec (.redeem d b) s = answers t u (dword 1#32 0#32) .nothing) ∧
       (∀ (e : Nat) (v y : State) (fs bs : List (Loc × Nat)) (rb : Loc), s.findTicket g.ctx (at8 0) = some e →
        (∀ z ∈ [s.tkD g.ctx e 16, s.tkD g.ctx e 24], z ≠ 0 → s.holdFull g.ctx z = false) →
        s.readRegion ag 16 (s.tkD g.ctx e 48) 128 = (t, .ok fs) → t.readRegion ag 16 (t.tkD g.ctx e 56) 128 = (u, .ok bs) →
        (if x.status = 0 then u.access ag .engineWrite 16 (at8 48) else (u, .ok .lost)) = (v, .ok rb) →
        v.reserve g.ctx (if x.status = 0 ∧ rb.logs = true then 2 else 1) false = some y →
        exec (.redeem d b) s = .next (went y r
          (((y.saw r ((.pad g.team off, 64) :: (fs ++ bs))).logIrrev (y.writer r.group p.lowLane) 3).redeem r g p d blk x rb
            (y.segBytes fs) (y.segBytes bs)))))) ∧
    (∀ a : BitVec 8, isSPair d = true → isSPair a = true → SFree g [sNum a, sNum a + 1] pair → bit (s.ctx g.ctx).tkcfg 31 = true →
      (s.findTicket g.ctx (g.spair (sNum a)) = none → exec (.tkquery d a) s = answers s s (dword 0xFF#32 0xFFFFFFFF#32) .nothing) ∧
      (∀ i : Nat, s.findTicket g.ctx (g.spair (sNum a)) = some i →
        let w := s.tkD g.ctx i 16
        let l := s.tkD g.ctx i 24
        exec (.tkquery d a) s = answers s s (dword
          (BitVec.ofNat 32 (s.tk g.ctx i 8 1 + (if s.objAlive g.ctx w then 0 else 256) + (if s.tkHeld g.ctx i then 512 else 0)))
          (if l = 0 ∨ s.objAlive g.ctx l = false then 0xFFFFFFFF#32 else BitVec.ofNat 32 (s.staleness g.ctx i))) .nothing))

/-! Special registers, the log, windows, queues and handlers. -/

/-- R21, R324 to R328: SRD and SWR. A special register is read once into a uniform register, whatever the guard, or into a vector
register of each active lane; the read of CYCLE latches the high half. The values are those of the table; a handler reads its own
lanes and slot, and 0 where the register is a team's. ROLE, the key slots, FPSTAT and SRIDX are written by any thread, the register's own
rule deciding about the value; OBJTAB, PTROOT, WDOG, POOLMARK and the other privileged registers by a handler alone. A read of HCAP outside a handler, a
selector that names no register, a write of a privileged register outside a handler or of one that faults, is ILLEGAL-OPERAND. The
model's own: ROLE in a handler: log 53; clocks: log 2; that a PTROOT write drops the context's translations: log 30. -/
def Obligations.SpecialRegisterResults : Prop :=
  ∀ (s : State) (r : PathRef) (d a b : BitVec 8),
    let g := s.group r.group
    let p := s.path r
    let team := s.team g.team
    let c := s.ctx g.ctx
    let core := s.core (coreOf r.group)
    let hd := g.isHandler
    let ln (l : Nat) : Lane := g.lane l
    let val (l : Nat) : Word := s.special r.group g p l b.toNat
    let latched (u : State) : State := if b = 0x0A#8 then
      u.updPath r fun q => { q with cycleh := BitVec.ofNat 32 (u.cycles (coreOf r.group) / 2 ^ 32) } else u
    let x := g.sreg (sNum a)
    let wrote (u : State) : Res := .next (went s r u)
    let refused (i : Instr) : Prop := exec i s = .next (s.stopAll r p .illegalOperand)
    (assigned b.toNat = true → (isHcap b.toNat = true → hd = true) →
      (isS d = true → Issuing s r → SFree g [] [sNum d] →
        exec (.srd d b) s = wrote (latched (s.setGroup r.group (g.setSreg (sNum d) (val p.lowLane))))) ∧
      (isV g d = true → Ready s r (writesRun d 1) →
        exec (.srd d b) s = wrote (
          let u := s.onLanes r.group (s.active r) fun l ln => ln.setReg d.toNat (val l)
          if s.active r = [] then u else latched u))) ∧
    (Issuing s r → isS d = true → (assigned b.toNat = false ∨ (isHcap b.toNat = true ∧ hd = false)) → refused (.srd d b)) ∧
    (∀ l : Nat, (b = 0x00#8 → val l = BitVec.ofNat 32 l) ∧ (b = 0x01#8 → val l = BitVec.ofNat 32 (l / 4)) ∧
      (b = 0x02#8 → val l = BitVec.ofNat 32 (if hd then partOf r.group else g.gid)) ∧
      (b = 0x03#8 → val l = if hd then 0 else BitVec.ofNat 32 team.x) ∧ (b = 0x04#8 → val l = if hd then 0 else BitVec.ofNat 32 team.y) ∧
      (b = 0x05#8 → val l = if hd then 0 else BitVec.ofNat 32 team.z) ∧ (b = 0x06#8 → val l = if hd then 0 else BitVec.ofNat 32 team.pos) ∧
      (b = 0x07#8 → val l = BitVec.ofNat 32 (coreOf r.group)) ∧ (b = 0x08#8 → val l = BitVec.ofNat 32 (coreOf r.group / 24)) ∧
      (b = 0x09#8 → val l = if hd then 0 else g.role.setWidth 32) ∧
      (b = 0x0A#8 → val l = BitVec.ofNat 32 (clocks (coreOf r.group) (s.clock - core.since))) ∧ (b = 0x0B#8 → val l = p.cycleh) ∧
      (b = 0x0C#8 → val l = if g.replay = true ∧ hd = false then 1 else 0) ∧
      (b = 0x0D#8 → val l = if hd = true ∨ team.progress = 0 then 0
        else BitVec.ofNat 32 (max 1 (min (team.progress - team.cyclesResident) 0xFFFFFFFF))) ∧
      (b = 0x0E#8 → val l = if hd then 0 else team.logwin) ∧
      (b = 0x0F#8 → val l = (ln l).rcnt) ∧ (b = 0x10#8 → val l = 0x01806044#32) ∧ (b = 0x11#8 → val l = BitVec.ofNat 32 s.host.mhz) ∧
      (b = 0x12#8 → val l = core.wdog) ∧ (b = 0x13#8 → val l = (ln l).sridx) ∧
      (b = 0x14#8 → val l = (ln l).fpstat.setWidth 32) ∧ (b = 0x15#8 → val l = g.lflags.setWidth 32) ∧
      (∀ k : Nat, k < 16 → k < team.tiles → hd = false → b = (if k < 8 then 0x16#8 else 0x17#8) →
        fld (val l) (4 * (k % 8) + 3) (4 * (k % 8)) =
          (bit team.tV k).toNat + 2 * (bit team.tD k).toNat + 4 * (bit team.tF k).toNat + 8 * (bit team.tP k).toNat) ∧
      (b = 0x18#8 → val l = c.ptroot) ∧ (b = 0x19#8 → val l = c.objtab) ∧ (b = 0x1A#8 → val l = BitVec.ofNat 32 s.poolFree) ∧
      (b = 0x1B#8 → val l = s.poolmark) ∧ (b = 0x1C#8 → val l = c.logbase) ∧ (b = 0x1D#8 → val l = c.logcfg) ∧
      (b = 0x1E#8 → val l = BitVec.ofNat 32 (c.logEn.toNat * 2 ^ 31 + c.logStop.toNat * 2 ^ 30)) ∧
      (b = 0x1F#8 → val l = c.logfirst) ∧ (b = 0x20#8 → val l = c.tkbase) ∧ (b = 0x21#8 → val l = c.tkcfg) ∧
      (b = 0x22#8 → val l = c.fltcfg) ∧ (b = 0x23#8 → val l = core.preth) ∧ (b = 0x24#8 → val l = core.profcfg) ∧
      (b = 0x25#8 → val l = core.profbase) ∧ (b = 0x26#8 → val l = core.profpos) ∧
      (∀ h : HCap, g.hcap = some h →
        (b = 0x30#8 → val l = h.word (s.capValid h) g.ctx 0) ∧ (b = 0x31#8 → val l = h.mask) ∧
        (b = 0x32#8 → val l = h.word (s.capValid h) g.ctx 2) ∧
        (∀ k : Nat, k < 32 → b = BitVec.ofNat 8 (0x33 + k / 4) → fld (val l) (8 * (k % 4) + 7) (8 * (k % 4)) = (tget 0#8 h.causes k).toNat)) ∧
      (∀ k : Nat, k < 16 → (b = BitVec.ofNat 8 (0x40 + 4 * k) → val l = loWord (g.seedOf k)) ∧
        (b = BitVec.ofNat 8 (0x41 + 4 * k) → val l = hiWord (g.seedOf k)) ∧ (b = BitVec.ofNat 8 (0x42 + 4 * k) → val l = g.streamOf k))) ∧
    (Issuing s r → laneScope b.toNat = false → (assigned b.toNat = false ∨ swrFaults b.toNat = true ∨
      (hd = false ∧ b.toNat ∈ [0x12, 0x18, 0x19, 0x1B, 0x20, 0x21, 0x22, 0x23, 0x24, 0x25]) ∨ (hd = true ∧ b = 0x0D#8)) →
      refused (.swr a b)) ∧
    (isS a = true → Issuing s r → SFree g [sNum a] [] →
      (∀ t : State, assigned b.toNat = true → laneScope b.toNat = false → swrFaults b.toNat = false →
        (swrPrivileged b.toNat = true → hd = true) → (b = 0x0D#8 → hd = false) →
        s.writeSpecial r.group g b.toNat x = some t → exec (.swr a b) s = wrote t) ∧
      (∀ k : Nat, k < 16 →
        s.writeSpecial r.group g (0x40 + 4 * k) x =
          some (s.updGroup r.group fun g => { g with seed := tput g.seed k (dword x (hiWord (g.seedOf k))) }) ∧
        s.writeSpecial r.group g (0x41 + 4 * k) x =
          some (s.updGroup r.group fun g => { g with seed := tput g.seed k (dword (loWord (g.seedOf k)) x) }) ∧
        s.writeSpecial r.group g (0x42 + 4 * k) x = some (s.updGroup r.group fun g => { g with stream := tput g.stream k x })) ∧
      (x.toNat ≤ 7 → exec (.swr a 0x09) s = wrote (s.setGroup r.group { g with role := x.setWidth 3 })) ∧
      (7 < x.toNat → refused (.swr a 0x09)) ∧
      (hd = true →
        exec (.swr a 0x18) s = wrote ((s.updCtx g.ctx fun c => { c with ptroot := x }).invalidate g.ctx none false) ∧
        exec (.swr a 0x19) s = wrote (s.updCtx g.ctx fun c => { c with objtab := x }) ∧
        (if fld x 15 0 ≤ fld x 31 16 then exec (.swr a 0x1B) s = wrote { s with poolmark := x } else refused (.swr a 0x1B)) ∧
        (if 20 ≤ x.toNat ∧ x.toNat ≤ 40 then exec (.swr a 0x12) s = wrote (s.updCore (coreOf r.group) fun c => { c with wdog := x })
         else refused (.swr a 0x12)))) ∧
    (isReg g a = true → Ready s r (readsRun a 1) →
      let v (ln : Lane) : Word := if isS a then x else ln.reg a.toNat
      exec (.swr a 0x13) s = wrote (s.onLanes r.group (s.active r) fun _ ln => { ln with sridx := v ln }) ∧
      ((∀ l ∈ s.active r, (v (ln l)).toNat < 32) →
        exec (.swr a 0x14) s = wrote (s.onLanes r.group (s.active r) fun _ ln => { ln with fpstat := (v ln).setWidth 5 })))

/-- R37, R40 to R43, R159, R197, R198, R200, R202, R300, R307, R317, R318, R353: the undo log, register windows and launches.
LOGCTL, in a handler, enables, disables, trims the log or sets its policy; WINDOW parks the path until its team opens one;
REWIND holds its path until it has a status word; REGROW goes on at once where the window is large enough, else it waits, as
REGFREE and REORDER do, one group's resizings in issue order; LAUNCH appends a packet, and MARKDONE has the done bit set. The model's own: the ring in
memory: log 21; rewinds: log 33. -/
def Obligations.LogWindowAndLaunchResults : Prop :=
  ∀ (s t : State) (r : PathRef) (d a b : BitVec 8), Issuing s r →
    let g := s.group r.group
    let p := s.path r
    let x := g.sreg (sNum a)
    let ctxOnly (f : Ctx → Ctx) : Res := .next (went s r (s.updCtx g.ctx f))
    let noReturn (u : State) (work : Work) : State := u.issueOp r (p.flagFor .nonReturning) [] (work := work) (lane := p.lowLane)
    (g.isHandler = true → isSPair a = true →
      (SFree g [sNum a, sNum a + 1] [] → logcfgOk (g.sreg (sNum a + 1)) = true → s.ringOk x (fld (g.sreg (sNum a + 1)) 4 0) = true →
        exec (.logctlEnable a) s = ctxOnly fun c =>
          { c with ring := [], snaps := [], opened := [], dirtied := [], stopAt := [], logbase := x, logcfg := g.sreg (sNum a + 1),
                   logEn := true, logStop := false }) ∧
      exec (.logctlDisable a) s = ctxOnly (fun c =>
        { c with ring := [], snaps := [], opened := [], dirtied := [], stopAt := [], logEn := false }) ∧
      (SFree g [sNum a] [] →
        (x.toNat < 3 → exec (.logctlPolicy a) s = ctxOnly fun c => { c with logcfg := (c.logcfg &&& 0x3FFFFFFF#32) ||| (x <<< 30) }) ∧
        exec (.logctlTrim a) s = ctxOnly fun c => match c.openSeq x with
          | some q => { c with ring := c.ring.filter fun e => e.seq ≥ q }
          | none => c)) ∧
    (isS d = true → g.isHandler = false → SFree g [] [sNum d] →
      exec (.window d) s = .next (moved s r (fun q => q.park .barwait (.window (sNum d))) s)) ∧
    (∀ (c f : BitVec 1) (h : HCap) (w : Word), isS d = true → isS a = true → g.hcap = some h → SFree g [sNum a] [sNum d] →
      h.rewind = true → s.capValid h = true → (c = 1#1 → h.wide = true) →
      s.rewind g.ctx (if c = 1#1 then none else some h.team) (some r.group) x (f == 1#1) = (t, some w) →
      (t.path r).mask ≠ 0#32 →
      exec (.rewind d a c f) s = .next (went t r (
        (if fld w 7 0 = 0 ∨ fld w 7 0 = 7 then t.rewriteCap r.group (c == 1#1) else t).updGroup r.group fun g => g.setSreg (sNum d) w))) ∧
    (isS a = true → SFree g [sNum a] [] → windowOk x.toNat = true →
      (∀ q : BitVec 3, q ≠ 0#3 → exec (.regrow q a) s =
        if x.toNat ≤ g.window ∧ g.resizing = [] then .next (moved s r Path.advance (s.setGroup r.group { g with q := setBit g.q q.toNat true }))
        else .next (moved s r (fun p => { p.park .flagwait (.regrow q.toNat x.toNat) with age := readyAge s.clock })
          (s.keepFreed r.group id))) ∧
      exec (.regfree a) s = .next (moved s r (fun p => if g.window ≤ x.toNat ∧ g.resizing = [] then p.advance
        else { p.park .flagwait (.regfree x.toNat) with age := readyAge s.clock }) s)) ∧
    (∀ desc : Reorder, g.isHandler = false → (s.team g.team).reorder = some desc → isV g a = true → isV g b = true →
      (desc.n = 0 ∨ b.toNat + desc.n ≤ g.window) → Ready s r ((readsRun a 1).and (readsRun b desc.n)) →
      (s.active r).length + (s.core (coreOf r.group)).glade.length ≤ 4096 →
      exec (.reorder a b) s = .next (wentBy s r (fun q => if s.active r = [] then q.advance
        else q.park .flagwait (.reorder a.toNat b.toNat (maskOf (s.active r)))) s)) ∧
    (s.reserve g.ctx 1 g.isHandler = some t →
      let u := (t.logIrrev (t.writer r.group p.lowLane) 4)
      let off := (g.sreg (sNum b)).toNat
      exec .markdone s = .next (went t r (noReturn (u.publish g.team) .markdone)) ∧
      (isS a = true → isS b = true → SFree g [sNum a, sNum b] [] → s.queueOk x.toNat g.ctx = true → g.isHandler = false →
        off % 16 = 0 → off + 128 ≤ (s.team g.team).scratch → s.poisoned (.pad g.team off) 128 = false →
        exec (.launch a b) s = .next (went t r (noReturn
          (((t.saw r [(.pad g.team off, 128)]).logIrrev (t.writer r.group p.lowLane) 4).publish g.team)
          (.packets x.toNat [t.bytesAt (.pad g.team off) 128])))))

/-- R180, R181, R243, R291 to R294: the frozen-state instructions of a handler with capability h over group f. FRD reads, and FWR
writes, a register, predicates or barrier marks of the active lanes that are frozen, the others skipped, or a uniform register, PC, CLHDR,
mask or mode of the frozen entry once; FRD alone reads wait flags and fault addresses; FRESUME resumes and FKILL ends frozen lanes that
the capability reaches, and a lane beyond it makes either a HANDLER-FAULT; FSTEP steps lanes of one entry and waits; ESCALATE gives the
stop to the management core. The model's own: the order of the checks: log 26, log 27. -/
def Obligations.HandlerResults : Prop :=
  ∀ (s : State) (r : PathRef) (d a : BitVec 8) (h : HCap),
    let g := s.group r.group
    let p := s.path r
    let f := s.group h.group
    let e := f.path h.path
    let m : BitVec 32 := g.sreg (sNum a)
    let wrote (u : State) : Res := .next (went s r u)
    let entry (act : Path → Path) : Res := wrote (s.updPath ⟨h.group, h.path⟩ act)
    g.hcap = some h → s.capValid h = true → s.holdsGroup h = true →
    (Issuing s r →
      (∀ i : BitVec 8, i.toNat < 128 → isS d = true →
        (SFree g [] [sNum d] → bit f.sPend i.toNat = false → exec (.frd d 1 i) s =
          wrote (s.setGroup r.group (g.setSreg (sNum d) (f.sreg i.toNat) (bit f.sPoison i.toNat)))) ∧
        (SFree g [sNum d] [] → exec (.fwr d 1 i) s =
          wrote ((s.disown h.group [.sreg i.toNat 0 false]).updGroup h.group fun f =>
            { f.setSreg i.toNat (g.sreg (sNum d)) with sPend := setBit f.sPend i.toNat false })) ∧
        (i.toNat ≤ 11 → SFree g [] [sNum d] →
          exec (.frd d 6 i) s = wrote (s.setGroup r.group (g.setSreg (sNum d) ((f.flag i.toNat).setWidth 32))))) ∧
      (e.state = .frozen → e.heldSince h.given = true →
        (isSPair d = true →
          (SFree g [] [sNum d, sNum d + 1] →
            exec (.frd d 3 0) s = wrote (s.setGroup r.group (g.setSpair (sNum d) e.pc)) ∧
            exec (.frd d 3 1) s = wrote (s.setGroup r.group (g.setSpair (sNum d) e.clhdr))) ∧
          (SFree g [sNum d, sNum d + 1] [] → (g.spair (sNum d)).toNat < 2 ^ 55 → (g.spair (sNum d)).toNat % 4 = 0 →
            exec (.fwr d 3 0) s = entry (fun e => { e with clause := none, wait := .nothing, pc := g.spair (sNum d) }) ∧
            exec (.fwr d 3 1) s = entry fun e => { e with clause := none, wait := .nothing, clhdr := g.spair (sNum d) })) ∧
        (isS d = true →
          (SFree g [] [sNum d] →
            exec (.frd d 4 0) s = wrote (s.setGroup r.group (g.setSreg (sNum d) e.mask)) ∧
            exec (.frd d 5 0) s = wrote (s.setGroup r.group (g.setSreg (sNum d) e.mode))) ∧
          (SFree g [sNum d] [] →
            (modeLegal (g.sreg (sNum d)) = true → exec (.fwr d 5 0) s = entry fun e => { e with mode := g.sreg (sNum d) }) ∧
            (let x : BitVec 32 := g.sreg (sNum d)
             x ≠ 0#32 → x &&& ~~~e.mask = 0#32 → exec (.fwr d 4 0) s = wrote (s.updGroup h.group fun f =>
              if x = e.mask then f
              else (f.setPath h.path { e with mask := e.mask &&& x }).setPath f.emptyEntry { e with mask := e.mask &&& ~~~x })))))) ∧
    (let frozen : List Nat := (s.active r).filter fun l => bit (h.mask &&& f.frozenLanes h.given) l
     let ready (u : Uses) : Prop := Issuing s r ∧ (∀ l ∈ lanesOf p.mask, p.guardPending (g.lane l) = false) ∧
       ∀ l ∈ frozen, p.guardPoisoned (g.lane l) = false ∧ u.hazard g (g.lane l) = false ∧ u.poison g (g.lane l) = false
     let reads (i : Instr) (value : Lane → Lane → Lane) : Prop :=
       exec i s = wrote (frozen.foldl (fun u l => u.onLanes r.group [l] fun _ ln => value (f.lane l) ln) s)
     let writes (i : Instr) (dests : Nat → List Dest) (value : Nat → Lane → Lane) : Prop :=
       exec i s = wrote (frozen.foldl (fun u l => (u.disown h.group (dests l)).onLanes h.group [l] fun _ ln => value l ln) s)
     let v (l : Nat) : Word := (g.lane l).reg d.toNat
     isV g d = true →
     (∀ i : BitVec 8, i.toNat < 128 → i.toNat < f.window →
       (ready (writesRun d 1) → (∀ l ∈ frozen, bit (f.lane l).vPend i.toNat = false) →
         reads (.frd d 0 i) fun x ln => ln.setReg d.toNat (x.reg i.toNat) (bit x.vPoison i.toNat)) ∧
       (ready (readsRun d 1) → writes (.fwr d 0 i) (fun l => [.vreg l i.toNat 0 false]) fun l ln =>
         { ln.setReg i.toNat (v l) with vPend := setBit ln.vPend i.toNat false })) ∧
     (ready (writesRun d 1) → reads (.frd d 2 0) fun x ln => ln.setReg d.toNat ((x.p ||| 1#8).setWidth 32)) ∧
     (ready (readsRun d 1) → writes (.fwr d 2 0) (fun l => (List.range 7).map fun n => .pred l (n + 1) false false) fun l ln =>
       { ln with p := (v l).setWidth 8 ||| 1#8, pPend := 0, pPoison := 0 }) ∧
     (∀ i : BitVec 8, i.toNat ≤ 17 →
       (ready (writesRun d 1) → reads (.frd d 7 i) fun x ln => ln.setReg d.toNat ((tget 0 x.marks i.toNat).setWidth 32)) ∧
       (ready (readsRun d 1) → (∀ l ∈ frozen, v l = 1#32 ∨ v l = 2#32) →
         exec (.fwr d 7 i) s = wrote (frozen.foldl (fun u l => u.onLanes h.group [l] fun _ ln =>
           { ln with marks := tset 0 ln.marks i.toNat ((v l).setWidth 2) }) s))) ∧
     (isVPair g d = true → ready (writesRun d 2) → reads (.frd d 8 0) fun x ln => ln.setPair d.toNat x.faultAddr)) ∧
    (Issuing s r → isS a = true → SFree g [sNum a] [] →
      (m &&& ~~~(s.named h) = 0#32 →
        exec (.fresume a) s = wrote ((s.reach h).foldl (fun (u : State) e => u.updGroup e.1 fun f =>
          f.resumeLanes (m &&& e.2 &&& f.frozenLanes h.given) h.given u.clock) s) ∧
        exec (.fkill a) s = wrote ((s.reach h).foldl (fun (u : State) e => u.updGroup e.1 fun f =>
          f.exitLanes (m &&& e.2 &&& f.frozenLanes h.given)) s)) ∧
      (m &&& ~~~(s.named h) ≠ 0#32 →
        exec (.fresume a) s = .next (s.stopAll r p .handlerFault) ∧ exec (.fkill a) s = .next (s.stopAll r p .handlerFault)) ∧
      (∀ i : Nat, m &&& ~~~h.mask = 0#32 → m ≠ 0#32 → f.frozenEntry m h.given = some i → h.group ≠ r.group →
        exec (.fstep a) s = .next (wentBy (s.updGroup h.group fun f => f.beginStep i m .stop) r (fun q => q.park .flagwait (.fstep m))
          (s.updGroup h.group fun f => f.beginStep i m .stop)))) ∧
    (Issuing s r → exec .escalate s = .next (s.escalate g.ctx (some h) (some r.group) 1))


/-! Writes from outside, and the commands of the mailbox and the debugger. -/

/-- R7, R39, R46, R95, R100, R126, R156 to R158, R185, R188, R211, R245, R246, R259, R326: the events of register writes. A value
that the register's own rule rejects changes nothing, or sets ERR of a queue; any other is taken. The model's own: writes of
parts: log 35. -/
def Obligations.RegisterWriteEvents : Prop :=
  ∀ s : State,
    let e := s.ev
    let v : Word := loWord e.v
    let x := s.queue e.a
    let queue (f : Queue → Queue) : Res := .next (s.updQueue e.a f)
    let err : Res := queue fun x => { x with err := true }
    (e.a ≤ 63 →
      (e.b = 0 → exec .qbaseWrite s = if e.v.toNat % 4096 = 0 ∧ (bit x.ctl 31 = true → e.v = x.base)
        then queue fun x => { x with base := e.v } else err) ∧
      (e.b = 1 → exec .qbaseWrite s = queue fun x => { x with baseLo := v }) ∧
      (e.b = 2 → exec .qbaseWrite s = if (dword x.baseLo v).toNat % 4096 = 0 ∧ (bit x.ctl 31 = true → dword x.baseLo v = x.base)
        then queue fun y => { y with base := dword x.baseLo v } else err) ∧
      (exec .qctlWrite s = if fld v 26 24 = 0 ∧ fld v 15 5 = 0 ∧ 4 ≤ fld v 4 0 ∧ fld v 4 0 ≤ 16 ∧
          (bit x.ctl 31 = true → fld v 30 30 = fld x.ctl 30 30 ∧ fld v 4 0 = fld x.ctl 4 0)
        then queue fun x => { x with ctl := v } else err) ∧
      (exec .qctxWrite s = if v.toNat < 4096 ∧ (bit x.ctl 31 = true → v = x.ctx)
        then queue fun x => { x with ctx := v } else err) ∧
      (exec .qtailWrite s = if s.host.stage ≠ 0 ∧ bit x.ctl 30 = false ∧
          (v - x.tail).toNat + (x.tail - x.head).toNat ≤ 2 ^ fld x.ctl 4 0
        then queue fun x => { x with tail := v } else err)) ∧
    (exec .wdogWrite s = if 20 ≤ v.toNat ∧ v.toNat ≤ 40 then .next (s.updCore e.a fun c => { c with wdog := v }) else .next s) ∧
    (exec .prethWrite s = if 10 ≤ v.toNat ∧ v.toNat ≤ 40 then .next (s.updCore e.a fun c => { c with preth := v }) else .next s) ∧
    (exec .profcfgWrite s = if fld v 30 13 = 0 ∧ fld v 7 5 = 0 ∧ 10 ≤ fld v 12 8 ∧ fld v 12 8 ≤ 24 ∧ 6 ≤ fld v 4 0 ∧ fld v 4 0 ≤ 20
      then .next (s.updCore e.a fun c => { c with profcfg := v }) else .next s) ∧
    (let legal (k : Nat) : Prop := k = 0 ∨ (10 ≤ k ∧ k ≤ 40)
     (bit v 1 = false ∧ legal (fld v 7 2) ∧ legal (fld v 13 8) ∧ legal (fld v 19 14) ∧ legal (fld v 25 20) ∧ legal (fld v 31 26) →
       exec .fltcfgWrite s = .next (s.updCtx e.a fun c => { c with fltcfg := v })) ∧
     ((bit v 1 = true ∨ ¬ legal (fld v 31 26)) → exec .fltcfgWrite s = .next s)) ∧
    (exec .poolmarkWrite s = if fld v 15 0 ≤ fld v 31 16 then .next { s with poolmark := v } else .next s) ∧
    (exec .tkbaseWrite s = if bit (s.ctx e.a).tkcfg 31 = true ∧ v ≠ (s.ctx e.a).tkbase then .next s
      else .next (s.updCtx e.a fun c => { c with tkbase := v })) ∧
    (fld v 29 5 = 0 → 10 ≤ fld v 4 0 → fld v 4 0 ≤ 20 → bit (s.ctx e.a).tkcfg 31 = false →
      (bit v 31 = false → exec .tkcfgWrite s = .next (s.updCtx e.a fun c => { c with tkcfg := v })) ∧
      (bit v 31 = true → (∀ i : Nat, i < 2 ^ fld v 4 0 → s.tkHeld e.a i = false) →
        exec .tkcfgWrite s = .next ((s.zeroDev ((s.ctx e.a).tkbase.toNat * 65536) (128 * 2 ^ fld v 4 0)).updCtx e.a fun c =>
          { c with tkcfg := v }))) ∧
    (fld v 29 5 ≠ 0 ∨ fld v 4 0 < 10 ∨ 20 < fld v 4 0 → exec .tkcfgWrite s = .next s) ∧
    (exec .roleWrite s = if v.toNat ≤ 7 then .next (s.updGroup e.a fun g => { g with role := v.setWidth 3 }) else .next s) ∧
    (exec .progressWrite s = .next (s.updTeam e.a fun x =>
      { x with progress := if v = 0 then 0 else x.cyclesResident + v.toNat })) ∧
    (exec .fpstatWrite s = if v.toNat < 32
      then .next (s.onLanes e.a [e.b] fun _ ln => { ln with fpstat := v.setWidth 5 }) else .next s) ∧
    (∀ q : Nat, q ≤ 63 → e.a = 0x10000 + 32 * q + 16 → e.b = 4 → e.data = [] →
      exec .registerWrite s = .next (s.updQueue q fun x => { x with err := true })) ∧
    (0x1000 ≤ e.a → e.a + e.data.length ≤ 0x2000 → e.data ≠ [] →
      exec .registerWrite s = .next (s.updHost fun h => h.setBuf (e.a - 0x1000) e.data)) ∧
    (e.a = 0x108 → e.b = 4 → exec .registerWrite s = .next (s.updHost fun h => { h with evcfg := v &&& 0x800007FF#32 })) ∧
    (e.a = 0x100 → e.b = 4 → s.host.busy = false → s.host.booted = true → fld v 15 8 = 0 →
      exec .registerWrite s = .next (
        let u := s.updHost fun h => { h with mbcmd := v, busy := true }
        match u.host.command with
        | some i => u.post i
        | none => u.updHost fun h => { h with busy := false, status := 1, operands := none, tlbAfter := none })) ∧
    (e.a = 0x100 → e.b = 4 → s.host.busy = true → exec .registerWrite s = .next s)

/-- R184, R188, R262 to R270: the mailbox. A command in progress whose stage is reached, whose unnamed bytes are zero and whose
operands are legal takes its effect and ends with status 0; where its effect is a refusal it ends with the status that the
command gives. The effect names what it does in the state: keys, seals, records, registers, the pool, the object region, an
image. The model's own: edge values and images: log 32, log 35; how ANSWER brings saved teams home, and what CTXKILL covers: log 50;
the free scalars of an attestation signature: log 7; the operands that a waiting command keeps: log 35. -/
def Obligations.MailboxResults : Prop :=
  ∀ s t : State,
    let h := s.host
    let ctx := h.cmdCtx
    let n (off size : Nat) : Nat := h.num off size
    let runs (i : Instr) (stage : Nat) (named : List (Nat × Nat)) (ok : Prop) (u : State) : Prop :=
      h.command = some i → stage ≤ h.stage → h.unnamedZero named = true → ctx ≤ 4095 → ok → exec i s = .next u
    let ended (u : State) (status : Nat) : State := u.updHost fun h =>
      { h with busy := false, status := BitVec.ofNat 8 status, operands := none, tlbAfter := none }
    let waits (u : State) : State := u.updHost fun h => { h with operands := some h.given }
    let gave (u : State) (off : Nat) (bytes : List Byte) : State := ended (u.updHost fun h => h.setBuf off bytes) 0
    let onCtx (f : Ctx → Ctx) : State := s.updCtx ctx f
    (runs .ident 0 [] True (gave s 0 identityKey)) ∧
    (let r := s.report ctx (h.buf 0 32)
     let sig := identitySignature (sha256 r) s.free
     runs .attest 0 [(0, 32)] True { gave s 0 (r ++ sig) with free := s.free + 1 }) ∧
    (runs .keyset 1 [(0, 1), (8, 32)] (n 0 1 ≤ 3)
      (ended (onCtx fun c => { c with keys := tset 0 c.keys (n 0 1) (BitVec.ofNat 256 (n 8 32)) }) 0)) ∧
    (runs .signonly 1 [(0, 1)] (n 0 1 ≤ 1) (ended (onCtx fun c => { c with signonly := n 0 1 == 1 }) 0)) ∧
    (n 0 8 < 2 ^ 55 → n 8 8 ≤ 2 ^ 32 → n 16 8 < 2 ^ 55 →
      let v := s.verifySeal ctx (BitVec.ofNat 64 (n 0 8)) (BitVec.ofNat 64 (n 16 8)) (n 8 8)
      (∀ x : Seal, runs .seal 1 [(0, 24)] (v = (t, some x)) (ended (({ t with
        sealed := x.frames.foldl (fun p f => tset false p f true) t.sealed } : State).updCtx ctx fun c =>
          { c with seals := c.seals ++ [x] }) 0)) ∧
      runs .seal 1 [(0, 24)] (v = (t, none)) (ended t 3)) ∧
    (runs .unseal 1 [(0, 8)] (∃ x ∈ (s.ctx ctx).seals, x.load.toNat = n 0 8)
      (ended (onCtx fun c => { c with seals := c.seals.filter fun x => x.load.toNat != n 0 8 }).resealed 0)) ∧
    (∀ (r : List Byte) (rest : List (List Byte)), runs .event 1 [] (h.events = r :: rest)
      (gave { s with host := { h with events := rest, lost := 0 }.refill } 0 (patch r 1 (bytesOfNat 1 h.lost)))) ∧
    (runs .event 1 [] (h.events = [])
      (gave { s with host := { h with lost := 0 } } 0 (patch (List.replicate 64 0) 1 (bytesOfNat 1 h.lost)))) ∧
    (∀ x : Escal, (s.ctx ctx).escal = some x →
      runs .answer 1 [(0, 1)] (n 0 1 = 0) (ended (
        let back := (s.unsuspend (s.ctxGroups ctx) .management).resumeStops x.stops
        let routed := (back.ctxGroups ctx).foldl (fun (u : State) k =>
          if (u.group k).isHandler then (u.group k).entries.foldl (fun (u : State) e =>
            if u.isStop k e.1 then u.post .handlerSpawn { a := k, b := e.1 } else u) u
          else u) back
        (routed.updCtx ctx fun c => { c with
          escal := none, saving := c.saving.filter (·.mailbox), resuming := c.resuming ++ x.stops.filter fun y => c.homing.contains y.1 }).placeHoming ctx) 0) ∧
      runs .answer 1 [(0, 1)] (n 0 1 = 1) (ended (s.killWhole ctx).1 0)) ∧
    (runs .ctxkill 1 [] True (gave (s.killWhole ctx).1 0 (bytesOfNat 4 (s.killWhole ctx).2))) ∧
    (let b := n 4 4
     let named := [(0, 1), (2, 2), (4, 4), (8, 8)]
     (runs .ctxregRead 1 named (selScope b = some 0 ∧ n 2 2 = 0) (gave s 0 (bytesOfNat 8 ((s.ctx ctx).special b).toNat))) ∧
     (runs .ctxregRead 1 named (selScope b = some 1 ∧ n 2 2 < 96) (gave s 0 (bytesOfNat 8 (s.coreSpecial (n 2 2) b).toNat))) ∧
     (runs .ctxregRead 1 named (selScope b = some 2 ∧ n 2 2 = 0) (gave s 0 (bytesOfNat 8 (s.coreSpecial 0 b).toNat))) ∧
     (n 0 1 = 1 → (selScope b = some 0 ∨ selScope b = some 2) → n 2 2 = 0 →
       let v : Word := BitVec.ofNat 32 (n 8 4)
       runs .ctxregWrite 1 named (s.hostReg ctx 0 b v = some t) (ended t 0) ∧
       runs .ctxregWrite 1 named (s.hostReg ctx 0 b v = none) (ended s 1)) ∧
     (n 0 1 = 1 → selScope b = some 1 → n 2 2 < 96 →
       runs .ctxregWrite 1 named (s.hostReg ctx (n 2 2) b (BitVec.ofNat 32 (n 8 4)) = some t) (ended t 0))) ∧
    (let named := [(0, 1), (8, 8), (16, 4)]
     let legal : Prop := ((n 0 1 = 1 ∨ n 0 1 = 3) ∧ n 8 8 = 0 ∧ n 16 4 = 0) ∨
       ((n 0 1 = 0 ∨ n 0 1 = 2) ∧ n 8 8 < 2 ^ 55 ∧ 0 < n 16 4 ∧ n 8 8 / 65536 + n 16 4 ≤ 2 ^ 39)
     let range := if n 0 1 % 2 = 1 then none else some (n 8 8 / 65536, n 16 4)
     runs .mailboxTlbinv 1 named (legal ∧ h.tlbAfter = none)
       ((s.invalidate ctx range (n 0 1 ≥ 2)).updHost fun h => { h with tlbAfter := some s.nextOp, operands := some h.given }) ∧
     (∀ k : Nat, h.tlbAfter = some k →
       runs .mailboxTlbinv 1 named (legal ∧ s.accessing k ctx (n 0 1 ≥ 2) = true) (waits s) ∧
       runs .mailboxTlbinv 1 named (legal ∧ s.accessing k ctx (n 0 1 ≥ 2) = false) (ended s 0))) ∧
    ((∀ x : Saving, (s.ctx ctx).saving = some x → x.mailbox = false) → n 0 8 % 65536 = 0 → n 0 8 + n 8 8 ≤ deviceFrames * 65536 →
      (∀ i : Nat, i < min ((n 8 8 + 65535) / 65536) 12 → s.frameUsable (n 0 8 / 65536 + i) = true) →
      let plan := s.preemptPlan ctx
      runs .preempt 1 [(0, 16)] (s.planSize plan ≤ n 8 8) (plan.foldl
        (fun (u : State) e => if e.2 = 0 then u.updTeam e.1 fun x => { x with drain := some 0 }
          else if e.2 = 2 then u.holdTeam e.1 else u)
        (onCtx fun c => { c with suspended := true, saveArea := some (n 0 8, n 8 8),
                                 saving := some { waiting := plan, mailbox := true } }))) ∧
    (let go (u : State) : State := if n 8 1 = 1 then u.updCtx ctx fun c => { c with suspended := false } else u
     let named := [(0, 9)]
     (runs .restore 1 named (n 0 8 = 0 ∧ n 8 1 = 1) (gave (go s) 0 [0])) ∧
     (n 8 1 ≤ 1 → n 0 8 ≠ 0 →
       (∀ k : Nat, runs .restore 1 named (s.restoreStatus ctx (n 0 8) = (k, none)) (gave s 0 (bytesOfNat 1 k))) ∧
       (∀ im : Image, s.restoreStatus ctx (n 0 8) = (0, some im) →
         runs .restore 1 named (s.restoreSaved im = some t) (gave (go t) 0 [0]) ∧
         runs .restore 1 named (s.restoreSaved im = none) (gave s 0 [4])))) ∧
    (let f := n 0 4
     let k := n 4 4
     let u : State := { s with pool := s.pool ++ [(f, k)] }
     runs .pooladd 1 [(0, 8)]
       (1 ≤ k ∧ k ≤ 2 ^ 24 ∧ f + k ≤ deviceFrames ∧ (∀ i : Nat, i < min k 12 → s.frameUsable (f + i) = true) ∧
         ∀ e ∈ s.pool, f + k ≤ e.1 ∨ e.1 + e.2 ≤ f)
       (gave u 0 (bytesOfNat 4 u.poolFree))) ∧
    (runs .objregion 1 [(0, 16)]
      (n 0 8 < 2 ^ 55 ∧ n 0 8 % 65536 = 0 ∧ n 8 8 % 65536 = 0 ∧ n 8 8 ≤ 2 ^ 54 ∧
        ∀ r ∈ (s.ctx ctx).ranges, (s.obj ctx r.2.2).alive = false)
      (ended (onCtx fun c => { c with objBase := BitVec.ofNat 64 (n 0 8), objSize := BitVec.ofNat 64 (n 8 8) }) 0)) ∧
    (∀ i : Instr, i = .keyset ∨ i = .seal ∨ i = .unseal ∨ i = .signonly ∨ i = .event ∨ i = .answer ∨ i = .ctxregRead ∨
      i = .ctxregWrite ∨ i = .mailboxTlbinv ∨ i = .pooladd ∨ i = .objregion ∨ i = .ctxkill ∨ i = .restore →
      h.command = some i → h.stage = 0 → exec i s = .next (ended s 2))

/-- R199, R202, R204, R205, R208, R209, R266, R356: the debugger's commands. On an attached context, with legal operands, ATTACH
and DETACH change the attachment, SETREG writes a debug register, FREEZE freezes without a cause code, RESUME and STEP act on
an entry that the debugger froze, WINDOW opens a context-wide window, READ and WRITE reach frozen state, MEMREAD and MEMWRITE
memory, and REWIND and RSTEP end with the status word of the rewind. The model's own: what FREEZE and RSTEP cover: log 22, log
23. -/
def Obligations.BoroiviResults : Prop :=
  ∀ (s t : State) (r : PathRef) (k e : Nat),
    let h := s.host
    let ctx := h.cmdCtx
    let c := s.ctx ctx
    let n (off size : Nat) : Nat := h.num off size
    let runs (i : Instr) (named : List (Nat × Nat)) (ok : Prop) (u : State) : Prop :=
      h.command = some i → 1 ≤ h.stage → h.unnamedZero named = true → ctx ≤ 4095 → ok → exec i s = .next u
    let ended (u : State) (status : Nat) : State := u.updHost fun h =>
      { h with busy := false, status := BitVec.ofNat 8 status, operands := none, tlbAfter := none }
    let waits (u : State) : State := u.updHost fun h => { h with operands := some h.given }
    let gave (u : State) (off : Nat) (bytes : List Byte) : State := ended (u.updHost fun h => h.setBuf off bytes) 0
    let onCtx (f : Ctx → Ctx) : State := s.updCtx ctx f
    (runs .attach [] (c.attached = false) (ended (onCtx fun c => { c with attached := true }) 0)) ∧
    (c.attached = true →
      (let off (x : Tbl Word) : Tbl Word := x.map fun e => (e.1, e.2 &&& 0x7FFFFFFF#32)
       let u := (s.ctxGroups ctx).foldl (fun (u : State) k => u.updGroup k (·.undebug u.clock)) s
       runs .detach [] True (ended (u.updCtx ctx fun c => { c.mapImages (fun _ g => g.undebug u.clock) with
         bpctl := off c.bpctl, wpctl := off c.wpctl, rstep := none, attached := false }) 0)) ∧
      (let v : DWord := BitVec.ofNat 64 (n 8 8)
       let sets (kind : Nat) (ok : Prop) (f : Ctx → Ctx) : Prop :=
         runs .setreg [(0, 2), (8, 8)] (n 0 1 = kind ∧ n 1 1 ≤ 15 ∧ ok) (ended (onCtx f) 0)
       let i := n 1 1
       sets 0 (fld v 63 55 = 0 ∧ fld v 1 0 = 0) (fun c => { c with bpaddr := tput c.bpaddr i v }) ∧
       sets 1 (fld v 18 0 = 0) (fun c => { c with bpctl := tput c.bpctl i (loWord v) }) ∧
       sets 2 (fld v 31 22 = 0) (fun c => { c with bptid := tput c.bptid i (loWord v) }) ∧
       sets 3 True (fun c => { c with bpmask := tput c.bpmask i (loWord v) }) ∧
       sets 4 (v.toNat % 2 ^ fld (tget 0#32 c.wpctl i) 16 12 = 0) (fun c => { c with wpaddr := tput c.wpaddr i v }) ∧
       sets 5 (fld v 11 0 = 0 ∧ fld v 16 12 ≤ 16) (fun c => { c with wpctl := tput c.wpctl i (loWord v) }) ∧
       sets 6 (fld v 31 22 = 0) (fun c => { c with wptid := tput c.wptid i (loWord v) }) ∧
       sets 7 True (fun c => { c with wpmask := tput c.wpmask i (loWord v) })) ∧
      (runs .freeze [(0, 1), (4, 6)] (n 0 1 = 0) (ended ((s.suspend (s.ctxGroups ctx) .debugger).updCtx ctx fun c =>
        c.mapImages fun _ g => g.mapPaths (·.suspend .debugger s.clock)) 0)) ∧
      (runs .freeze [(0, 1), (4, 6)] (n 0 1 = 2 ∧ s.namedPath ctx = some r) (ended (s.updPath r (·.suspend .debugger s.clock)) 0)) ∧
      (runs .resume [(4, 6), (12, 4)] (s.debugFrozen ctx = some r ∧ h.mask &&& ~~~(s.path r).mask = 0#32)
        (let g := s.group r.group
         let p := g.path r.path
         let m := p.mask &&& h.mask
         let free := { p with dbgHeld := false }
         let u := s.setGroup r.group (if p.freezer = .debugger then g.resume r.path h.mask s.clock
           else if m = 0#32 then g
           else if m = p.mask then g.setPath r.path free
           else (g.setPath r.path { p with mask := p.mask &&& ~~~m }).setPath g.emptyEntry { free with mask := m })
         ended (if s.isStop r.group r.path && u.isStop r.group g.emptyEntry
           then u.post .handlerSpawn { a := r.group, b := g.emptyEntry } else u) 0)) ∧
      (runs .step [(4, 6)] (s.steppable ctx = some r)
        (ended (s.updGroup r.group fun g => g.beginStep r.path (g.path r.path).mask .debugger) 0)) ∧
      (let x := s.replayOf ctx k
       (∀ w : Word, s.rewind ctx (some x.team) none (BitVec.ofNat 32 (n 16 4)) false = (t, some w) →
         runs .rstep [(4, 5), (12, 12)] (s.namedGroup ctx = some k ∧ s.rstepOk ctx = true)
           (if fld w 7 0 = 0 then gave (t.beginReplay ctx ((t.groupAt x.team x.gid).getD k) x) 0 (bytesOfNat 4 0)
            else gave t 0 (bytesOfNat 4 w.toNat))) ∧
         (s.rewind ctx (some x.team) none (BitVec.ofNat 32 (n 16 4)) false = (t, none) →
           runs .rstep [(4, 5), (12, 12)] (s.namedGroup ctx = some k ∧ s.rstepOk ctx = true) (waits t))) ∧
      (let u := s.suspend (s.ctxGroups ctx) .management
       u.quiet (u.ctxTeams ctx) = true →
         let no := (u.ctx ctx).nextWin
         let ims := u.liveImages ctx no.toNat
         u.reserve ctx (1 + ims.foldl (fun a i => a + i.pieces) 0) = some t →
         (runs .boroiviWindow [] ((t.ctx ctx).logging = true)
           (gave ((((t.updLog ctx fun c => c.openWindow 0 3).snapshotAll ctx ims)).thaw ctx) 0 (bytesOfNat 4 no.toNat))) ∧
         (runs .boroiviWindow [] ((t.ctx ctx).logging = false) (gave (t.thaw ctx) 0 (bytesOfNat 4 0xFFFFFFFF)))) ∧
      (let u := s.suspend (s.ctxGroups ctx) .management
       runs .boroiviWindow [] (u.quiet (u.ctxTeams ctx) = false) (waits u)) ∧
      (let cls := n 9 1
       let i := n 10 1
       let g := s.group k
       let m := h.mask
       s.frozenArgs ctx = some (k, e) →
         let reads (ok : Prop) (u : State) : Prop := runs .read [(4, 7), (12, 4)] ok u
         let lanes (value : Lane → List Byte) : State :=
           (lanesOf m).foldl (fun (u : State) l => u.updHost fun h => h.setBuf (64 + 8 * l) (value (g.lane l))) s
         (reads (cls = 0 ∧ ∀ l ∈ lanesOf m, bit (g.lane l).vPend i = false)
           (ended (lanes fun ln => bytesOfNat 4 (ln.reg i).toNat) 0)) ∧
         (reads (cls = 2) (ended (lanes fun ln => bytesOfNat 4 ((ln.p ||| 1#8).setWidth 32 : Word).toNat) 0)) ∧
         (reads (cls = 8) (ended (lanes fun ln => bytesOfNat 8 ln.faultAddr.toNat) 0)) ∧
         (reads (cls = 7) (ended (lanes fun ln => bytesOfNat 4 (tget 0 ln.marks i).toNat) 0)) ∧
         (reads (cls = 1 ∧ bit g.sPend i = false) (gave s 64 (bytesOfNat 8 (g.sreg i).toNat))) ∧
         (reads (cls = 3 ∧ i = 0) (gave s 64 (bytesOfNat 8 (g.path e).pc.toNat))) ∧
         (reads (cls = 3 ∧ i = 1) (gave s 64 (bytesOfNat 8 (g.path e).clhdr.toNat))) ∧
         (reads (cls = 4) (gave s 64 (bytesOfNat 8 (g.path e).mask.toNat))) ∧
         (reads (cls = 5) (gave s 64 (bytesOfNat 8 (g.path e).mode.toNat))) ∧
         (reads (cls = 6) (gave s 64 (bytesOfNat 8 (g.flag i).toNat))) ∧
         (let writes (ok : Prop) (u : State) : Prop := runs .write [(4, 7), (12, 4)] ok (ended u 0)
          let value (l : Nat) : DWord := BitVec.ofNat 64 (n (64 + 8 * l) 4)
          let whole : DWord := BitVec.ofNat 64 (n 64 8)
          let first : DWord := BitVec.ofNat 64 (n 64 4)
          (writes (cls = 0) ((lanesOf m).foldl (fun (u : State) l =>
            (u.disown k [.vreg l i 0 false]).onLanes k [l] fun _ ln =>
              { ln.setReg i (loWord (value l)) with vPend := setBit ln.vPend i false }) s)) ∧
          (writes (cls = 1) ((s.disown k [.sreg i 0 false]).updGroup k fun f =>
            { f.setSreg i (loWord first) with sPend := setBit f.sPend i false })) ∧
          (writes (cls = 3 ∧ i = 0 ∧ fld whole 63 55 = 0 ∧ fld whole 1 0 = 0)
            (s.updPath ⟨k, e⟩ fun p => { p with clause := none, wait := .nothing, pc := whole })) ∧
          (writes (cls = 3 ∧ i = 1 ∧ fld whole 63 55 = 0 ∧ fld whole 1 0 = 0)
            (s.updPath ⟨k, e⟩ fun p => { p with clause := none, wait := .nothing, clhdr := whole })) ∧
          (runs .write [(4, 7), (12, 4)] (cls = 6 ∨ cls = 8) (ended s 1)) ∧
          (writes (cls = 5 ∧ modeLegal (loWord first) = true) (s.updPath ⟨k, e⟩ fun p => { p with mode := loWord first })))) ∧
      (let f := n 0 1
       ∀ w : Word, let word : Word := BitVec.ofNat 32 (n 16 4)
         let named := [(0, 1), (4, 4), (16, 4)]
         let held (w : Word) (ks : List Nat) : State := if fld w 7 0 = 0 ∨ fld w 7 0 = 7 then t.toDebugger ks else t
         let x := teamKey ctx h.tid
         (s.rewind ctx (some x) none word (f == 1) = (t, some w) → runs .boroiviRewind named
           (f ≤ 1 ∧ h.tid < 4194304 ∧ (s.team x).stage ≠ .none ∧ (s.team x).stage ≠ .saved)
           (gave (held w (t.teamGroups x)) 0 (bytesOfNat 4 w.toNat))) ∧
         (s.rewind ctx (some x) none word (f == 1) = (t, none) → runs .boroiviRewind named
           (f ≤ 1 ∧ h.tid < 4194304 ∧ (s.team x).stage ≠ .none ∧ (s.team x).stage ≠ .saved) (waits t)) ∧
         (s.rewind ctx none none word (f == 3) = (t, some w) → runs .boroiviRewind named
           ((f = 2 ∨ f = 3) ∧ h.tid = 0) (gave (held w (t.ctxGroups ctx)) 0 (bytesOfNat 4 w.toNat)))) ∧
      (n 0 8 < 2 ^ 63 → 1 ≤ n 8 4 → n 8 4 ≤ 3072 →
        (∀ segs : List (Loc × Nat), runs .memread [(0, 12)]
          (s.readRegion (distributor ctx) 1 (BitVec.ofNat 64 (n 0 8)) (n 8 4) = (t, .ok segs))
          (gave t 1024 (t.segBytes segs))) ∧
        (∀ ls : List Loc, runs .memwrite [(0, 12)]
          (State.hostPlaces ctx (n 8 4) (BitVec.ofNat 64 (n 0 8)) s = (t, some ls))
          (ended ((ls.zip (t.host.buf 1024 (t.host.num 8 4))).foldl (fun (u : State) e => u.hostPut e.1 e.2) t) 0))))

/-! The device's own events. -/

/-- R36, R37, R38, R41 to R45, R56, R153, R287, R354: what happens to single paths and groups. A yielded path goes on when its
flag is zero, a path at MWAIT wakes, a path that has waited 64 eligible cycles is promoted; a REGROW is granted or refused, a
REGFREE shrinks the window, REORDER deposits lanes in the Glade and the Glade relaunches them; a COMPACT releases its team;
the watchdog stops a team without progress; an operation completes, and a group with nothing left retires. The model's own:
clocks: log 2; blocked groups and the request that is refused: log 63; the freed units that a partition keeps for its requests, and
which of a group's requests is served: log 66; the end of a team at its last group's: log 13; the watchdog's stop that waits for
the pending queue: log 64; what COMPACT leaves as it is: log 47. -/
def Obligations.PathEvents : Prop :=
  ∀ s : State,
    let e := s.ev
    let k := e.a
    let i := e.b
    let g := s.group k
    let p := g.path i
    let now := s.clock
    (p.state = .yielded → p.wait = .nothing →
      exec .yieldResume s = .next (s.setGroup k (g.setPath i { p.ready now with age := p.age }))) ∧
    (p.state = .yielded → p.wait = .yield → p.unyield now = { p with wait := .nothing, age := readyAge now }) ∧
    (∀ ls : List Nat, p.state = .barwait → p.wait = .monitor ls →
      exec .mwaitWake s = .next (s.setGroup k (g.setPath i (p.release now)))) ∧
    (p.state = .ready → 64 ≤ clocks (coreOf k) p.waited →
      exec .pathPromotion s = .next (s.updPath ⟨k, i⟩ fun p => { p with promoted := true })) ∧
    (∀ j m q n : Nat, ((s.group j).path m).request = some (q, n) →
      (s.oldestRequest e.a = some (j, m, (s.group j).path m) →
        (n - (s.group j).window) / 16 ≤ (s.partFree (e.a / 4) (e.a % 4)).1 →
        exec .regrowGrant s = .next ((s.keepFreed j (· - (n - (s.group j).window) / 16)).updGroup j fun g =>
          ({ g.setQ q true with window := max g.window n } : Group).updPath m (·.goOn true now))) ∧
      (s.refused e.a = some (j, m) →
        exec .regrowRefusal s = .next (s.updGroup j fun g => (g.setQ q false).updPath m (·.goOn true now)))) ∧
    (∀ n : Nat, p.wait = .regfree n → (p.state = .flagwait ∨ p.state = .stepping) → g.servesNext i = true →
      g.pendingFrom n = false → n < g.window →
      exec .regfreeShrink s = .next ((s.keepFreed k (· + (g.window - n) / 16)).setGroup k (({ g with
        window := n,
        lanes := g.lanes.map fun (e : Nat × Lane) =>
          (e.1, { e.2 with v := e.2.v.filter fun x => x.1 < n, vPoison := e.2.vPoison &&& BitVec.ofNat 128 (2 ^ n - 1) }) } :
        Group).updPath i (·.goOn true now)))) ∧
    (∀ (key base : Nat) (m : BitVec 32), p.wait = .reorder key base m → (p.state = .flagwait ∨ p.state = .stepping) →
      (∀ w ∈ g.w, w.2 = 0) →
      let n := (((s.team g.team).reorder).map (·.n)).getD 0
      let ds := g.depositsOf key base n (m &&& p.mask)
      (s.core (coreOf k)).glade.length + ds.length ≤ 4096 →
      exec .reorderDeposit s = .next ((s.updCore (coreOf k) fun c => { c with glade := c.glade ++ ds }).updGroup k fun g =>
        (g.updPath i (·.goOn true now)).exitLanes (m &&& p.mask))) ∧
    (∀ (d : Reorder) (part : Nat), let t := s.team e.a
      t.reorder = some d → s.relaunchDue e.a = true → s.relaunchPart e.a d.regs = some part →
      let due := (s.deposits e.a).length
      let left := if s.noLiveLane e.a then due else t.rest
      let batch := (s.ordered e.a).take (if 256 ≤ due then 32 else min 32 left)
      let used := (s.teamGroups e.a).map fun j => (s.group j).gid
      let gid := ((List.range 16).find? fun i => !used.contains i).getD 15
      exec .gladeRelaunch s = .next (((s.updCore t.core fun c => { c with glade := dropDeposits batch c.glade }).updTeam e.a fun t =>
        { t with rest := left - batch.length }).placeGroup t.core part
        (relaunched t.ctx e.a gid now d batch))) ∧
    (s.compactReady e.a = true →
      let regrouped : State := (List.range 4).foldl (fun (u : State) part =>
        let all := u.byGid ((s.teamGroups e.a).filter fun j => partOf j == part && (u.group j).live != 0 && !(u.group j).mixed)
        match all with
        | [] => u
        | j :: _ => [16, 32, 48, 64, 80, 96, 112, 128].foldl (fun (v : State) n =>
            v.regroup (all.filter fun x => (v.group x).window == n) (u.group j)) u) s
      exec .compactRelease s = .next ((regrouped.teamGroups e.a).foldl (fun (v : State) j =>
        v.updGroup j fun g => g.mapPaths fun p =>
          if p.state = .barwait ∧ p.wait = .compact then { p.release regrouped.clock with cycleh := 0 } else p) regrouped)) ∧
    (∀ (low : Group) (run : List Slice), let x := s.formGroup g low run
      x.s = low.s ∧ x.sPend = low.sPend ∧ x.q = low.q ∧ x.role = low.role ∧ x.prio = low.prio ∧ x.seed = low.seed ∧
        x.stream = low.stream ∧ x.lflags = low.lflags ∧ x.latch = none ∧ (x.path 0).cycleh = 0) ∧
    (s.noProgress e.a = true → (∀ j ∈ s.teamGroups e.a, s.pendingFull j = false) →
      exec .watchdogNoprogress s = .next (((s.teamGroups e.a).foldl (fun (u : State) j =>
        (u.group j).entries.foldl (fun (u : State) x =>
          if x.2.state = .frozen then u
          else u.stop ⟨j, x.1⟩ ((lanesOf x.2.mask).map fun l => { lane := l, cause := .noProgress })) u) s).updTeam e.a
        fun t => { t with idle := 0 })) ∧
    (s.groupSpent k = true →
      (g.hcap = none → exec .groupRetire s = .next (
        let u : State := { s with groups := terase s.groups k }
        if u.teamSpent g.team then u.exitTeam g.team else u)) ∧
      (∀ h : HCap, g.hcap = some h → let u := s.unrewind k h
        (((u.capValid h = true ∧ u.stillFrozen h = true) ∨ u.rungFrozen h = true) →
          exec .groupRetire s = .next (u.escalate g.ctx (some h) (some k) 1)) ∧
        ((u.capValid h = false ∨ u.stillFrozen h = false) → u.rungFrozen h = false →
          let v := if u.holdsGroup h then u.updGroup h.group fun g => g.mapPaths (·.unstepped h.given) else u
          exec .groupRetire s = .next { v with groups := terase v.groups k }))) ∧
    (∀ o : Op, s.ops.find? (fun o => o.id == e.a) = some o →
      (o.done = false → o.work = .nothing → exec .operationComplete s = .next (
        let u := if (s.group o.group).used ∧ (s.group o.group).placed = o.gen then
          s.updGroup o.group fun g => o.dests.foldl Group.land g else s
        let u : State := o.tiles.foldl (fun (u : State) x => u.updTeam x.1 fun t => { t with tF := setBit t.tF x.2 false }) u
        ({ u with ops := u.ops.map fun x => if x.id = e.a then { x with done := true, dests := [], tiles := [] } else x } :
          State).countDown o)) ∧
      exec .operationComplete s = .next ((s.settle o).complete o.id))

/-- R105, R107, R117, R127, R129, R131, R158, R162 to R164, R166, R170, R188, R189, R205, R211, R212, R272: what the device does
for queues, teams, objects and pages. The packet at a head is read once and checked, queues are offered in descending PRIO, a
placed team starts or fails unrun, a spent grid completes with its STATUS, a team is saved or flushed and a drain that lasts
too long turns into a save; an object is destroyed, the pool reclaims, a walk caches a translation, a copy-on-write page is
copied; a partition is sampled and a reverse step stops at its targets. The model's own: images: log 32; returned clusters:
log 33; clocks: log 2; the teams that an escalation saves and brings home: log 50. -/
def Obligations.TeamAndQueueEvents : Prop :=
  ∀ s t : State,
    let e := s.ev
    let team := e.a
    let x := s.queue e.a
    let tm := s.team team
    let head : List Byte := s.bytesAt (.dev (x.base.toNat + 128 * (x.head.toNat % 2 ^ fld x.ctl 4 0))) 128
    (e.a ≤ 63 → s.host.stage ≠ 0 → bit x.ctl 31 = true → x.head ≠ x.tail → x.grid = none →
      (∀ p : Packet, s.checkPacket (fld x.ctx 11 0) head = (t, some p) →
        exec .packetHeadCheck s = .next (t.acceptPacket e.a (fld x.ctx 11 0) head p)) ∧
      (s.checkPacket (fld x.ctx 11 0) head = (t, none) →
        exec .packetHeadCheck s = .next (t.rejectPacket e.a (fld x.ctx 11 0) head))) ∧
    (s.host.stage ≠ 0 → s.host.throt = false →
      let order := ((List.range 8).map fun i => (List.range 64).filter fun q => fld (s.queue q).ctl 29 27 == 7 - i).flatten
      exec .placementDecision s = .next
        (State.decideFrom (order.flatMap fun q => (s.offerKeys q).map fun k => (q, k)) 256 s.reserveHeads).reserveHeads) ∧
    (s.host.throt = true → exec .placementDecision s = .next s) ∧
    (∀ g : Grid, tm.stage = .placed → s.grid? tm.grid = some g →
      let p := g.packet
      let started (u : State) (segs : List (Loc × Nat)) : State :=
        let v := u.copySdata team segs
        let w := (v.teamGroups team).foldl (fun (w : State) k => w.updGroup k fun x => x.started p w.clock) v
        w.updTeam team fun x => { x with
          stage := .started, startedSeq := (w.ctx g.ctx).seq, tV := 0, tD := 0, tF := 0, tP := 0, rowP := 0,
          el := [], rowMax := [], rowSum := [] }
      let begun (u : State) : State := if u.teamHeld team then u.suspend (u.teamGroups team) .management else u
      (p.sdsize = 0 → exec .teamStart s = .next (begun (started s []))) ∧
      (∀ segs : List (Loc × Nat), p.sdsize ≠ 0 → s.distRead g.ctx p.sdaddr p.sdsize = (t, some segs) →
        exec .teamStart s = .next (begun (started t segs))) ∧
      (p.sdsize ≠ 0 → s.distRead g.ctx p.sdaddr p.sdsize = (t, none) → exec .teamStart s = .next (begun (t.failTeam team)))) ∧
    (∀ g : Grid, s.grid? e.a = some g → g.complete = false → g.packet.teams ≤ g.exited + g.failed →
      exec .gridComplete s = .next ((s.finishGrid g.ctx g.queue g.no g.packet
        (if g.unrun > 0 then 3 else if g.failed > 0 then 1 else 0) g.failed g.unrun).updGrid e.a fun g => { g with complete := true })) ∧
    (∀ (sv : Saving) (base size m : Nat), let ctx := tm.ctx
      (s.ctx ctx).saving = some sv → (s.ctx ctx).saveArea = some (base, size) → sv.waiting.find? (·.1 == team) = some (team, m) →
      m ≠ 0 → tm.onCore = true →
      (s.canTakeOff sv team = false → exec .teamSave s = .next (s.mapPaths (s.teamGroups team) fun p =>
        if p.state = .stepping ∧ p.freezer ≠ .rewind then { p with mgmtHeld := true } else p.suspend .management s.clock)) ∧
      (s.canTakeOff sv team = true → m = 1 → exec .teamSave s = .next ((s.flushTeam team).updCtx ctx fun c =>
        { c with saving := some { sv.drop team with flushed := sv.flushed + 1 } })) ∧
      (s.canTakeOff sv team = true → m = 2 → sv.next + s.imageSize team ≤ size →
        exec .teamSave s = .next ((s.saveTeam team (base + sv.next)).updCtx ctx fun c =>
          { c with
            saving := some { sv.drop team with
              next := (sv.next + s.imageSize team + 63) / 64 * 64, dir := sv.dir ++ [(sv.next, s.imageSize team)] },
            homing := if sv.mailbox ∧ c.escal.isNone then c.homing else c.homing ++ [team] })) ∧
      (s.canTakeOff sv team = true → m = 2 → size < sv.next + s.imageSize team →
        exec .teamSave s = .next (((s.unsuspend (s.teamGroups team) .management).updTeam team fun t => { t with drain := none }).updCtx ctx
          fun c => { c with saving := some { sv with waiting := sv.waiting.map fun w => if w.1 = team then (team, 0) else w } }))) ∧
    (∀ (n : Nat) (sv : Saving), tm.drain = some n → (s.ctx tm.ctx).saving = some sv →
      2 * 2 ^ fld (s.core tm.core).preth 5 0 ≤ clocks tm.core n →
      exec .drainTimeout s = .next ((s.updTeam team fun t => { t with drain := none }).updCtx tm.ctx fun c =>
        { c with saving := some { sv with waiting := sv.waiting.map fun w => if w.1 = team then (team, 2) else w } })) ∧
    ((∃ r ∈ (s.ctx e.a).ranges, r.2.2 = e.b) → (s.obj e.a e.b).alive = false → s.objQuiet e.a e.b = true →
      exec .objectDestruction s = .next (s.destroyRest e.a e.b)) ∧
    (s.poolFree < 16 * fld s.poolmark 15 0 → exec .reclaim s = .next (s.reclaim (max e.a (s.coppice.getD 0)))) ∧
    (∀ (leaf : DWord) (slot : Nat) (large : Bool), let va : DWord := BitVec.ofNat 64 (e.c * 65536)
      let ag : Agent := { ctx := e.b, core := some e.a }
      s.cached ag va = none → s.walk e.b va = .leaf leaf slot large →
      exec .tlbWalk s = .next ((if leafA leaf then s else s.setEntry slot (leaf ||| 0x20#64)).learn ag
        { ctx := e.b, page := fld va 54 16, leaf := leaf ||| 0x20#64, slot := slot, large := large })) ∧
    (∀ (leaf : DWord) (slot : Nat) (y : Xlat), s.walk e.a (BitVec.ofNat 64 (e.b * 65536)) = .leaf leaf slot false →
      leafCw leaf = true → leafW leaf = true → s.copyWanted e.a e.b = true →
      s.copyOnWrite e.a { ctx := e.a, page := e.b, leaf := leaf, slot := slot, large := false } = some (t, y) →
      exec .copyOnWriteCopy s = .next t) ∧
    (∀ i : Nat, let cp := e.a
      let core := cp / 4
      s.sampleDue cp = true → s.sampleSlot cp = some i →
      let k := cp * 16 + i
      exec .profilerSample s = .next ((s.writeSample core (s.sampleRecord k (s.samplePath k))).updCore core fun c =>
        { c with profLast := tput c.profLast (cp % 4) (s.writeSample core (s.sampleRecord k (s.samplePath k))).clock,
                 profNext := tput c.profNext (cp % 4) ((i + 1) % 16) })) ∧
    (∀ (y : Replay) (k : Nat), let ctx := e.a / 4194304
      (s.ctx ctx).rstep = some y → y.running = true → y.team = e.a → s.replayGroup y = some k →
      y.reached (s.group k) y.targets = true →
      exec .reverseStepComplete s = .next ((s.stopReplay k y).updCtx ctx fun c =>
        { c with rstep := some { y with running := false } }))

/-- R177, R178, R182 to R185, R192, R193: stops, handlers and the ladder. A stop that has a handler waits in the pending queue, with
its rung's set frozen, and spawns the handler with the capability over its lanes when it leaves it; one without escalates. An
escalation freezes the context and tells the host, and unanswered for its time kills the context; a handler that outlives its rung
is killed and the set widens to the next; an error that no handler takes is contained, by a rewind or by the end of the team; a
matrix pair that resets loses the tiles in flight. The model's own: the order of containment: log 24; rungs: log 49; escalation:
log 50; clocks: log 2; a handler that waits for its lanes' detached events: log 60. -/
def Obligations.StopAndContainmentEvents : Prop :=
  ∀ s : State,
    let e := s.ev
    let k := e.a
    let g := s.group k
    let c := s.ctx g.ctx
    let p := g.path e.b
    let sum := g.summary p.mask
    let leaves (v : State) (x : Nat × Nat) : State :=
      v.updCore (coreOf x.1) fun c => { c with pending := c.pending.filter (· != x) }
    let held : State := if bit c.fltcfg 0 then s.freezeRung k e.b else s
    let queued : State := held.updCore (coreOf k) fun c =>
      if c.pending.contains (k, e.b) then c else { c with pending := c.pending ++ [(k, e.b)] }
    let u := leaves queued (k, e.b)
    let raised (v : State) (h : HCap) (reason : Nat) : State :=
      let body := bytesOfNat 1 h.summary ++ bytesOfNat 1 h.core ++ bytesOfNat 1 reason ++ [0] ++ h.bytes (v.capValid h) g.ctx
      let w := v.takeOver h []
      let w := (w.suspend (w.ctxGroups g.ctx) .management).saveForEscalation g.ctx
      let stop := (h.team, h.gid, h.path, h.mask)
      (w.queueEvent 1 g.ctx body).updCtx g.ctx fun c =>
        let x := c.escal.getD { stops := [], queued := w.host.takesEvent }
        { c with escal := some { x with stops := x.stops ++ [stop] } }
    (s.isStop k e.b = false → exec .handlerSpawn s = .next (leaves s (k, e.b))) ∧
    (s.isStop k e.b = true → s.needsSlot k e.b = true →
      (queued.nextPending (coreOf k) = none → exec .handlerSpawn s = .next queued) ∧
      (∀ x : Nat × Nat, queued.nextPending (coreOf k) = some x →
        exec .handlerSpawn s = .next (if (leaves queued x).isStop x.1 x.2 then (leaves queued x).route x.1 x.2 else leaves queued x)) ∧
      (∀ (kernel : HKernel) (slot : Nat), queued.nextPending (coreOf k) = some (k, e.b) → u.isStop k e.b = true →
        kernel.fits = true → (g.isHandler = false ∨ u.framesOf (u.rootOf 8 k) < 4) → c.escal = none → sum ≠ 15 →
        bit c.fltcfg 0 = false → c.handler sum = some kernel → u.freeHandler k = some slot →
        exec .handlerSpawn s = .next (u.spawn slot (u.capFor k e.b) kernel)) ∧
      (∀ (kernel : HKernel) (slot r : Nat), let v := u.freezeRung k e.b
        queued.nextPending (coreOf k) = some (k, e.b) → u.isStop k e.b = true →
        kernel.fits = true → v.framesFull k = false → (u.ctx g.ctx).escal = none →
        (u.group k).summary ((u.group k).path e.b).mask ≠ 15 → (u.group k).ctx = g.ctx →
        bit (u.ctx g.ctx).fltcfg 0 = true → (u.ctx g.ctx).rungFrom ((u.group k).path e.b).rung = some (r, kernel) →
        v.freeHandler k = some slot →
        exec .handlerSpawn s = .next (v.spawn slot
          { v.capFor k e.b with summary := 24 + r, rung := r, wide := decide (1 ≤ r), mask := (v.group k).live } kernel))) ∧
    (∀ (r : Nat) (kernel : HKernel), c.rungFrom p.rung = some (r, kernel) →
      (p.rung ≤ r ∧ r ≤ 3 ∧ c.handler (24 + r) = some kernel ∧ ∀ j : Nat, p.rung ≤ j → j < r → c.handler (24 + j) = none) ∧
      s.freezeRung k e.b = (s.suspend (match r with
        | 0 => [k]
        | 1 => if g.isHandler then k :: s.teamGroups g.team else s.teamGroups g.team
        | _ => (s.ctxGroups g.ctx).filter fun x => x == k || !(s.group x).isHandler) .ladder).updPath ⟨k, e.b⟩
          fun p => { p with rung := r }) ∧
    (let v := leaves s (k, e.b)
     s.isStop k e.b = true → v.isStop k e.b = true → c.escal = none → sum ≠ 12 → sum ≠ 14 → sum ≠ 15 →
      bit c.fltcfg 0 = false → c.handler sum = none → c.handler 31 = none → g.hcap = none →
      exec .handlerSpawn s = .next (raised v (v.capFor k e.b) 4)) ∧
    (g.used = true → p.state = .frozen → exec .escalation s = .next (s.escalate g.ctx (some (s.capFor k e.b)) none e.c)) ∧
    (g.used = true → p.state = .frozen → g.hcap = none → exec .escalation s = .next (raised s (s.capFor k e.b) e.c)) ∧
    (∀ x : Escal, (s.ctx e.a).escal = some x →
      let t4 := fld (s.ctx e.a).fltcfg 31 26
      exec .escalationTimeout s = .next (if 2 ^ (if t4 = 0 then 32 else t4) ≤ clocks 96 x.elapsed then (s.killCtx e.a).1 else s)) ∧
    (∀ h : HCap, g.hcap = some h → h.rung ≤ 3 →
      let t := fld c.fltcfg (7 + 6 * h.rung) (2 + 6 * h.rung)
      t ≠ 0 → 2 ^ t ≤ clocks h.core h.elapsed → ∀ j x : Nat, s.heldEntry h = some (j, x) →
        let v := ((s.withNested 8 [k]).foldl State.endHandler s).updPath ⟨j, x⟩ fun p => { p with rung := h.rung + 1 }
        ((v.ctx g.ctx).rungFrom (h.rung + 1) ≠ none → exec .rungTimeout s = .next ((v.freezeRung j x).post .handlerSpawn { a := j, b := x })) ∧
        ((v.ctx g.ctx).rungFrom (h.rung + 1) = none → (v.group j).ctx = g.ctx → ((v.group j).path x).rung = h.rung + 1 →
          exec .rungTimeout s = .next (v.escalate g.ctx (some (v.capFor j x)) none 2))) ∧
    (e.c ≠ 1 → s.isStop k e.b = true → g.summary p.mask = 12 →
      let again (v : State) : State := v.post .poisonContainment { a := e.a, b := e.b, c := e.c }
      (s.teamWindow g.team = none → s.ctxWindow (s.team g.team).ctx = none →
        exec .poisonContainment s = .next (s.failTeam g.team)) ∧
      (∀ (n : Word) (v : State) (w : Word), s.teamWindow g.team = some n →
        (s.dropStops g.team).rewind (s.team g.team).ctx (some g.team) none n true = (v, some w) → (fld w 7 0 = 0 ∨ fld w 7 0 = 7) →
        exec .poisonContainment s = .next (v.unsuspend (v.teamGroups g.team) .rewound)) ∧
      (∀ (n : Word) (v : State) (w : Word), let z := s.unsuspend (s.teamGroups g.team) .rewind
        s.teamWindow g.team = some n →
        (s.dropStops g.team).rewind (s.team g.team).ctx (some g.team) none n true = (v, some w) → fld w 7 0 ≠ 0 → fld w 7 0 ≠ 7 →
        z.ctxWindow (s.team g.team).ctx = none → exec .poisonContainment s = .next (z.failTeam g.team)) ∧
      (∀ (n : Word) (v : State) (w : Word) (q : Nat), let ctx := (s.team g.team).ctx
        s.teamWindow g.team = none → s.ctxWindow ctx = some n → (s.ctx ctx).openSeq n = some q →
        ((s.ctxTeams ctx).foldl State.dropStops s).rewind ctx none none n true = (v, some w) → (fld w 7 0 = 0 ∨ fld w 7 0 = 7) →
        exec .poisonContainment s = .next ((v.relaunchGrids ctx q).unsuspend (v.ctxGroups ctx) .rewound)) ∧
      (∀ (n : Word) (v : State), s.teamWindow g.team = some n →
        (s.dropStops g.team).rewind (s.team g.team).ctx (some g.team) none n true = (v, none) →
        exec .poisonContainment s = .next (again v))) ∧
    (e.c = 1 → (s.team e.a).onCore = true → s.teamWindow e.a = none → exec .poisonContainment s = .next (s.failTeam e.a)) ∧
    (let late (o : Op) : Prop := o.matrix ≠ 0 ∧ o.done = false ∧ 2 ^ 24 ≤ clocks (coreOf o.group) (s.clock - o.since) ∧
       coreOf o.group / 2 = e.a
     ((∀ o ∈ s.ops, ¬ late o) → exec .matrixPairReset s = .next s) ∧
     ((∃ o ∈ s.ops, late o) → ∃ t : State, exec .matrixPairReset s = .next t ∧
       ∀ x ∈ s.teams, x.2.onCore = true → x.2.core / 2 = e.a → x.2.tF ≠ 0 →
         (t.team x.1).tV = (s.team x.1).tV &&& ~~~(s.team x.1).tF ∧ (t.team x.1).tF = 0 ∧
         ⟨.poisonContainment, { a := x.1, c := 1 }⟩ ∈ t.agenda))

/-- R25, R26, R113, R191, R261, R265, R270, R271, R272: what happens to the part. The start stages, and the loss of power; the
governor's samples, the escalation of power and the limit of heat; an uncorrectable error poisons what it struck, or a DRAFT
page that was read is lost, and is reported; a link failure escalates every context that the part knows; the host writes device
memory and its own. The model's own: the governor: log 25; outside events: log 55, log 56; the contexts that a link failure
escalates: log 50; the one frame that is lost: log 65. -/
def Obligations.DeviceEvents : Prop :=
  ∀ s : State,
    let e := s.ev
    let h := s.host
    let host (f : Mgmt → Mgmt) : Res := .next (s.updHost f)
    let report (u : State) (place outcome die core pa : Nat) : State :=
      u.queueEvent 3 0 ([BitVec.ofNat 8 place, BitVec.ofNat 8 outcome, BitVec.ofNat 8 die, BitVec.ofNat 8 core, 0, 0, 0, 0] ++ bytesOfNat 8 pa)
    (h.stage = 0 → h.booted = false → h.fail = 0 →
      exec .stage0 s = host fun h => if e.a = 1 then { h with booted := true } else { h with fail := 1 }) ∧
    (h.stage = 0 → h.booted = true → h.fail = 0 →
      (e.a = 1 → exec .stage1 s = .next ((s.updHost fun h => { h with stage := 1, dies := 1 }).coresUp 0 24)) ∧
      (e.a ≠ 1 → exec .stage1 s = host fun h => { h with fail := 2 })) ∧
    (h.stage = 1 → h.fail = 0 →
      (e.a = 1 → exec .stage2 s = .next ((s.updHost fun h => { h with stage := 2, dies := 15 }).coresUp 24 72)) ∧
      (e.a ≠ 1 → exec .stage2 s = host fun h => { h with fail := 3, dies := e.b % 16 })) ∧
    (exec .powerOff s = .next { State.reset with
      hmem := s.hmem, saves := s.saves, inbox := s.inbox, loads := s.loads, free := s.free }) ∧
    (e.a ≥ 2400 ∨ e.b ≥ 105 → h.mhz ≠ 1000 →
      exec .governorSample s = host fun h => { h with hot := 0, cool := 0, mhz := max 1000 (h.mhz - 25) }) ∧
    (e.a < 2300 → e.b < 105 → h.cool < 9 → exec .governorSample s = host fun h => { h with hot := 0, cool := h.cool + 1 }) ∧
    (e.a < 2300 → e.b < 105 → 9 ≤ h.cool → h.throt = false →
      exec .governorSample s = host fun h => { h with hot := 0, cool := 0, mhz := min 1750 (h.mhz + 25) }) ∧
    (e.a > 2400 ∨ e.b ≥ 105 → h.mhz = 1000 → 9 ≤ h.hot → h.throt = false →
      exec .governorSample s = .next ((s.updHost fun h => { h with hot := h.hot + 1, cool := 0, mhz := 1000 }).post .powerEscalation
        { a := e.a, b := e.b, c := e.c })) ∧
    (10 ≤ h.hot → h.throt = false → exec .powerEscalation s = .next ((s.updHost fun h => { h with throt := true, hot := 0 }).queueEvent 2 0
      (bytesOfNat 4 e.a ++ bytesOfNat 2 h.mhz ++ bytesOfNat 1 e.b ++ bytesOfNat 1 e.c ++ bytesOfNat 1 1))) ∧
    (115 ≤ e.b → exec .thermalLimit s = exec .powerOff s) ∧
    (105 ≤ e.b → e.b < 115 → exec .thermalLimit s = host fun h => { h with mhz := max 1000 (h.mhz - 25) }) ∧
    (exec .linkFailure s = .next ((distinct (s.ctxs.map (·.1) ++ s.teams.map (fun x => x.2.ctx) ++ s.grids.map fun x => x.2.ctx)).foldl
      (fun (u : State) ctx => u.escalate ctx none none 5) (report s 6 3 0xFF 0xFF 0))) ∧
    (let frame := e.b / 65536
     let die := frame % 12 / 3
     (e.a = 1 ∨ e.a = 2 →
       (e.d ≠ 0 → s.draftRead (e.d - 1) frame e.v = true →
         exec .uncorrectableError s = .next (report { s with lost := tset false s.lost frame true } e.a 2 die 0xFF e.b)) ∧
       (e.d = 0 → exec .uncorrectableError s = .next (report { s with
         memPoison := (List.range e.c).foldl (fun t i => tset false t (e.b + i) true) s.memPoison } e.a 1 die 0xFF e.b)))) ∧
    (e.a = 3 → exec .uncorrectableError s = .next (report (s.updTeam e.b fun t =>
      { t with padPoison := (List.range e.d).foldl (fun p i => tset false p (e.c + i) true) t.padPoison })
      3 1 ((s.team e.b).core / 24) (s.team e.b).core 0)) ∧
    (e.a = 4 → e.d < 128 → exec .uncorrectableError s = .next (report (s.onLanes e.b [e.c] fun _ ln =>
      { ln with vPoison := setBit ln.vPoison e.d true }) 4 1 (coreOf e.b / 24) (coreOf e.b) 0)) ∧
    (e.a = 5 → e.d ≠ 1 → exec .uncorrectableError s = .next (report (s.updTeam e.b fun t =>
      { t with tP := setBit t.tP e.c true }) 5 1 ((s.team e.b).core / 24) (s.team e.b).core 0)) ∧
    (e.a = 6 → exec .uncorrectableError s = exec .linkFailure s) ∧
    (∀ b : Byte, 2 ≤ h.stage → e.data = [b] → s.frameUsable (e.a / 65536) = true →
      exec .hostMemoryWrite s = .next (if tget false s.sealed (e.a / 65536) then s.updHost fun h => { h with sealw := true }
        else (s.setByte (.dev e.a) b).touch (.dev e.a))) ∧
    (∀ b : Byte, e.data = [b] → exec .hostSideCoherence s = .next ((s.setByte (.host e.a) b).touch (.host e.a)))

/-! Frames and invariants. -/

/-- R32, R36, R58, R65, R86, R95, R321, R322, R347 to R349, R288 to R290: the frame of the words that compute in registers. Where such a
word gives a next state, whether lanes took its effect, stopped or held, nothing has changed outside its group: no byte of memory,
host memory or scratchpad, no special register of a core or a context, no operation in flight; and within its group, beside the path
table, no register other than the ones named: the destination of a uniform word, in a vector word the destination run of the ETYPE,
in a comparison its predicate; FPSTAT only in a floating-point word. -/
def Obligations.FrameOfRegisterWords : Prop :=
  ∀ (s t : State) (r : PathRef) (d a b : BitVec 8) (c q : BitVec 3), Issuing s r →
    let run : List Nat := (List.range (eRegs (mEtype (s.path r).mode))).map (d.toNat + ·)
    let framed (vw pw sw qw : List Nat) (fl : Bool) (i : Instr) : Prop :=
      exec i s = .next t → OnlyGroup r.group s t ∧ OnlyRegs vw pw sw qw fl (s.group r.group) (t.group r.group)
    (∀ i ∈ ([.sadd d a b, .saddK d a b, .ssub d a b, .ssubK d a b, .smul d a b, .smulK d a b, .smulh d a b, .sand d a b, .sandK d a b,
      .sor d a b, .sorK d a b, .sxor d a b, .sxorK d a b, .sshl d a b, .sshlK d a b, .sshr d a b, .sshrK d a b, .ssra d a b,
      .ssraK d a b, .smin d a b, .sminK d a b, .smax d a b, .smaxK d a b, .sbfe d a b, .sbfeK d a b, .spopc d a, .ssel d c b,
      .sselK d c b, .smov d b, .smovK d b] : List Instr), framed [] [] [sNum d] [] false i) ∧
    (∀ i ∈ ([.sadd64 d a b, .sadd64K d a b] : List Instr), framed [] [] [sNum d, sNum d + 1] [] false i) ∧
    (∀ i ∈ ([.scmp c q a b, .scmpK c q a b] : List Instr), framed [] [] [] [q.toNat] false i) ∧
    (∀ i ∈ ([.vadd d a b, .vaddK d a b, .vsub d a b, .vsubK d a b, .vmul d a b, .vmulK d a b, .vmulh d a b, .vmad d a b, .vmadK d a b,
      .vand d a b, .vandK d a b, .vor d a b, .vorK d a b, .vxor d a b, .vxorK d a b, .vshl d a b, .vshlK d a b, .vshr d a b,
      .vshrK d a b, .vsra d a b, .vsraK d a b, .vmin d a b, .vminK d a b, .vmax d a b, .vmaxK d a b, .vabs d a, .vneg d a,
      .vbfe d a b, .vbfeK d a b, .vbfi d a b, .vbfiK d a b, .vpopc d a, .vclz d a, .vsel d c b, .vselK d c b, .vmov d b,
      .vmovK d b] : List Instr), framed run [] [] [] false i) ∧
    (∀ i ∈ ([.vcmp c q a b, .vcmpK c q a b] : List Instr), framed [] [q.toNat] [] [] false i) ∧
    (∀ i ∈ ([.fcmp c q a b, .fcmpK c q a b] : List Instr), framed [] [q.toNat] [] [] true i) ∧
    (∀ i ∈ ([.fadd d a b, .faddK d a b, .fsub d a b, .fsubK d a b, .fmul d a b, .fmulK d a b, .ffma d a b, .ffmaK d a b, .fmin d a b,
      .fminK d a b, .fmax d a b, .fmaxK d a b, .frcp d a, .frsq d a, .fsqrt d a, .fexp2 d a, .flog2 d a, .fsin d a, .fcos d a,
      .ftanh d a, .fsigm d a] : List Instr), framed run [] [] [] true i)

/-- The invariant of the machine is kept by every step (`State.Sound`): memory keeps its canonical form, the clock of the part stays
between 1000 and 1750 MHz (R25), POOLMARK keeps HIGH at LOW or above (R126), and no start stage lies beyond the second (R261). -/
def Obligations.SoundIsKept : Prop := ∀ s t : State, s.Sound → step s = .next t → t.Sound

/-- The invariant holds of the state after reset, and of the state in which one word is placed for the next step. The model's own:
the placed word: log 11. -/
def Obligations.SoundAtReset : Prop :=
  State.reset.Sound ∧ ∀ nbits w : Nat, (State.reset.withFetchWord nbits w).Sound
end

