-- ==== Sys2Proof/Laws/Table.lean ====
section
/-! SUPPORT. Laws of tables: what a write leaves at its key and at every other, and the canonical form. -/

namespace Sys2Proof.Machine

@[simp] theorem tget_tput_same {α : Type} (d : α) (t : Tbl α) (i : Nat) (v : α) : tget d (tput t i v) i = v := by
  induction t with
  | nil => simp [tput, tget]
  | cons e t ih =>
    obtain ⟨k, w⟩ := e
    simp only [tput]
    split
    · simp [tget]
    · split
      · simp [tget]
      · simp [tget, *]

theorem tget_tput_other {α : Type} (d : α) (t : Tbl α) {i j : Nat} (v : α) (h : j ≠ i) : tget d (tput t i v) j = tget d t j := by
  induction t with
  | nil => simp [tput, tget, h]
  | cons e t ih =>
    obtain ⟨k, w⟩ := e
    simp only [tput]
    split
    · simp only [tget, h, if_false]
      split <;> rename_i hji
      · rw [if_neg (by omega), if_pos (by omega)]
      · rfl
    · split
      · subst_vars; simp only [tget, h, if_false]
      · simp only [tget, ih]

theorem tget_tput {α : Type} (d : α) (t : Tbl α) (i j : Nat) (v : α) : tget d (tput t i v) j = if j = i then v else tget d t j := by
  by_cases h : j = i
  · subst h; simp
  · simp [h, tget_tput_other d t v h]

/-! The canonical form, as one statement on all entries. -/

/-- Keys rise strictly and no entry holds `d`. -/
theorem twf_iff {α : Type} [DecidableEq α] (d : α) (t : Tbl α) :
    twf d t = true ↔ t.Pairwise (fun a b => a.1 < b.1) ∧ ∀ e ∈ t, e.2 ≠ d := by
  induction t with
  | nil => simp [twf]
  | cons e t ih =>
    obtain ⟨k, v⟩ := e
    cases t with
    | nil => simp [twf]
    | cons f t =>
      obtain ⟨k', v'⟩ := f
      simp only [twf, Bool.and_eq_true, decide_eq_true_eq, ih]
      constructor
      · rintro ⟨⟨h1, h2⟩, h3, h4⟩
        refine ⟨List.pairwise_cons.2 ⟨?_, h3⟩, ?_⟩
        · intro x hx
          rcases List.mem_cons.1 hx with rfl | hx
          · exact h2
          · exact Nat.lt_trans h2 ((List.pairwise_cons.1 h3).1 x hx)
        · intro x hx
          rcases List.mem_cons.1 hx with rfl | hx
          · exact h1
          · exact h4 x hx
      · rintro ⟨h1, h2⟩
        have h3 := List.pairwise_cons.1 h1
        exact ⟨⟨h2 (k, v) (by simp), h3.1 (k', v') (by simp)⟩, h3.2, fun x hx => h2 x (List.mem_cons_of_mem _ hx)⟩

theorem twf_filter {α : Type} [DecidableEq α] {d : α} {t : Tbl α} (p : Nat × α → Bool) (h : twf d t = true) :
    twf d (t.filter p) = true := by
  rw [twf_iff] at *
  exact ⟨h.1.filter p, fun e he => h.2 e (List.mem_filter.1 he).1⟩

/-- Every entry of a written table is the new one or an old one. -/
theorem mem_tset {α : Type} [DecidableEq α] {d : α} {t : Tbl α} {i : Nat} {v : α} {e : Nat × α} (h : e ∈ tset d t i v) :
    e ∈ t ∨ (e = (i, v) ∧ v ≠ d) := by
  induction t with
  | nil => simp only [tset] at h; split at h <;> simp_all
  | cons f t ih =>
    obtain ⟨k, w⟩ := f
    simp only [tset] at h
    split at h
    · split at h
      · exact .inl h
      · rcases List.mem_cons.1 h with h | h
        · exact .inr ⟨h, ‹_›⟩
        · exact .inl h
    · split at h
      · split at h
        · exact .inl (List.mem_cons_of_mem _ h)
        · rcases List.mem_cons.1 h with h | h
          · exact .inr ⟨h, ‹_›⟩
          · exact .inl (List.mem_cons_of_mem _ h)
      · rcases List.mem_cons.1 h with h | h
        · exact .inl (h ▸ List.mem_cons_self)
        · rcases ih h with h | h
          · exact .inl (List.mem_cons_of_mem _ h)
          · exact .inr h

theorem pairwise_tset {α : Type} [DecidableEq α] (d : α) (t : Tbl α) (i : Nat) (v : α)
    (h : t.Pairwise (fun a b => a.1 < b.1)) : (tset d t i v).Pairwise (fun a b => a.1 < b.1) := by
  induction t with
  | nil => simp only [tset]; split <;> simp
  | cons f t ih =>
    obtain ⟨k, w⟩ := f
    have hp := List.pairwise_cons.1 h
    simp only [tset]
    split <;> rename_i hik
    · split
      · exact h
      · refine List.pairwise_cons.2 ⟨fun x hx => ?_, h⟩
        rcases List.mem_cons.1 hx with rfl | hx
        · exact hik
        · exact Nat.lt_trans hik (hp.1 x hx)
    · split <;> rename_i hne
      · split
        · exact hp.2
        · exact List.pairwise_cons.2 ⟨fun x hx => hne ▸ hp.1 x hx, hp.2⟩
      · refine List.pairwise_cons.2 ⟨fun x hx => ?_, ih hp.2⟩
        rcases mem_tset hx with hx | ⟨rfl, -⟩
        · exact hp.1 x hx
        · simp only; omega

/-- A write keeps the canonical form. -/
theorem twf_tset {α : Type} [DecidableEq α] {d : α} {t : Tbl α} (i : Nat) (v : α) (h : twf d t = true) :
    twf d (tset d t i v) = true := by
  rw [twf_iff] at *
  refine ⟨pairwise_tset d t i v h.1, fun e he => ?_⟩
  rcases mem_tset he with he | ⟨rfl, hv⟩
  · exact h.2 e he
  · exact hv

/-- Below every key of a rising table nothing is listed. -/
theorem tget_below {α : Type} (d : α) (t : Tbl α) (i : Nat) (h : ∀ e ∈ t, i < e.1) : tget d t i = d := by
  cases t with
  | nil => rfl
  | cons e t =>
    obtain ⟨k, w⟩ := e
    have := h (k, w) (by simp)
    simp only at this
    simp only [tget]
    rw [if_neg (by omega), if_pos this]

theorem tget_tset_same {α : Type} [DecidableEq α] {d : α} {t : Tbl α} (i : Nat) (v : α) (h : twf d t = true) :
    tget d (tset d t i v) i = v := by
  rw [twf_iff] at h
  replace h := h.1
  induction t with
  | nil => simp only [tset]; split <;> simp_all [tget]
  | cons f t ih =>
    obtain ⟨k, w⟩ := f
    have hp := List.pairwise_cons.1 h
    simp only [tset]
    split <;> rename_i hik
    · split
      · simp only [tget]; rw [if_neg (by omega), if_pos hik]; exact Eq.symm ‹_›
      · simp [tget]
    · split <;> rename_i hne
      · subst hne
        split
        · rw [tget_below d t i hp.1]; exact Eq.symm ‹_›
        · simp [tget]
      · simp only [tget]; rw [if_neg hne, if_neg hik]; exact ih hp.2

theorem tget_tset_other {α : Type} [DecidableEq α] {d : α} {t : Tbl α} {i j : Nat} (v : α) (h : twf d t = true) (hj : j ≠ i) :
    tget d (tset d t i v) j = tget d t j := by
  rw [twf_iff] at h
  replace h := h.1
  induction t with
  | nil => simp only [tset]; split <;> simp [tget, hj]
  | cons f t ih =>
    obtain ⟨k, w⟩ := f
    have hp := List.pairwise_cons.1 h
    simp only [tset]
    split <;> rename_i hik
    · split
      · rfl
      · simp only [tget, hj, if_false]
        split
        · rw [if_neg (by omega), if_pos (by omega)]
        · rfl
    · split <;> rename_i hne
      · subst hne
        split
        · simp only [tget, hj, if_false]
          split
          · rw [tget_below d t j fun e he => by have := hp.1 e he; simp only at this; omega]
          · rfl
        · simp only [tget, hj, if_false]
      · simp only [tget, ih hp.2]

/-- Reading behind a write into a table in canonical form. -/
theorem tget_tset {α : Type} [DecidableEq α] {d : α} {t : Tbl α} (i j : Nat) (v : α) (h : twf d t = true) :
    tget d (tset d t i v) j = if j = i then v else tget d t j := by
  by_cases hj : j = i
  · subst hj; simp [tget_tset_same j v h]
  · simp [hj, tget_tset_other v h hj]

end Sys2Proof.Machine
end

