-- ==== Sys2Proof/Laws/Sound.lean ====
section
/-! SUPPORT. The invariant of the machine under the operations over memory and state: each operation over memory keeps the canonical
form, and an update of anything else leaves what the invariant speaks of alone. -/

namespace Sys2Proof.Machine

/-- What the invariant speaks of. -/
def State.soundKey (s : State) : List Host.Cell × List Host.Cell × Nat × Nat × Word :=
  (s.mem, s.hmem, s.host.mhz, s.host.stage, s.poolmark)

/-- The invariant depends on these fields alone. -/
theorem sound_of_key {s t : State} (h : t.soundKey = s.soundKey) (hs : s.Sound) : t.Sound := by
  simp only [State.soundKey, Prod.mk.injEq] at h
  obtain ⟨h1, h2, h3, h4, h5⟩ := h
  exact ⟨h1 ▸ hs.mem, h2 ▸ hs.hmem, h3 ▸ hs.slow, h3 ▸ hs.fast, h5 ▸ hs.pool, h4 ▸ hs.stage⟩

@[simp] theorem soundKey_setGroup (s : State) (k : Nat) (g : Group) : (s.setGroup k g).soundKey = s.soundKey := rfl
@[simp] theorem soundKey_updGroup (s : State) (k : Nat) (f : Group → Group) : (s.updGroup k f).soundKey = s.soundKey := rfl
@[simp] theorem soundKey_setTeam (s : State) (k : Nat) (x : Team) : (s.setTeam k x).soundKey = s.soundKey := rfl
@[simp] theorem soundKey_updTeam (s : State) (k : Nat) (f : Team → Team) : (s.updTeam k f).soundKey = s.soundKey := rfl
@[simp] theorem soundKey_updCore (s : State) (k : Nat) (f : Core → Core) : (s.updCore k f).soundKey = s.soundKey := rfl
@[simp] theorem soundKey_updCtx (s : State) (k : Nat) (f : Ctx → Ctx) : (s.updCtx k f).soundKey = s.soundKey := rfl
@[simp] theorem soundKey_updQueue (s : State) (k : Nat) (f : Queue → Queue) : (s.updQueue k f).soundKey = s.soundKey := rfl
@[simp] theorem soundKey_updGrid (s : State) (k : Nat) (f : Grid → Grid) : (s.updGrid k f).soundKey = s.soundKey := by
  unfold State.updGrid
  split <;> rfl
@[simp] theorem soundKey_updPath (s : State) (r : PathRef) (f : Path → Path) : (s.updPath r f).soundKey = s.soundKey := rfl
@[simp] theorem soundKey_onLanes (s : State) (k : Nat) (ls : List Nat) (f : Nat → Lane → Lane) :
    (s.onLanes k ls f).soundKey = s.soundKey := rfl
@[simp] theorem soundKey_post (s : State) (i : Instr) (a : Args) : (s.post i a).soundKey = s.soundKey := by
  unfold State.post
  split <;> rfl

/-- A fold of updates that leave the key alone. -/
theorem soundKey_foldl {α : Type} {f : State → α → State} (h : ∀ s x, (f s x).soundKey = s.soundKey) (xs : List α) (s : State) :
    (xs.foldl f s).soundKey = s.soundKey := by
  induction xs generalizing s with
  | nil => rfl
  | cons x xs ih => exact (ih _).trans (h s x)

/-- A fold of updates each of which keeps the invariant. -/
theorem sound_foldl {α : Type} {f : State → α → State} (h : ∀ s x, s.Sound → (f s x).Sound) (xs : List α) (s : State)
    (hs : s.Sound) : (xs.foldl f s).Sound := by
  induction xs generalizing s with
  | nil => exact hs
  | cons x xs ih => exact ih _ (h s x hs)

/-! The operations over memory. -/

/-- Writing one byte keeps the canonical form, wherever it stands. -/
theorem sound_setByte {s : State} (l : Loc) (b : Byte) (poison : Bool) (hs : s.Sound) : (s.setByte l b poison).Sound := by
  cases l with
  | dev pa => exact ⟨twf_tset pa b hs.mem, hs.hmem, hs.slow, hs.fast, hs.pool, hs.stage⟩
  | host pa => exact ⟨hs.mem, twf_tset pa b hs.hmem, hs.slow, hs.fast, hs.pool, hs.stage⟩
  | pad t o => exact sound_of_key (s := s) rfl hs
  | acc t o => exact sound_of_key (s := s) rfl hs
  | lost => exact sound_of_key (s := s) rfl hs
  | gone => exact sound_of_key (s := s) rfl hs

/-- Writing bytes keeps it. -/
theorem sound_setBytes {s : State} (l : Loc) (bs : List Byte) (poison : Bool) (hs : s.Sound) : (s.setBytes l bs poison).Sound := by
  induction bs generalizing s l with
  | nil => exact hs
  | cons b bs ih => exact ih _ (sound_setByte l b poison hs)

/-- So does writing an entry of a table in device memory. -/
theorem sound_setEntry {s : State} (pa : Nat) (x : DWord) (hs : s.Sound) : (s.setEntry pa x).Sound := sound_setBytes _ _ _ hs

/-- Moving bytes of device memory keeps it. -/
theorem sound_copyDev {s : State} (src dst n : Nat) (hs : s.Sound) : (s.copyDev src dst n).Sound := by
  refine ⟨?_, hs.hmem, hs.slow, hs.fast, hs.pool, hs.stage⟩
  have h : ∀ (es : List (Nat × Byte)) (t : Tbl Byte), twf unwritten t = true →
      twf unwritten (es.foldl (fun t e => tset unwritten t (dst + (e.1 - src)) e.2) t) = true := by
    intro es
    induction es with
    | nil => exact fun _ ht => ht
    | cons e es ih => exact fun t ht => ih _ (twf_tset _ _ ht)
  exact h _ _ (twf_filter _ hs.mem)

/-- So does copying bytes of host memory into it. -/
theorem sound_copyHost {s : State} (src dst n : Nat) (hs : s.Sound) : (s.copyHost src dst n).Sound := by
  refine ⟨?_, hs.hmem, hs.slow, hs.fast, hs.pool, hs.stage⟩
  have h : ∀ (es : List (Nat × Byte)) (t : Tbl Byte), twf unwritten t = true →
      twf unwritten (es.foldl (fun t e => tset unwritten t (dst + (e.1 - src)) e.2) t) = true := by
    intro es
    induction es with
    | nil => exact fun _ ht => ht
    | cons e es ih => exact fun t ht => ih _ (twf_tset _ _ ht)
  exact h _ _ (twf_filter _ hs.mem)

/-- Zeroing bytes of device memory keeps it. -/
theorem sound_zeroDev {s : State} (pa n : Nat) (hs : s.Sound) : (s.zeroDev pa n).Sound :=
  ⟨twf_filter _ hs.mem, hs.hmem, hs.slow, hs.fast, hs.pool, hs.stage⟩

/-- The clock of the part goes down a step. -/
theorem sound_slower {s : State} (hs : s.Sound) : (s.updHost Mgmt.slower).Sound := by
  have := hs.slow; have := hs.fast
  refine ⟨hs.mem, hs.hmem, ?_, ?_, hs.pool, hs.stage⟩ <;> simp only [State.updHost, Mgmt.slower] <;> omega

/-- The clock of the part goes up a step. -/
theorem sound_faster {s : State} (hs : s.Sound) : (s.updHost Mgmt.faster).Sound := by
  have := hs.slow; have := hs.fast
  refine ⟨hs.mem, hs.hmem, ?_, ?_, hs.pool, hs.stage⟩ <;> simp only [State.updHost, Mgmt.faster] <;> omega

/-! What a read finds after a write. -/

/-- A byte of device memory or host memory that was written reads back, and every other byte of that memory reads as before. -/
theorem byteAt_setByte_dev {s : State} (pa pb : Nat) (b : Byte) (poison : Bool) (h : Memory.wf s.mem = true) :
    (s.setByte (.dev pa) b poison).byteAt (.dev pb) = if pb = pa then b else s.byteAt (.dev pb) := tget_tset pa pb b h
theorem byteAt_setByte_host {s : State} (pa pb : Nat) (b : Byte) (poison : Bool) (h : Memory.wf s.hmem = true) :
    (s.setByte (.host pa) b poison).byteAt (.host pb) = if pb = pa then b else s.byteAt (.host pb) := tget_tset pa pb b h
@[simp] theorem byteAt_setByte_dev_host (s : State) (pa pb : Nat) (b : Byte) (poison : Bool) :
    (s.setByte (.dev pa) b poison).byteAt (.host pb) = s.byteAt (.host pb) := rfl
@[simp] theorem byteAt_setByte_host_dev (s : State) (pa pb : Nat) (b : Byte) (poison : Bool) :
    (s.setByte (.host pa) b poison).byteAt (.dev pb) = s.byteAt (.dev pb) := rfl

/-- Equal memories in canonical form that read alike at every address are equal: shown for the empty one. -/
theorem memory_empty {m : List Host.Cell} (h : Memory.wf m = true) (hr : ∀ a, tget unwritten m a = unwritten) : m = [] := by
  cases m with
  | nil => rfl
  | cons e t =>
    obtain ⟨k, v⟩ := e
    have h1 := (twf_iff unwritten _).1 h
    have h2 := hr k
    simp only [tget, if_true] at h2
    exact absurd h2 (h1.2 (k, v) (by simp))

end Sys2Proof.Machine
end

