-- ==== Sys2Proof/Laws/State.lean ====
section
/-! SUPPORT. One lemma per field per update of the state, and what a record read back by its key is. -/

namespace Sys2Proof.Machine

/-! `setGroup`. -/

@[simp] theorem setGroup_inbox (s : State) (k : Nat) (g : Group) : (s.setGroup k g).inbox = s.inbox := rfl
@[simp] theorem setGroup_loads (s : State) (k : Nat) (g : Group) : (s.setGroup k g).loads = s.loads := rfl
@[simp] theorem setGroup_agenda (s : State) (k : Nat) (g : Group) : (s.setGroup k g).agenda = s.agenda := rfl
@[simp] theorem setGroup_ev (s : State) (k : Nat) (g : Group) : (s.setGroup k g).ev = s.ev := rfl
@[simp] theorem setGroup_cur (s : State) (k : Nat) (g : Group) : (s.setGroup k g).cur = s.cur := rfl
@[simp] theorem setGroup_teams (s : State) (k : Nat) (g : Group) : (s.setGroup k g).teams = s.teams := rfl
@[simp] theorem setGroup_cores (s : State) (k : Nat) (g : Group) : (s.setGroup k g).cores = s.cores := rfl
@[simp] theorem setGroup_ctxs (s : State) (k : Nat) (g : Group) : (s.setGroup k g).ctxs = s.ctxs := rfl
@[simp] theorem setGroup_queues (s : State) (k : Nat) (g : Group) : (s.setGroup k g).queues = s.queues := rfl
@[simp] theorem setGroup_grids (s : State) (k : Nat) (g : Group) : (s.setGroup k g).grids = s.grids := rfl
@[simp] theorem setGroup_ops (s : State) (k : Nat) (g : Group) : (s.setGroup k g).ops = s.ops := rfl
@[simp] theorem setGroup_mem (s : State) (k : Nat) (g : Group) : (s.setGroup k g).mem = s.mem := rfl
@[simp] theorem setGroup_memPoison (s : State) (k : Nat) (g : Group) : (s.setGroup k g).memPoison = s.memPoison := rfl
@[simp] theorem setGroup_hmem (s : State) (k : Nat) (g : Group) : (s.setGroup k g).hmem = s.hmem := rfl
@[simp] theorem setGroup_saves (s : State) (k : Nat) (g : Group) : (s.setGroup k g).saves = s.saves := rfl
@[simp] theorem setGroup_lost (s : State) (k : Nat) (g : Group) : (s.setGroup k g).lost = s.lost := rfl
@[simp] theorem setGroup_sealed (s : State) (k : Nat) (g : Group) : (s.setGroup k g).sealed = s.sealed := rfl
@[simp] theorem setGroup_dieTlb (s : State) (k : Nat) (g : Group) : (s.setGroup k g).dieTlb = s.dieTlb := rfl
@[simp] theorem setGroup_pool (s : State) (k : Nat) (g : Group) : (s.setGroup k g).pool = s.pool := rfl
@[simp] theorem setGroup_poolmark (s : State) (k : Nat) (g : Group) : (s.setGroup k g).poolmark = s.poolmark := rfl
@[simp] theorem setGroup_birth (s : State) (k : Nat) (g : Group) : (s.setGroup k g).birth = s.birth := rfl
@[simp] theorem setGroup_released (s : State) (k : Nat) (g : Group) : (s.setGroup k g).released = s.released := rfl
@[simp] theorem setGroup_l2 (s : State) (k : Nat) (g : Group) : (s.setGroup k g).l2 = s.l2 := rfl
@[simp] theorem setGroup_shadows (s : State) (k : Nat) (g : Group) : (s.setGroup k g).shadows = s.shadows := rfl
@[simp] theorem setGroup_rels (s : State) (k : Nat) (g : Group) : (s.setGroup k g).rels = s.rels := rfl
@[simp] theorem setGroup_coppice (s : State) (k : Nat) (g : Group) : (s.setGroup k g).coppice = s.coppice := rfl
@[simp] theorem setGroup_lacks (s : State) (k : Nat) (g : Group) : (s.setGroup k g).lacks = s.lacks := rfl
@[simp] theorem setGroup_host (s : State) (k : Nat) (g : Group) : (s.setGroup k g).host = s.host := rfl
@[simp] theorem setGroup_nextOp (s : State) (k : Nat) (g : Group) : (s.setGroup k g).nextOp = s.nextOp := rfl
@[simp] theorem setGroup_nextShadow (s : State) (k : Nat) (g : Group) : (s.setGroup k g).nextShadow = s.nextShadow := rfl
@[simp] theorem setGroup_turn (s : State) (k : Nat) (g : Group) : (s.setGroup k g).turn = s.turn := rfl
@[simp] theorem setGroup_passedBy (s : State) (k : Nat) (g : Group) : (s.setGroup k g).passedBy = s.passedBy := rfl
@[simp] theorem setGroup_keptOff (s : State) (k : Nat) (g : Group) : (s.setGroup k g).keptOff = s.keptOff := rfl
@[simp] theorem setGroup_overtaken (s : State) (k : Nat) (g : Group) : (s.setGroup k g).overtaken = s.overtaken := rfl
@[simp] theorem setGroup_nextGrid (s : State) (k : Nat) (g : Group) : (s.setGroup k g).nextGrid = s.nextGrid := rfl
@[simp] theorem setGroup_clock (s : State) (k : Nat) (g : Group) : (s.setGroup k g).clock = s.clock := rfl
@[simp] theorem setGroup_free (s : State) (k : Nat) (g : Group) : (s.setGroup k g).free = s.free := rfl

/-! `updGroup`. -/

@[simp] theorem updGroup_inbox (s : State) (k : Nat) (f : Group → Group) : (s.updGroup k f).inbox = s.inbox := rfl
@[simp] theorem updGroup_loads (s : State) (k : Nat) (f : Group → Group) : (s.updGroup k f).loads = s.loads := rfl
@[simp] theorem updGroup_agenda (s : State) (k : Nat) (f : Group → Group) : (s.updGroup k f).agenda = s.agenda := rfl
@[simp] theorem updGroup_ev (s : State) (k : Nat) (f : Group → Group) : (s.updGroup k f).ev = s.ev := rfl
@[simp] theorem updGroup_cur (s : State) (k : Nat) (f : Group → Group) : (s.updGroup k f).cur = s.cur := rfl
@[simp] theorem updGroup_teams (s : State) (k : Nat) (f : Group → Group) : (s.updGroup k f).teams = s.teams := rfl
@[simp] theorem updGroup_cores (s : State) (k : Nat) (f : Group → Group) : (s.updGroup k f).cores = s.cores := rfl
@[simp] theorem updGroup_ctxs (s : State) (k : Nat) (f : Group → Group) : (s.updGroup k f).ctxs = s.ctxs := rfl
@[simp] theorem updGroup_queues (s : State) (k : Nat) (f : Group → Group) : (s.updGroup k f).queues = s.queues := rfl
@[simp] theorem updGroup_grids (s : State) (k : Nat) (f : Group → Group) : (s.updGroup k f).grids = s.grids := rfl
@[simp] theorem updGroup_ops (s : State) (k : Nat) (f : Group → Group) : (s.updGroup k f).ops = s.ops := rfl
@[simp] theorem updGroup_mem (s : State) (k : Nat) (f : Group → Group) : (s.updGroup k f).mem = s.mem := rfl
@[simp] theorem updGroup_memPoison (s : State) (k : Nat) (f : Group → Group) : (s.updGroup k f).memPoison = s.memPoison := rfl
@[simp] theorem updGroup_hmem (s : State) (k : Nat) (f : Group → Group) : (s.updGroup k f).hmem = s.hmem := rfl
@[simp] theorem updGroup_saves (s : State) (k : Nat) (f : Group → Group) : (s.updGroup k f).saves = s.saves := rfl
@[simp] theorem updGroup_lost (s : State) (k : Nat) (f : Group → Group) : (s.updGroup k f).lost = s.lost := rfl
@[simp] theorem updGroup_sealed (s : State) (k : Nat) (f : Group → Group) : (s.updGroup k f).sealed = s.sealed := rfl
@[simp] theorem updGroup_dieTlb (s : State) (k : Nat) (f : Group → Group) : (s.updGroup k f).dieTlb = s.dieTlb := rfl
@[simp] theorem updGroup_pool (s : State) (k : Nat) (f : Group → Group) : (s.updGroup k f).pool = s.pool := rfl
@[simp] theorem updGroup_poolmark (s : State) (k : Nat) (f : Group → Group) : (s.updGroup k f).poolmark = s.poolmark := rfl
@[simp] theorem updGroup_birth (s : State) (k : Nat) (f : Group → Group) : (s.updGroup k f).birth = s.birth := rfl
@[simp] theorem updGroup_released (s : State) (k : Nat) (f : Group → Group) : (s.updGroup k f).released = s.released := rfl
@[simp] theorem updGroup_l2 (s : State) (k : Nat) (f : Group → Group) : (s.updGroup k f).l2 = s.l2 := rfl
@[simp] theorem updGroup_shadows (s : State) (k : Nat) (f : Group → Group) : (s.updGroup k f).shadows = s.shadows := rfl
@[simp] theorem updGroup_rels (s : State) (k : Nat) (f : Group → Group) : (s.updGroup k f).rels = s.rels := rfl
@[simp] theorem updGroup_coppice (s : State) (k : Nat) (f : Group → Group) : (s.updGroup k f).coppice = s.coppice := rfl
@[simp] theorem updGroup_lacks (s : State) (k : Nat) (f : Group → Group) : (s.updGroup k f).lacks = s.lacks := rfl
@[simp] theorem updGroup_host (s : State) (k : Nat) (f : Group → Group) : (s.updGroup k f).host = s.host := rfl
@[simp] theorem updGroup_nextOp (s : State) (k : Nat) (f : Group → Group) : (s.updGroup k f).nextOp = s.nextOp := rfl
@[simp] theorem updGroup_nextShadow (s : State) (k : Nat) (f : Group → Group) : (s.updGroup k f).nextShadow = s.nextShadow := rfl
@[simp] theorem updGroup_turn (s : State) (k : Nat) (f : Group → Group) : (s.updGroup k f).turn = s.turn := rfl
@[simp] theorem updGroup_passedBy (s : State) (k : Nat) (f : Group → Group) : (s.updGroup k f).passedBy = s.passedBy := rfl
@[simp] theorem updGroup_keptOff (s : State) (k : Nat) (f : Group → Group) : (s.updGroup k f).keptOff = s.keptOff := rfl
@[simp] theorem updGroup_overtaken (s : State) (k : Nat) (f : Group → Group) : (s.updGroup k f).overtaken = s.overtaken := rfl
@[simp] theorem updGroup_nextGrid (s : State) (k : Nat) (f : Group → Group) : (s.updGroup k f).nextGrid = s.nextGrid := rfl
@[simp] theorem updGroup_clock (s : State) (k : Nat) (f : Group → Group) : (s.updGroup k f).clock = s.clock := rfl
@[simp] theorem updGroup_free (s : State) (k : Nat) (f : Group → Group) : (s.updGroup k f).free = s.free := rfl

/-! `setTeam`. -/

@[simp] theorem setTeam_inbox (s : State) (k : Nat) (x : Team) : (s.setTeam k x).inbox = s.inbox := rfl
@[simp] theorem setTeam_loads (s : State) (k : Nat) (x : Team) : (s.setTeam k x).loads = s.loads := rfl
@[simp] theorem setTeam_agenda (s : State) (k : Nat) (x : Team) : (s.setTeam k x).agenda = s.agenda := rfl
@[simp] theorem setTeam_ev (s : State) (k : Nat) (x : Team) : (s.setTeam k x).ev = s.ev := rfl
@[simp] theorem setTeam_cur (s : State) (k : Nat) (x : Team) : (s.setTeam k x).cur = s.cur := rfl
@[simp] theorem setTeam_groups (s : State) (k : Nat) (x : Team) : (s.setTeam k x).groups = s.groups := rfl
@[simp] theorem setTeam_cores (s : State) (k : Nat) (x : Team) : (s.setTeam k x).cores = s.cores := rfl
@[simp] theorem setTeam_ctxs (s : State) (k : Nat) (x : Team) : (s.setTeam k x).ctxs = s.ctxs := rfl
@[simp] theorem setTeam_queues (s : State) (k : Nat) (x : Team) : (s.setTeam k x).queues = s.queues := rfl
@[simp] theorem setTeam_grids (s : State) (k : Nat) (x : Team) : (s.setTeam k x).grids = s.grids := rfl
@[simp] theorem setTeam_ops (s : State) (k : Nat) (x : Team) : (s.setTeam k x).ops = s.ops := rfl
@[simp] theorem setTeam_mem (s : State) (k : Nat) (x : Team) : (s.setTeam k x).mem = s.mem := rfl
@[simp] theorem setTeam_memPoison (s : State) (k : Nat) (x : Team) : (s.setTeam k x).memPoison = s.memPoison := rfl
@[simp] theorem setTeam_hmem (s : State) (k : Nat) (x : Team) : (s.setTeam k x).hmem = s.hmem := rfl
@[simp] theorem setTeam_saves (s : State) (k : Nat) (x : Team) : (s.setTeam k x).saves = s.saves := rfl
@[simp] theorem setTeam_lost (s : State) (k : Nat) (x : Team) : (s.setTeam k x).lost = s.lost := rfl
@[simp] theorem setTeam_sealed (s : State) (k : Nat) (x : Team) : (s.setTeam k x).sealed = s.sealed := rfl
@[simp] theorem setTeam_dieTlb (s : State) (k : Nat) (x : Team) : (s.setTeam k x).dieTlb = s.dieTlb := rfl
@[simp] theorem setTeam_pool (s : State) (k : Nat) (x : Team) : (s.setTeam k x).pool = s.pool := rfl
@[simp] theorem setTeam_poolmark (s : State) (k : Nat) (x : Team) : (s.setTeam k x).poolmark = s.poolmark := rfl
@[simp] theorem setTeam_birth (s : State) (k : Nat) (x : Team) : (s.setTeam k x).birth = s.birth := rfl
@[simp] theorem setTeam_released (s : State) (k : Nat) (x : Team) : (s.setTeam k x).released = s.released := rfl
@[simp] theorem setTeam_l2 (s : State) (k : Nat) (x : Team) : (s.setTeam k x).l2 = s.l2 := rfl
@[simp] theorem setTeam_shadows (s : State) (k : Nat) (x : Team) : (s.setTeam k x).shadows = s.shadows := rfl
@[simp] theorem setTeam_rels (s : State) (k : Nat) (x : Team) : (s.setTeam k x).rels = s.rels := rfl
@[simp] theorem setTeam_coppice (s : State) (k : Nat) (x : Team) : (s.setTeam k x).coppice = s.coppice := rfl
@[simp] theorem setTeam_lacks (s : State) (k : Nat) (x : Team) : (s.setTeam k x).lacks = s.lacks := rfl
@[simp] theorem setTeam_host (s : State) (k : Nat) (x : Team) : (s.setTeam k x).host = s.host := rfl
@[simp] theorem setTeam_nextOp (s : State) (k : Nat) (x : Team) : (s.setTeam k x).nextOp = s.nextOp := rfl
@[simp] theorem setTeam_nextShadow (s : State) (k : Nat) (x : Team) : (s.setTeam k x).nextShadow = s.nextShadow := rfl
@[simp] theorem setTeam_turn (s : State) (k : Nat) (x : Team) : (s.setTeam k x).turn = s.turn := rfl
@[simp] theorem setTeam_passedBy (s : State) (k : Nat) (x : Team) : (s.setTeam k x).passedBy = s.passedBy := rfl
@[simp] theorem setTeam_keptOff (s : State) (k : Nat) (x : Team) : (s.setTeam k x).keptOff = s.keptOff := rfl
@[simp] theorem setTeam_overtaken (s : State) (k : Nat) (x : Team) : (s.setTeam k x).overtaken = s.overtaken := rfl
@[simp] theorem setTeam_nextGrid (s : State) (k : Nat) (x : Team) : (s.setTeam k x).nextGrid = s.nextGrid := rfl
@[simp] theorem setTeam_clock (s : State) (k : Nat) (x : Team) : (s.setTeam k x).clock = s.clock := rfl
@[simp] theorem setTeam_free (s : State) (k : Nat) (x : Team) : (s.setTeam k x).free = s.free := rfl

/-! `updTeam`. -/

@[simp] theorem updTeam_inbox (s : State) (k : Nat) (f : Team → Team) : (s.updTeam k f).inbox = s.inbox := rfl
@[simp] theorem updTeam_loads (s : State) (k : Nat) (f : Team → Team) : (s.updTeam k f).loads = s.loads := rfl
@[simp] theorem updTeam_agenda (s : State) (k : Nat) (f : Team → Team) : (s.updTeam k f).agenda = s.agenda := rfl
@[simp] theorem updTeam_ev (s : State) (k : Nat) (f : Team → Team) : (s.updTeam k f).ev = s.ev := rfl
@[simp] theorem updTeam_cur (s : State) (k : Nat) (f : Team → Team) : (s.updTeam k f).cur = s.cur := rfl
@[simp] theorem updTeam_groups (s : State) (k : Nat) (f : Team → Team) : (s.updTeam k f).groups = s.groups := rfl
@[simp] theorem updTeam_cores (s : State) (k : Nat) (f : Team → Team) : (s.updTeam k f).cores = s.cores := rfl
@[simp] theorem updTeam_ctxs (s : State) (k : Nat) (f : Team → Team) : (s.updTeam k f).ctxs = s.ctxs := rfl
@[simp] theorem updTeam_queues (s : State) (k : Nat) (f : Team → Team) : (s.updTeam k f).queues = s.queues := rfl
@[simp] theorem updTeam_grids (s : State) (k : Nat) (f : Team → Team) : (s.updTeam k f).grids = s.grids := rfl
@[simp] theorem updTeam_ops (s : State) (k : Nat) (f : Team → Team) : (s.updTeam k f).ops = s.ops := rfl
@[simp] theorem updTeam_mem (s : State) (k : Nat) (f : Team → Team) : (s.updTeam k f).mem = s.mem := rfl
@[simp] theorem updTeam_memPoison (s : State) (k : Nat) (f : Team → Team) : (s.updTeam k f).memPoison = s.memPoison := rfl
@[simp] theorem updTeam_hmem (s : State) (k : Nat) (f : Team → Team) : (s.updTeam k f).hmem = s.hmem := rfl
@[simp] theorem updTeam_saves (s : State) (k : Nat) (f : Team → Team) : (s.updTeam k f).saves = s.saves := rfl
@[simp] theorem updTeam_lost (s : State) (k : Nat) (f : Team → Team) : (s.updTeam k f).lost = s.lost := rfl
@[simp] theorem updTeam_sealed (s : State) (k : Nat) (f : Team → Team) : (s.updTeam k f).sealed = s.sealed := rfl
@[simp] theorem updTeam_dieTlb (s : State) (k : Nat) (f : Team → Team) : (s.updTeam k f).dieTlb = s.dieTlb := rfl
@[simp] theorem updTeam_pool (s : State) (k : Nat) (f : Team → Team) : (s.updTeam k f).pool = s.pool := rfl
@[simp] theorem updTeam_poolmark (s : State) (k : Nat) (f : Team → Team) : (s.updTeam k f).poolmark = s.poolmark := rfl
@[simp] theorem updTeam_birth (s : State) (k : Nat) (f : Team → Team) : (s.updTeam k f).birth = s.birth := rfl
@[simp] theorem updTeam_released (s : State) (k : Nat) (f : Team → Team) : (s.updTeam k f).released = s.released := rfl
@[simp] theorem updTeam_l2 (s : State) (k : Nat) (f : Team → Team) : (s.updTeam k f).l2 = s.l2 := rfl
@[simp] theorem updTeam_shadows (s : State) (k : Nat) (f : Team → Team) : (s.updTeam k f).shadows = s.shadows := rfl
@[simp] theorem updTeam_rels (s : State) (k : Nat) (f : Team → Team) : (s.updTeam k f).rels = s.rels := rfl
@[simp] theorem updTeam_coppice (s : State) (k : Nat) (f : Team → Team) : (s.updTeam k f).coppice = s.coppice := rfl
@[simp] theorem updTeam_lacks (s : State) (k : Nat) (f : Team → Team) : (s.updTeam k f).lacks = s.lacks := rfl
@[simp] theorem updTeam_host (s : State) (k : Nat) (f : Team → Team) : (s.updTeam k f).host = s.host := rfl
@[simp] theorem updTeam_nextOp (s : State) (k : Nat) (f : Team → Team) : (s.updTeam k f).nextOp = s.nextOp := rfl
@[simp] theorem updTeam_nextShadow (s : State) (k : Nat) (f : Team → Team) : (s.updTeam k f).nextShadow = s.nextShadow := rfl
@[simp] theorem updTeam_turn (s : State) (k : Nat) (f : Team → Team) : (s.updTeam k f).turn = s.turn := rfl
@[simp] theorem updTeam_passedBy (s : State) (k : Nat) (f : Team → Team) : (s.updTeam k f).passedBy = s.passedBy := rfl
@[simp] theorem updTeam_keptOff (s : State) (k : Nat) (f : Team → Team) : (s.updTeam k f).keptOff = s.keptOff := rfl
@[simp] theorem updTeam_overtaken (s : State) (k : Nat) (f : Team → Team) : (s.updTeam k f).overtaken = s.overtaken := rfl
@[simp] theorem updTeam_nextGrid (s : State) (k : Nat) (f : Team → Team) : (s.updTeam k f).nextGrid = s.nextGrid := rfl
@[simp] theorem updTeam_clock (s : State) (k : Nat) (f : Team → Team) : (s.updTeam k f).clock = s.clock := rfl
@[simp] theorem updTeam_free (s : State) (k : Nat) (f : Team → Team) : (s.updTeam k f).free = s.free := rfl

/-! `updCore`. -/

@[simp] theorem updCore_inbox (s : State) (k : Nat) (f : Core → Core) : (s.updCore k f).inbox = s.inbox := rfl
@[simp] theorem updCore_loads (s : State) (k : Nat) (f : Core → Core) : (s.updCore k f).loads = s.loads := rfl
@[simp] theorem updCore_agenda (s : State) (k : Nat) (f : Core → Core) : (s.updCore k f).agenda = s.agenda := rfl
@[simp] theorem updCore_ev (s : State) (k : Nat) (f : Core → Core) : (s.updCore k f).ev = s.ev := rfl
@[simp] theorem updCore_cur (s : State) (k : Nat) (f : Core → Core) : (s.updCore k f).cur = s.cur := rfl
@[simp] theorem updCore_groups (s : State) (k : Nat) (f : Core → Core) : (s.updCore k f).groups = s.groups := rfl
@[simp] theorem updCore_teams (s : State) (k : Nat) (f : Core → Core) : (s.updCore k f).teams = s.teams := rfl
@[simp] theorem updCore_ctxs (s : State) (k : Nat) (f : Core → Core) : (s.updCore k f).ctxs = s.ctxs := rfl
@[simp] theorem updCore_queues (s : State) (k : Nat) (f : Core → Core) : (s.updCore k f).queues = s.queues := rfl
@[simp] theorem updCore_grids (s : State) (k : Nat) (f : Core → Core) : (s.updCore k f).grids = s.grids := rfl
@[simp] theorem updCore_ops (s : State) (k : Nat) (f : Core → Core) : (s.updCore k f).ops = s.ops := rfl
@[simp] theorem updCore_mem (s : State) (k : Nat) (f : Core → Core) : (s.updCore k f).mem = s.mem := rfl
@[simp] theorem updCore_memPoison (s : State) (k : Nat) (f : Core → Core) : (s.updCore k f).memPoison = s.memPoison := rfl
@[simp] theorem updCore_hmem (s : State) (k : Nat) (f : Core → Core) : (s.updCore k f).hmem = s.hmem := rfl
@[simp] theorem updCore_saves (s : State) (k : Nat) (f : Core → Core) : (s.updCore k f).saves = s.saves := rfl
@[simp] theorem updCore_lost (s : State) (k : Nat) (f : Core → Core) : (s.updCore k f).lost = s.lost := rfl
@[simp] theorem updCore_sealed (s : State) (k : Nat) (f : Core → Core) : (s.updCore k f).sealed = s.sealed := rfl
@[simp] theorem updCore_dieTlb (s : State) (k : Nat) (f : Core → Core) : (s.updCore k f).dieTlb = s.dieTlb := rfl
@[simp] theorem updCore_pool (s : State) (k : Nat) (f : Core → Core) : (s.updCore k f).pool = s.pool := rfl
@[simp] theorem updCore_poolmark (s : State) (k : Nat) (f : Core → Core) : (s.updCore k f).poolmark = s.poolmark := rfl
@[simp] theorem updCore_birth (s : State) (k : Nat) (f : Core → Core) : (s.updCore k f).birth = s.birth := rfl
@[simp] theorem updCore_released (s : State) (k : Nat) (f : Core → Core) : (s.updCore k f).released = s.released := rfl
@[simp] theorem updCore_l2 (s : State) (k : Nat) (f : Core → Core) : (s.updCore k f).l2 = s.l2 := rfl
@[simp] theorem updCore_shadows (s : State) (k : Nat) (f : Core → Core) : (s.updCore k f).shadows = s.shadows := rfl
@[simp] theorem updCore_rels (s : State) (k : Nat) (f : Core → Core) : (s.updCore k f).rels = s.rels := rfl
@[simp] theorem updCore_coppice (s : State) (k : Nat) (f : Core → Core) : (s.updCore k f).coppice = s.coppice := rfl
@[simp] theorem updCore_lacks (s : State) (k : Nat) (f : Core → Core) : (s.updCore k f).lacks = s.lacks := rfl
@[simp] theorem updCore_host (s : State) (k : Nat) (f : Core → Core) : (s.updCore k f).host = s.host := rfl
@[simp] theorem updCore_nextOp (s : State) (k : Nat) (f : Core → Core) : (s.updCore k f).nextOp = s.nextOp := rfl
@[simp] theorem updCore_nextShadow (s : State) (k : Nat) (f : Core → Core) : (s.updCore k f).nextShadow = s.nextShadow := rfl
@[simp] theorem updCore_turn (s : State) (k : Nat) (f : Core → Core) : (s.updCore k f).turn = s.turn := rfl
@[simp] theorem updCore_passedBy (s : State) (k : Nat) (f : Core → Core) : (s.updCore k f).passedBy = s.passedBy := rfl
@[simp] theorem updCore_keptOff (s : State) (k : Nat) (f : Core → Core) : (s.updCore k f).keptOff = s.keptOff := rfl
@[simp] theorem updCore_overtaken (s : State) (k : Nat) (f : Core → Core) : (s.updCore k f).overtaken = s.overtaken := rfl
@[simp] theorem updCore_nextGrid (s : State) (k : Nat) (f : Core → Core) : (s.updCore k f).nextGrid = s.nextGrid := rfl
@[simp] theorem updCore_clock (s : State) (k : Nat) (f : Core → Core) : (s.updCore k f).clock = s.clock := rfl
@[simp] theorem updCore_free (s : State) (k : Nat) (f : Core → Core) : (s.updCore k f).free = s.free := rfl

/-! `updCtx`. -/

@[simp] theorem updCtx_inbox (s : State) (k : Nat) (f : Ctx → Ctx) : (s.updCtx k f).inbox = s.inbox := rfl
@[simp] theorem updCtx_loads (s : State) (k : Nat) (f : Ctx → Ctx) : (s.updCtx k f).loads = s.loads := rfl
@[simp] theorem updCtx_agenda (s : State) (k : Nat) (f : Ctx → Ctx) : (s.updCtx k f).agenda = s.agenda := rfl
@[simp] theorem updCtx_ev (s : State) (k : Nat) (f : Ctx → Ctx) : (s.updCtx k f).ev = s.ev := rfl
@[simp] theorem updCtx_cur (s : State) (k : Nat) (f : Ctx → Ctx) : (s.updCtx k f).cur = s.cur := rfl
@[simp] theorem updCtx_groups (s : State) (k : Nat) (f : Ctx → Ctx) : (s.updCtx k f).groups = s.groups := rfl
@[simp] theorem updCtx_teams (s : State) (k : Nat) (f : Ctx → Ctx) : (s.updCtx k f).teams = s.teams := rfl
@[simp] theorem updCtx_cores (s : State) (k : Nat) (f : Ctx → Ctx) : (s.updCtx k f).cores = s.cores := rfl
@[simp] theorem updCtx_queues (s : State) (k : Nat) (f : Ctx → Ctx) : (s.updCtx k f).queues = s.queues := rfl
@[simp] theorem updCtx_grids (s : State) (k : Nat) (f : Ctx → Ctx) : (s.updCtx k f).grids = s.grids := rfl
@[simp] theorem updCtx_ops (s : State) (k : Nat) (f : Ctx → Ctx) : (s.updCtx k f).ops = s.ops := rfl
@[simp] theorem updCtx_mem (s : State) (k : Nat) (f : Ctx → Ctx) : (s.updCtx k f).mem = s.mem := rfl
@[simp] theorem updCtx_memPoison (s : State) (k : Nat) (f : Ctx → Ctx) : (s.updCtx k f).memPoison = s.memPoison := rfl
@[simp] theorem updCtx_hmem (s : State) (k : Nat) (f : Ctx → Ctx) : (s.updCtx k f).hmem = s.hmem := rfl
@[simp] theorem updCtx_saves (s : State) (k : Nat) (f : Ctx → Ctx) : (s.updCtx k f).saves = s.saves := rfl
@[simp] theorem updCtx_lost (s : State) (k : Nat) (f : Ctx → Ctx) : (s.updCtx k f).lost = s.lost := rfl
@[simp] theorem updCtx_sealed (s : State) (k : Nat) (f : Ctx → Ctx) : (s.updCtx k f).sealed = s.sealed := rfl
@[simp] theorem updCtx_dieTlb (s : State) (k : Nat) (f : Ctx → Ctx) : (s.updCtx k f).dieTlb = s.dieTlb := rfl
@[simp] theorem updCtx_pool (s : State) (k : Nat) (f : Ctx → Ctx) : (s.updCtx k f).pool = s.pool := rfl
@[simp] theorem updCtx_poolmark (s : State) (k : Nat) (f : Ctx → Ctx) : (s.updCtx k f).poolmark = s.poolmark := rfl
@[simp] theorem updCtx_birth (s : State) (k : Nat) (f : Ctx → Ctx) : (s.updCtx k f).birth = s.birth := rfl
@[simp] theorem updCtx_released (s : State) (k : Nat) (f : Ctx → Ctx) : (s.updCtx k f).released = s.released := rfl
@[simp] theorem updCtx_l2 (s : State) (k : Nat) (f : Ctx → Ctx) : (s.updCtx k f).l2 = s.l2 := rfl
@[simp] theorem updCtx_shadows (s : State) (k : Nat) (f : Ctx → Ctx) : (s.updCtx k f).shadows = s.shadows := rfl
@[simp] theorem updCtx_rels (s : State) (k : Nat) (f : Ctx → Ctx) : (s.updCtx k f).rels = s.rels := rfl
@[simp] theorem updCtx_coppice (s : State) (k : Nat) (f : Ctx → Ctx) : (s.updCtx k f).coppice = s.coppice := rfl
@[simp] theorem updCtx_lacks (s : State) (k : Nat) (f : Ctx → Ctx) : (s.updCtx k f).lacks = s.lacks := rfl
@[simp] theorem updCtx_host (s : State) (k : Nat) (f : Ctx → Ctx) : (s.updCtx k f).host = s.host := rfl
@[simp] theorem updCtx_nextOp (s : State) (k : Nat) (f : Ctx → Ctx) : (s.updCtx k f).nextOp = s.nextOp := rfl
@[simp] theorem updCtx_nextShadow (s : State) (k : Nat) (f : Ctx → Ctx) : (s.updCtx k f).nextShadow = s.nextShadow := rfl
@[simp] theorem updCtx_turn (s : State) (k : Nat) (f : Ctx → Ctx) : (s.updCtx k f).turn = s.turn := rfl
@[simp] theorem updCtx_passedBy (s : State) (k : Nat) (f : Ctx → Ctx) : (s.updCtx k f).passedBy = s.passedBy := rfl
@[simp] theorem updCtx_keptOff (s : State) (k : Nat) (f : Ctx → Ctx) : (s.updCtx k f).keptOff = s.keptOff := rfl
@[simp] theorem updCtx_overtaken (s : State) (k : Nat) (f : Ctx → Ctx) : (s.updCtx k f).overtaken = s.overtaken := rfl
@[simp] theorem updCtx_nextGrid (s : State) (k : Nat) (f : Ctx → Ctx) : (s.updCtx k f).nextGrid = s.nextGrid := rfl
@[simp] theorem updCtx_clock (s : State) (k : Nat) (f : Ctx → Ctx) : (s.updCtx k f).clock = s.clock := rfl
@[simp] theorem updCtx_free (s : State) (k : Nat) (f : Ctx → Ctx) : (s.updCtx k f).free = s.free := rfl

/-! `updQueue`. -/

@[simp] theorem updQueue_inbox (s : State) (k : Nat) (f : Queue → Queue) : (s.updQueue k f).inbox = s.inbox := rfl
@[simp] theorem updQueue_loads (s : State) (k : Nat) (f : Queue → Queue) : (s.updQueue k f).loads = s.loads := rfl
@[simp] theorem updQueue_agenda (s : State) (k : Nat) (f : Queue → Queue) : (s.updQueue k f).agenda = s.agenda := rfl
@[simp] theorem updQueue_ev (s : State) (k : Nat) (f : Queue → Queue) : (s.updQueue k f).ev = s.ev := rfl
@[simp] theorem updQueue_cur (s : State) (k : Nat) (f : Queue → Queue) : (s.updQueue k f).cur = s.cur := rfl
@[simp] theorem updQueue_groups (s : State) (k : Nat) (f : Queue → Queue) : (s.updQueue k f).groups = s.groups := rfl
@[simp] theorem updQueue_teams (s : State) (k : Nat) (f : Queue → Queue) : (s.updQueue k f).teams = s.teams := rfl
@[simp] theorem updQueue_cores (s : State) (k : Nat) (f : Queue → Queue) : (s.updQueue k f).cores = s.cores := rfl
@[simp] theorem updQueue_ctxs (s : State) (k : Nat) (f : Queue → Queue) : (s.updQueue k f).ctxs = s.ctxs := rfl
@[simp] theorem updQueue_grids (s : State) (k : Nat) (f : Queue → Queue) : (s.updQueue k f).grids = s.grids := rfl
@[simp] theorem updQueue_ops (s : State) (k : Nat) (f : Queue → Queue) : (s.updQueue k f).ops = s.ops := rfl
@[simp] theorem updQueue_mem (s : State) (k : Nat) (f : Queue → Queue) : (s.updQueue k f).mem = s.mem := rfl
@[simp] theorem updQueue_memPoison (s : State) (k : Nat) (f : Queue → Queue) : (s.updQueue k f).memPoison = s.memPoison := rfl
@[simp] theorem updQueue_hmem (s : State) (k : Nat) (f : Queue → Queue) : (s.updQueue k f).hmem = s.hmem := rfl
@[simp] theorem updQueue_saves (s : State) (k : Nat) (f : Queue → Queue) : (s.updQueue k f).saves = s.saves := rfl
@[simp] theorem updQueue_lost (s : State) (k : Nat) (f : Queue → Queue) : (s.updQueue k f).lost = s.lost := rfl
@[simp] theorem updQueue_sealed (s : State) (k : Nat) (f : Queue → Queue) : (s.updQueue k f).sealed = s.sealed := rfl
@[simp] theorem updQueue_dieTlb (s : State) (k : Nat) (f : Queue → Queue) : (s.updQueue k f).dieTlb = s.dieTlb := rfl
@[simp] theorem updQueue_pool (s : State) (k : Nat) (f : Queue → Queue) : (s.updQueue k f).pool = s.pool := rfl
@[simp] theorem updQueue_poolmark (s : State) (k : Nat) (f : Queue → Queue) : (s.updQueue k f).poolmark = s.poolmark := rfl
@[simp] theorem updQueue_birth (s : State) (k : Nat) (f : Queue → Queue) : (s.updQueue k f).birth = s.birth := rfl
@[simp] theorem updQueue_released (s : State) (k : Nat) (f : Queue → Queue) : (s.updQueue k f).released = s.released := rfl
@[simp] theorem updQueue_l2 (s : State) (k : Nat) (f : Queue → Queue) : (s.updQueue k f).l2 = s.l2 := rfl
@[simp] theorem updQueue_shadows (s : State) (k : Nat) (f : Queue → Queue) : (s.updQueue k f).shadows = s.shadows := rfl
@[simp] theorem updQueue_rels (s : State) (k : Nat) (f : Queue → Queue) : (s.updQueue k f).rels = s.rels := rfl
@[simp] theorem updQueue_coppice (s : State) (k : Nat) (f : Queue → Queue) : (s.updQueue k f).coppice = s.coppice := rfl
@[simp] theorem updQueue_lacks (s : State) (k : Nat) (f : Queue → Queue) : (s.updQueue k f).lacks = s.lacks := rfl
@[simp] theorem updQueue_host (s : State) (k : Nat) (f : Queue → Queue) : (s.updQueue k f).host = s.host := rfl
@[simp] theorem updQueue_nextOp (s : State) (k : Nat) (f : Queue → Queue) : (s.updQueue k f).nextOp = s.nextOp := rfl
@[simp] theorem updQueue_nextShadow (s : State) (k : Nat) (f : Queue → Queue) : (s.updQueue k f).nextShadow = s.nextShadow := rfl
@[simp] theorem updQueue_turn (s : State) (k : Nat) (f : Queue → Queue) : (s.updQueue k f).turn = s.turn := rfl
@[simp] theorem updQueue_passedBy (s : State) (k : Nat) (f : Queue → Queue) : (s.updQueue k f).passedBy = s.passedBy := rfl
@[simp] theorem updQueue_keptOff (s : State) (k : Nat) (f : Queue → Queue) : (s.updQueue k f).keptOff = s.keptOff := rfl
@[simp] theorem updQueue_overtaken (s : State) (k : Nat) (f : Queue → Queue) : (s.updQueue k f).overtaken = s.overtaken := rfl
@[simp] theorem updQueue_nextGrid (s : State) (k : Nat) (f : Queue → Queue) : (s.updQueue k f).nextGrid = s.nextGrid := rfl
@[simp] theorem updQueue_clock (s : State) (k : Nat) (f : Queue → Queue) : (s.updQueue k f).clock = s.clock := rfl
@[simp] theorem updQueue_free (s : State) (k : Nat) (f : Queue → Queue) : (s.updQueue k f).free = s.free := rfl

/-! `updHost`. -/

@[simp] theorem updHost_inbox (s : State) (f : Mgmt → Mgmt) : (s.updHost f).inbox = s.inbox := rfl
@[simp] theorem updHost_loads (s : State) (f : Mgmt → Mgmt) : (s.updHost f).loads = s.loads := rfl
@[simp] theorem updHost_agenda (s : State) (f : Mgmt → Mgmt) : (s.updHost f).agenda = s.agenda := rfl
@[simp] theorem updHost_ev (s : State) (f : Mgmt → Mgmt) : (s.updHost f).ev = s.ev := rfl
@[simp] theorem updHost_cur (s : State) (f : Mgmt → Mgmt) : (s.updHost f).cur = s.cur := rfl
@[simp] theorem updHost_groups (s : State) (f : Mgmt → Mgmt) : (s.updHost f).groups = s.groups := rfl
@[simp] theorem updHost_teams (s : State) (f : Mgmt → Mgmt) : (s.updHost f).teams = s.teams := rfl
@[simp] theorem updHost_cores (s : State) (f : Mgmt → Mgmt) : (s.updHost f).cores = s.cores := rfl
@[simp] theorem updHost_ctxs (s : State) (f : Mgmt → Mgmt) : (s.updHost f).ctxs = s.ctxs := rfl
@[simp] theorem updHost_queues (s : State) (f : Mgmt → Mgmt) : (s.updHost f).queues = s.queues := rfl
@[simp] theorem updHost_grids (s : State) (f : Mgmt → Mgmt) : (s.updHost f).grids = s.grids := rfl
@[simp] theorem updHost_ops (s : State) (f : Mgmt → Mgmt) : (s.updHost f).ops = s.ops := rfl
@[simp] theorem updHost_mem (s : State) (f : Mgmt → Mgmt) : (s.updHost f).mem = s.mem := rfl
@[simp] theorem updHost_memPoison (s : State) (f : Mgmt → Mgmt) : (s.updHost f).memPoison = s.memPoison := rfl
@[simp] theorem updHost_hmem (s : State) (f : Mgmt → Mgmt) : (s.updHost f).hmem = s.hmem := rfl
@[simp] theorem updHost_saves (s : State) (f : Mgmt → Mgmt) : (s.updHost f).saves = s.saves := rfl
@[simp] theorem updHost_lost (s : State) (f : Mgmt → Mgmt) : (s.updHost f).lost = s.lost := rfl
@[simp] theorem updHost_sealed (s : State) (f : Mgmt → Mgmt) : (s.updHost f).sealed = s.sealed := rfl
@[simp] theorem updHost_dieTlb (s : State) (f : Mgmt → Mgmt) : (s.updHost f).dieTlb = s.dieTlb := rfl
@[simp] theorem updHost_pool (s : State) (f : Mgmt → Mgmt) : (s.updHost f).pool = s.pool := rfl
@[simp] theorem updHost_poolmark (s : State) (f : Mgmt → Mgmt) : (s.updHost f).poolmark = s.poolmark := rfl
@[simp] theorem updHost_birth (s : State) (f : Mgmt → Mgmt) : (s.updHost f).birth = s.birth := rfl
@[simp] theorem updHost_released (s : State) (f : Mgmt → Mgmt) : (s.updHost f).released = s.released := rfl
@[simp] theorem updHost_l2 (s : State) (f : Mgmt → Mgmt) : (s.updHost f).l2 = s.l2 := rfl
@[simp] theorem updHost_shadows (s : State) (f : Mgmt → Mgmt) : (s.updHost f).shadows = s.shadows := rfl
@[simp] theorem updHost_rels (s : State) (f : Mgmt → Mgmt) : (s.updHost f).rels = s.rels := rfl
@[simp] theorem updHost_coppice (s : State) (f : Mgmt → Mgmt) : (s.updHost f).coppice = s.coppice := rfl
@[simp] theorem updHost_lacks (s : State) (f : Mgmt → Mgmt) : (s.updHost f).lacks = s.lacks := rfl
@[simp] theorem updHost_nextOp (s : State) (f : Mgmt → Mgmt) : (s.updHost f).nextOp = s.nextOp := rfl
@[simp] theorem updHost_nextShadow (s : State) (f : Mgmt → Mgmt) : (s.updHost f).nextShadow = s.nextShadow := rfl
@[simp] theorem updHost_turn (s : State) (f : Mgmt → Mgmt) : (s.updHost f).turn = s.turn := rfl
@[simp] theorem updHost_passedBy (s : State) (f : Mgmt → Mgmt) : (s.updHost f).passedBy = s.passedBy := rfl
@[simp] theorem updHost_keptOff (s : State) (f : Mgmt → Mgmt) : (s.updHost f).keptOff = s.keptOff := rfl
@[simp] theorem updHost_overtaken (s : State) (f : Mgmt → Mgmt) : (s.updHost f).overtaken = s.overtaken := rfl
@[simp] theorem updHost_nextGrid (s : State) (f : Mgmt → Mgmt) : (s.updHost f).nextGrid = s.nextGrid := rfl
@[simp] theorem updHost_clock (s : State) (f : Mgmt → Mgmt) : (s.updHost f).clock = s.clock := rfl
@[simp] theorem updHost_free (s : State) (f : Mgmt → Mgmt) : (s.updHost f).free = s.free := rfl

/-! `updPath`. -/

@[simp] theorem updPath_inbox (s : State) (r : PathRef) (f : Path → Path) : (s.updPath r f).inbox = s.inbox := rfl
@[simp] theorem updPath_loads (s : State) (r : PathRef) (f : Path → Path) : (s.updPath r f).loads = s.loads := rfl
@[simp] theorem updPath_agenda (s : State) (r : PathRef) (f : Path → Path) : (s.updPath r f).agenda = s.agenda := rfl
@[simp] theorem updPath_ev (s : State) (r : PathRef) (f : Path → Path) : (s.updPath r f).ev = s.ev := rfl
@[simp] theorem updPath_cur (s : State) (r : PathRef) (f : Path → Path) : (s.updPath r f).cur = s.cur := rfl
@[simp] theorem updPath_teams (s : State) (r : PathRef) (f : Path → Path) : (s.updPath r f).teams = s.teams := rfl
@[simp] theorem updPath_cores (s : State) (r : PathRef) (f : Path → Path) : (s.updPath r f).cores = s.cores := rfl
@[simp] theorem updPath_ctxs (s : State) (r : PathRef) (f : Path → Path) : (s.updPath r f).ctxs = s.ctxs := rfl
@[simp] theorem updPath_queues (s : State) (r : PathRef) (f : Path → Path) : (s.updPath r f).queues = s.queues := rfl
@[simp] theorem updPath_grids (s : State) (r : PathRef) (f : Path → Path) : (s.updPath r f).grids = s.grids := rfl
@[simp] theorem updPath_ops (s : State) (r : PathRef) (f : Path → Path) : (s.updPath r f).ops = s.ops := rfl
@[simp] theorem updPath_mem (s : State) (r : PathRef) (f : Path → Path) : (s.updPath r f).mem = s.mem := rfl
@[simp] theorem updPath_memPoison (s : State) (r : PathRef) (f : Path → Path) : (s.updPath r f).memPoison = s.memPoison := rfl
@[simp] theorem updPath_hmem (s : State) (r : PathRef) (f : Path → Path) : (s.updPath r f).hmem = s.hmem := rfl
@[simp] theorem updPath_saves (s : State) (r : PathRef) (f : Path → Path) : (s.updPath r f).saves = s.saves := rfl
@[simp] theorem updPath_lost (s : State) (r : PathRef) (f : Path → Path) : (s.updPath r f).lost = s.lost := rfl
@[simp] theorem updPath_sealed (s : State) (r : PathRef) (f : Path → Path) : (s.updPath r f).sealed = s.sealed := rfl
@[simp] theorem updPath_dieTlb (s : State) (r : PathRef) (f : Path → Path) : (s.updPath r f).dieTlb = s.dieTlb := rfl
@[simp] theorem updPath_pool (s : State) (r : PathRef) (f : Path → Path) : (s.updPath r f).pool = s.pool := rfl
@[simp] theorem updPath_poolmark (s : State) (r : PathRef) (f : Path → Path) : (s.updPath r f).poolmark = s.poolmark := rfl
@[simp] theorem updPath_birth (s : State) (r : PathRef) (f : Path → Path) : (s.updPath r f).birth = s.birth := rfl
@[simp] theorem updPath_released (s : State) (r : PathRef) (f : Path → Path) : (s.updPath r f).released = s.released := rfl
@[simp] theorem updPath_l2 (s : State) (r : PathRef) (f : Path → Path) : (s.updPath r f).l2 = s.l2 := rfl
@[simp] theorem updPath_shadows (s : State) (r : PathRef) (f : Path → Path) : (s.updPath r f).shadows = s.shadows := rfl
@[simp] theorem updPath_rels (s : State) (r : PathRef) (f : Path → Path) : (s.updPath r f).rels = s.rels := rfl
@[simp] theorem updPath_coppice (s : State) (r : PathRef) (f : Path → Path) : (s.updPath r f).coppice = s.coppice := rfl
@[simp] theorem updPath_lacks (s : State) (r : PathRef) (f : Path → Path) : (s.updPath r f).lacks = s.lacks := rfl
@[simp] theorem updPath_host (s : State) (r : PathRef) (f : Path → Path) : (s.updPath r f).host = s.host := rfl
@[simp] theorem updPath_nextOp (s : State) (r : PathRef) (f : Path → Path) : (s.updPath r f).nextOp = s.nextOp := rfl
@[simp] theorem updPath_nextShadow (s : State) (r : PathRef) (f : Path → Path) : (s.updPath r f).nextShadow = s.nextShadow := rfl
@[simp] theorem updPath_turn (s : State) (r : PathRef) (f : Path → Path) : (s.updPath r f).turn = s.turn := rfl
@[simp] theorem updPath_passedBy (s : State) (r : PathRef) (f : Path → Path) : (s.updPath r f).passedBy = s.passedBy := rfl
@[simp] theorem updPath_keptOff (s : State) (r : PathRef) (f : Path → Path) : (s.updPath r f).keptOff = s.keptOff := rfl
@[simp] theorem updPath_overtaken (s : State) (r : PathRef) (f : Path → Path) : (s.updPath r f).overtaken = s.overtaken := rfl
@[simp] theorem updPath_nextGrid (s : State) (r : PathRef) (f : Path → Path) : (s.updPath r f).nextGrid = s.nextGrid := rfl
@[simp] theorem updPath_clock (s : State) (r : PathRef) (f : Path → Path) : (s.updPath r f).clock = s.clock := rfl
@[simp] theorem updPath_free (s : State) (r : PathRef) (f : Path → Path) : (s.updPath r f).free = s.free := rfl

/-! `onLanes`. -/

@[simp] theorem onLanes_inbox (s : State) (k : Nat) (ls : List Nat) (f : Nat → Lane → Lane) : (s.onLanes k ls f).inbox = s.inbox := rfl
@[simp] theorem onLanes_loads (s : State) (k : Nat) (ls : List Nat) (f : Nat → Lane → Lane) : (s.onLanes k ls f).loads = s.loads := rfl
@[simp] theorem onLanes_agenda (s : State) (k : Nat) (ls : List Nat) (f : Nat → Lane → Lane) : (s.onLanes k ls f).agenda = s.agenda := rfl
@[simp] theorem onLanes_ev (s : State) (k : Nat) (ls : List Nat) (f : Nat → Lane → Lane) : (s.onLanes k ls f).ev = s.ev := rfl
@[simp] theorem onLanes_cur (s : State) (k : Nat) (ls : List Nat) (f : Nat → Lane → Lane) : (s.onLanes k ls f).cur = s.cur := rfl
@[simp] theorem onLanes_teams (s : State) (k : Nat) (ls : List Nat) (f : Nat → Lane → Lane) : (s.onLanes k ls f).teams = s.teams := rfl
@[simp] theorem onLanes_cores (s : State) (k : Nat) (ls : List Nat) (f : Nat → Lane → Lane) : (s.onLanes k ls f).cores = s.cores := rfl
@[simp] theorem onLanes_ctxs (s : State) (k : Nat) (ls : List Nat) (f : Nat → Lane → Lane) : (s.onLanes k ls f).ctxs = s.ctxs := rfl
@[simp] theorem onLanes_queues (s : State) (k : Nat) (ls : List Nat) (f : Nat → Lane → Lane) : (s.onLanes k ls f).queues = s.queues := rfl
@[simp] theorem onLanes_grids (s : State) (k : Nat) (ls : List Nat) (f : Nat → Lane → Lane) : (s.onLanes k ls f).grids = s.grids := rfl
@[simp] theorem onLanes_ops (s : State) (k : Nat) (ls : List Nat) (f : Nat → Lane → Lane) : (s.onLanes k ls f).ops = s.ops := rfl
@[simp] theorem onLanes_mem (s : State) (k : Nat) (ls : List Nat) (f : Nat → Lane → Lane) : (s.onLanes k ls f).mem = s.mem := rfl
@[simp] theorem onLanes_memPoison (s : State) (k : Nat) (ls : List Nat) (f : Nat → Lane → Lane) : (s.onLanes k ls f).memPoison = s.memPoison := rfl
@[simp] theorem onLanes_hmem (s : State) (k : Nat) (ls : List Nat) (f : Nat → Lane → Lane) : (s.onLanes k ls f).hmem = s.hmem := rfl
@[simp] theorem onLanes_saves (s : State) (k : Nat) (ls : List Nat) (f : Nat → Lane → Lane) : (s.onLanes k ls f).saves = s.saves := rfl
@[simp] theorem onLanes_lost (s : State) (k : Nat) (ls : List Nat) (f : Nat → Lane → Lane) : (s.onLanes k ls f).lost = s.lost := rfl
@[simp] theorem onLanes_sealed (s : State) (k : Nat) (ls : List Nat) (f : Nat → Lane → Lane) : (s.onLanes k ls f).sealed = s.sealed := rfl
@[simp] theorem onLanes_dieTlb (s : State) (k : Nat) (ls : List Nat) (f : Nat → Lane → Lane) : (s.onLanes k ls f).dieTlb = s.dieTlb := rfl
@[simp] theorem onLanes_pool (s : State) (k : Nat) (ls : List Nat) (f : Nat → Lane → Lane) : (s.onLanes k ls f).pool = s.pool := rfl
@[simp] theorem onLanes_poolmark (s : State) (k : Nat) (ls : List Nat) (f : Nat → Lane → Lane) : (s.onLanes k ls f).poolmark = s.poolmark := rfl
@[simp] theorem onLanes_birth (s : State) (k : Nat) (ls : List Nat) (f : Nat → Lane → Lane) : (s.onLanes k ls f).birth = s.birth := rfl
@[simp] theorem onLanes_released (s : State) (k : Nat) (ls : List Nat) (f : Nat → Lane → Lane) : (s.onLanes k ls f).released = s.released := rfl
@[simp] theorem onLanes_l2 (s : State) (k : Nat) (ls : List Nat) (f : Nat → Lane → Lane) : (s.onLanes k ls f).l2 = s.l2 := rfl
@[simp] theorem onLanes_shadows (s : State) (k : Nat) (ls : List Nat) (f : Nat → Lane → Lane) : (s.onLanes k ls f).shadows = s.shadows := rfl
@[simp] theorem onLanes_rels (s : State) (k : Nat) (ls : List Nat) (f : Nat → Lane → Lane) : (s.onLanes k ls f).rels = s.rels := rfl
@[simp] theorem onLanes_coppice (s : State) (k : Nat) (ls : List Nat) (f : Nat → Lane → Lane) : (s.onLanes k ls f).coppice = s.coppice := rfl
@[simp] theorem onLanes_lacks (s : State) (k : Nat) (ls : List Nat) (f : Nat → Lane → Lane) : (s.onLanes k ls f).lacks = s.lacks := rfl
@[simp] theorem onLanes_host (s : State) (k : Nat) (ls : List Nat) (f : Nat → Lane → Lane) : (s.onLanes k ls f).host = s.host := rfl
@[simp] theorem onLanes_nextOp (s : State) (k : Nat) (ls : List Nat) (f : Nat → Lane → Lane) : (s.onLanes k ls f).nextOp = s.nextOp := rfl
@[simp] theorem onLanes_nextShadow (s : State) (k : Nat) (ls : List Nat) (f : Nat → Lane → Lane) : (s.onLanes k ls f).nextShadow = s.nextShadow := rfl
@[simp] theorem onLanes_turn (s : State) (k : Nat) (ls : List Nat) (f : Nat → Lane → Lane) : (s.onLanes k ls f).turn = s.turn := rfl
@[simp] theorem onLanes_passedBy (s : State) (k : Nat) (ls : List Nat) (f : Nat → Lane → Lane) : (s.onLanes k ls f).passedBy = s.passedBy := rfl
@[simp] theorem onLanes_keptOff (s : State) (k : Nat) (ls : List Nat) (f : Nat → Lane → Lane) : (s.onLanes k ls f).keptOff = s.keptOff := rfl
@[simp] theorem onLanes_overtaken (s : State) (k : Nat) (ls : List Nat) (f : Nat → Lane → Lane) : (s.onLanes k ls f).overtaken = s.overtaken := rfl
@[simp] theorem onLanes_nextGrid (s : State) (k : Nat) (ls : List Nat) (f : Nat → Lane → Lane) : (s.onLanes k ls f).nextGrid = s.nextGrid := rfl
@[simp] theorem onLanes_clock (s : State) (k : Nat) (ls : List Nat) (f : Nat → Lane → Lane) : (s.onLanes k ls f).clock = s.clock := rfl
@[simp] theorem onLanes_free (s : State) (k : Nat) (ls : List Nat) (f : Nat → Lane → Lane) : (s.onLanes k ls f).free = s.free := rfl

/-! Records read back. -/

theorem group_setGroup (s : State) (k j : Nat) (g : Group) : (s.setGroup k g).group j = if j = k then g else s.group j :=
  tget_tput _ _ _ _ _
@[simp] theorem group_setGroup_same (s : State) (k : Nat) (g : Group) : (s.setGroup k g).group k = g := by simp [group_setGroup]
theorem group_updGroup (s : State) (k j : Nat) (f : Group → Group) :
    (s.updGroup k f).group j = if j = k then f (s.group k) else s.group j := group_setGroup s k j _
@[simp] theorem group_updGroup_same (s : State) (k : Nat) (f : Group → Group) : (s.updGroup k f).group k = f (s.group k) := by
  simp [group_updGroup]
theorem team_setTeam (s : State) (k j : Nat) (x : Team) : (s.setTeam k x).team j = if j = k then x else s.team j :=
  tget_tput _ _ _ _ _
@[simp] theorem team_setTeam_same (s : State) (k : Nat) (x : Team) : (s.setTeam k x).team k = x := by simp [team_setTeam]
theorem team_updTeam (s : State) (k j : Nat) (f : Team → Team) :
    (s.updTeam k f).team j = if j = k then f (s.team k) else s.team j := team_setTeam s k j _
@[simp] theorem team_updTeam_same (s : State) (k : Nat) (f : Team → Team) : (s.updTeam k f).team k = f (s.team k) := by
  simp [team_updTeam]
theorem core_updCore (s : State) (k j : Nat) (f : Core → Core) :
    (s.updCore k f).core j = if j = k then f (s.core k) else s.core j := tget_tput _ _ _ _ _
@[simp] theorem core_updCore_same (s : State) (k : Nat) (f : Core → Core) : (s.updCore k f).core k = f (s.core k) := by
  simp [core_updCore]
theorem ctx_updCtx (s : State) (k j : Nat) (f : Ctx → Ctx) :
    (s.updCtx k f).ctx j = if j = k then f (s.ctx k) else s.ctx j := tget_tput _ _ _ _ _
@[simp] theorem ctx_updCtx_same (s : State) (k : Nat) (f : Ctx → Ctx) : (s.updCtx k f).ctx k = f (s.ctx k) := by simp [ctx_updCtx]
theorem queue_updQueue (s : State) (k j : Nat) (f : Queue → Queue) :
    (s.updQueue k f).queue j = if j = k then f (s.queue k) else s.queue j := tget_tput _ _ _ _ _
@[simp] theorem queue_updQueue_same (s : State) (k : Nat) (f : Queue → Queue) : (s.updQueue k f).queue k = f (s.queue k) := by
  simp [queue_updQueue]
@[simp] theorem host_updHost (s : State) (f : Mgmt → Mgmt) : (s.updHost f).host = f s.host := rfl

@[simp] theorem team_setGroup (s : State) (k : Nat) (g : Group) (j : Nat) : (s.setGroup k g).team j = s.team j := rfl
@[simp] theorem core_setGroup (s : State) (k : Nat) (g : Group) (j : Nat) : (s.setGroup k g).core j = s.core j := rfl
@[simp] theorem ctx_setGroup (s : State) (k : Nat) (g : Group) (j : Nat) : (s.setGroup k g).ctx j = s.ctx j := rfl
@[simp] theorem queue_setGroup (s : State) (k : Nat) (g : Group) (j : Nat) : (s.setGroup k g).queue j = s.queue j := rfl
@[simp] theorem team_updGroup (s : State) (k : Nat) (g : Group → Group) (j : Nat) : (s.updGroup k g).team j = s.team j := rfl
@[simp] theorem core_updGroup (s : State) (k : Nat) (g : Group → Group) (j : Nat) : (s.updGroup k g).core j = s.core j := rfl
@[simp] theorem ctx_updGroup (s : State) (k : Nat) (g : Group → Group) (j : Nat) : (s.updGroup k g).ctx j = s.ctx j := rfl
@[simp] theorem queue_updGroup (s : State) (k : Nat) (g : Group → Group) (j : Nat) : (s.updGroup k g).queue j = s.queue j := rfl
@[simp] theorem group_setTeam (s : State) (k : Nat) (g : Team) (j : Nat) : (s.setTeam k g).group j = s.group j := rfl
@[simp] theorem core_setTeam (s : State) (k : Nat) (g : Team) (j : Nat) : (s.setTeam k g).core j = s.core j := rfl
@[simp] theorem ctx_setTeam (s : State) (k : Nat) (g : Team) (j : Nat) : (s.setTeam k g).ctx j = s.ctx j := rfl
@[simp] theorem queue_setTeam (s : State) (k : Nat) (g : Team) (j : Nat) : (s.setTeam k g).queue j = s.queue j := rfl
@[simp] theorem group_updTeam (s : State) (k : Nat) (g : Team → Team) (j : Nat) : (s.updTeam k g).group j = s.group j := rfl
@[simp] theorem core_updTeam (s : State) (k : Nat) (g : Team → Team) (j : Nat) : (s.updTeam k g).core j = s.core j := rfl
@[simp] theorem ctx_updTeam (s : State) (k : Nat) (g : Team → Team) (j : Nat) : (s.updTeam k g).ctx j = s.ctx j := rfl
@[simp] theorem queue_updTeam (s : State) (k : Nat) (g : Team → Team) (j : Nat) : (s.updTeam k g).queue j = s.queue j := rfl
@[simp] theorem group_updCore (s : State) (k : Nat) (g : Core → Core) (j : Nat) : (s.updCore k g).group j = s.group j := rfl
@[simp] theorem team_updCore (s : State) (k : Nat) (g : Core → Core) (j : Nat) : (s.updCore k g).team j = s.team j := rfl
@[simp] theorem ctx_updCore (s : State) (k : Nat) (g : Core → Core) (j : Nat) : (s.updCore k g).ctx j = s.ctx j := rfl
@[simp] theorem queue_updCore (s : State) (k : Nat) (g : Core → Core) (j : Nat) : (s.updCore k g).queue j = s.queue j := rfl
@[simp] theorem group_updCtx (s : State) (k : Nat) (g : Ctx → Ctx) (j : Nat) : (s.updCtx k g).group j = s.group j := rfl
@[simp] theorem team_updCtx (s : State) (k : Nat) (g : Ctx → Ctx) (j : Nat) : (s.updCtx k g).team j = s.team j := rfl
@[simp] theorem core_updCtx (s : State) (k : Nat) (g : Ctx → Ctx) (j : Nat) : (s.updCtx k g).core j = s.core j := rfl
@[simp] theorem queue_updCtx (s : State) (k : Nat) (g : Ctx → Ctx) (j : Nat) : (s.updCtx k g).queue j = s.queue j := rfl
@[simp] theorem group_updQueue (s : State) (k : Nat) (g : Queue → Queue) (j : Nat) : (s.updQueue k g).group j = s.group j := rfl
@[simp] theorem team_updQueue (s : State) (k : Nat) (g : Queue → Queue) (j : Nat) : (s.updQueue k g).team j = s.team j := rfl
@[simp] theorem core_updQueue (s : State) (k : Nat) (g : Queue → Queue) (j : Nat) : (s.updQueue k g).core j = s.core j := rfl
@[simp] theorem ctx_updQueue (s : State) (k : Nat) (g : Queue → Queue) (j : Nat) : (s.updQueue k g).ctx j = s.ctx j := rfl

/-! Lanes and paths. -/

theorem lane_updLane (g : Group) (l j : Nat) (f : Lane → Lane) : (g.updLane l f).lane j = if j = l then f (g.lane l) else g.lane j :=
  tget_tput _ _ _ _ _
@[simp] theorem lane_updLane_same (g : Group) (l : Nat) (f : Lane → Lane) : (g.updLane l f).lane l = f (g.lane l) := by
  simp [lane_updLane]
theorem path_setPath (g : Group) (i j : Nat) (p : Path) : (g.setPath i p).path j = if j = i then p else g.path j :=
  tget_tput _ _ _ _ _
@[simp] theorem path_setPath_same (g : Group) (i : Nat) (p : Path) : (g.setPath i p).path i = p := by simp [path_setPath]
@[simp] theorem lane_setPath (g : Group) (i : Nat) (p : Path) (l : Nat) : (g.setPath i p).lane l = g.lane l := rfl
@[simp] theorem path_updLane (g : Group) (l : Nat) (f : Lane → Lane) (i : Nat) : (g.updLane l f).path i = g.path i := rfl
theorem reg_setReg (ln : Lane) (r j : Nat) (x : Word) (po : Bool) : (ln.setReg r x po).reg j = if j = r then x else ln.reg j :=
  tget_tput _ _ _ _ _
@[simp] theorem reg_setReg_same (ln : Lane) (r : Nat) (x : Word) (po : Bool) : (ln.setReg r x po).reg r = x := by simp [reg_setReg]
@[simp] theorem pred_setReg (ln : Lane) (r n : Nat) (x : Word) (po : Bool) : (ln.setReg r x po).pred n = ln.pred n := rfl
@[simp] theorem reg_raise (ln : Lane) (f : FFlags) (j : Nat) : (ln.raise f).reg j = ln.reg j := rfl
@[simp] theorem pred_raise (ln : Lane) (f : FFlags) (n : Nat) : (ln.raise f).pred n = ln.pred n := rfl
@[simp] theorem pred_zero (ln : Lane) : ln.pred 0 = true := rfl
theorem sreg_setSreg (g : Group) (n j : Nat) (x : Word) (po : Bool) : (g.setSreg n x po).sreg j = if j = n then x else g.sreg j :=
  tget_tput _ _ _ _ _
@[simp] theorem sreg_setSreg_same (g : Group) (n : Nat) (x : Word) (po : Bool) : (g.setSreg n x po).sreg n = x := by
  simp [sreg_setSreg]
@[simp] theorem lane_setSreg (g : Group) (n : Nat) (x : Word) (po : Bool) (l : Nat) : (g.setSreg n x po).lane l = g.lane l := rfl
@[simp] theorem path_setSreg (g : Group) (n : Nat) (x : Word) (po : Bool) (i : Nat) : (g.setSreg n x po).path i = g.path i := rfl
@[simp] theorem qpred_zero (g : Group) : g.qpred 0 = true := rfl

/-- A fold of updates of lanes leaves the rest of the group. -/
theorem foldl_updLane_frame (ls : List Nat) (f : Nat → Lane → Lane) (g : Group) :
    (ls.foldl (fun g l => g.updLane l (f l)) g) = { g with lanes := (ls.foldl (fun g l => g.updLane l (f l)) g).lanes } := by
  induction ls generalizing g with
  | nil => rfl
  | cons l ls ih => simp only [List.foldl_cons]; rw [ih]; rfl

/-- Each lane named once is updated once, and every other stays. -/
theorem lane_foldl_updLane (ls : List Nat) (f : Nat → Lane → Lane) (g : Group) (l : Nat) (h : ls.Nodup) :
    (ls.foldl (fun g l => g.updLane l (f l)) g).lane l = if l ∈ ls then f l (g.lane l) else g.lane l := by
  induction ls generalizing g with
  | nil => simp
  | cons x ls ih =>
    simp only [List.foldl_cons]
    rw [ih _ (List.nodup_cons.1 h).2, lane_updLane]
    by_cases hx : l = x
    · subst hx; simp [(List.nodup_cons.1 h).1]
    · simp [hx]

/-- Lanes of a mask are listed once each. -/
theorem lanesOf_nodup (m : BitVec 32) : (lanesOf m).Nodup := List.nodup_range.filter _

/-- The update of lanes, lane by lane. -/
theorem lane_onLanes (s : State) (k : Nat) (ls : List Nat) (f : Nat → Lane → Lane) (h : ls.Nodup) (l : Nat) :
    ((s.onLanes k ls f).group k).lane l = if l ∈ ls then f l ((s.group k).lane l) else (s.group k).lane l := by
  simp [State.onLanes, lane_foldl_updLane ls f _ l h]
theorem group_onLanes (s : State) (k : Nat) (ls : List Nat) (f : Nat → Lane → Lane) {j : Nat} (h : j ≠ k) :
    (s.onLanes k ls f).group j = s.group j := by simp [State.onLanes, group_updGroup, h]

end Sys2Proof.Machine
end

