-- ==== Sys2Proof/Laws/Bytes.lean ====
section
/-! SUPPORT. What a read finds after a write of bytes, over every kind of place but the accumulator window, and what a path's view of
memory leaves alone. -/

namespace Sys2Proof.Machine

/-- The bytes of memory and of the scratchpads stand in canonical form. -/
structure BytesOk (s : State) : Prop where
  mem  : Memory.wf s.mem = true
  hmem : Memory.wf s.hmem = true
  pad  : ∀ k, twf 0#8 (s.team k).pad = true

/-- A place is no word of an accumulator window. -/
def Loc.NoAcc (x : Loc) : Prop := ∀ k off, x ≠ .acc k off
/-- A place holds bytes of device memory, host memory or a scratchpad. -/
def Loc.Plain (x : Loc) : Prop := x.NoAcc ∧ x ≠ .lost ∧ x ≠ .gone

theorem plus_plus (l : Loc) (i j : Nat) : (l.plus i).plus j = l.plus (i + j) := by cases l <;> simp [Loc.plus, Nat.add_assoc]
@[simp] theorem plus_zero (l : Loc) : l.plus 0 = l := by cases l <;> rfl
theorem plus_plain {l : Loc} (i : Nat) (h : l.Plain) : (l.plus i).Plain := by cases l <;> simp_all [Loc.Plain, Loc.NoAcc, Loc.plus]
theorem plus_inj {l : Loc} {i j : Nat} (h : l.Plain) (e : l.plus i = l.plus j) : i = j := by
  cases l <;> simp_all [Loc.Plain, Loc.NoAcc, Loc.plus]

@[simp] theorem reveal_mem (s : State) (l : Loc) (n : Nat) : (s.reveal l n).mem = s.mem := by unfold State.reveal; rfl
@[simp] theorem reveal_hmem (s : State) (l : Loc) (n : Nat) : (s.reveal l n).hmem = s.hmem := by unfold State.reveal; rfl
@[simp] theorem reveal_team (s : State) (l : Loc) (n k : Nat) : (s.reveal l n).team k = s.team k := by unfold State.reveal; rfl

/-! A store to the accumulator window changes neither the scratchpad nor the allocation of the team. -/

@[simp] theorem touchTile_pad (t : Team) (k : Nat) : (t.touchTile k).pad = t.pad := by unfold Team.touchTile; rfl
@[simp] theorem setElem_pad (t : Team) (k i : Nat) (x : Word) : (t.setElem k i x).pad = t.pad := by unfold Team.setElem; rfl
@[simp] theorem setMax_pad (t : Team) (k i : Nat) (x : Word) : (t.setMax k i x).pad = t.pad := by unfold Team.setMax; rfl
@[simp] theorem setSum_pad (t : Team) (k i : Nat) (x : Word) : (t.setSum k i x).pad = t.pad := by unfold Team.setSum; rfl
@[simp] theorem touchTile_scratch (t : Team) (k : Nat) : (t.touchTile k).scratch = t.scratch := by unfold Team.touchTile; rfl
@[simp] theorem setElem_scratch (t : Team) (k i : Nat) (x : Word) : (t.setElem k i x).scratch = t.scratch := by unfold Team.setElem; rfl
@[simp] theorem setMax_scratch (t : Team) (k i : Nat) (x : Word) : (t.setMax k i x).scratch = t.scratch := by unfold Team.setMax; rfl
@[simp] theorem setSum_scratch (t : Team) (k i : Nat) (x : Word) : (t.setSum k i x).scratch = t.scratch := by unfold Team.setSum; rfl
@[simp] theorem setAccWord_pad (t : Team) (o : Nat) (x : Word) : (t.setAccWord o x).pad = t.pad := by
  unfold Team.setAccWord
  repeat' split
  all_goals simp
@[simp] theorem setAccWord_scratch (t : Team) (o : Nat) (x : Word) : (t.setAccWord o x).scratch = t.scratch := by
  unfold Team.setAccWord
  repeat' split
  all_goals simp

/-! One byte. -/

theorem bytesOk_setByte {s : State} (l : Loc) (b : Byte) (po : Bool) (h : BytesOk s) : BytesOk (s.setByte l b po) := by
  obtain ⟨h1, h2, h3⟩ := h
  cases l with
  | dev pa => exact ⟨twf_tset _ _ h1, h2, h3⟩
  | host pa => exact ⟨h1, twf_tset _ _ h2, h3⟩
  | pad t o =>
    refine ⟨h1, h2, fun k => ?_⟩
    simp only [State.setByte, team_updTeam]
    split
    · exact twf_tset _ _ (by rw [reveal_team]; exact h3 _)
    · exact h3 k
  | acc t o =>
    refine ⟨h1, h2, fun k => ?_⟩
    simp only [State.setByte, team_updTeam]
    split
    · split <;> simp only [setAccWord_pad] <;> exact h3 _
    · exact h3 k
  | lost => exact ⟨h1, h2, h3⟩
  | gone => exact ⟨h1, h2, h3⟩

/-- A byte that was written reads back, and every other byte reads as before. -/
theorem byteAt_setByte {s : State} (l x : Loc) (b : Byte) (po : Bool) (h : BytesOk s) (hx : x.NoAcc) :
    (s.setByte l b po).byteAt x = if l = x ∧ l ≠ .lost ∧ l ≠ .gone then b else s.byteAt x := by
  obtain ⟨h1, h2, h3⟩ := h
  cases l <;> cases x <;> simp [State.setByte, State.byteAt, team_updTeam]
  case dev.dev a b => rw [tget_tset _ _ _ h1]; simp [eq_comm]
  case host.host a b => rw [tget_tset _ _ _ h2]; simp [eq_comm]
  case pad.pad t o t' o' =>
    by_cases ht : t' = t
    · subst ht
      simp only [if_true, true_and]
      rw [tget_tset _ _ _ (h3 _)]; simp [eq_comm]
    · have : ¬ t = t' := fun e => ht e.symm
      simp [ht, this]
  case acc.pad t o t' o' =>
    by_cases ht : t' = t
    · subst ht
      simp only [if_true]; split <;> simp
    · simp [ht]
  all_goals first | rfl | exact absurd rfl (hx _ _)

theorem setByte_others (s : State) (l : Loc) (b : Byte) (po : Bool) :
    (s.setByte l b po).groups = s.groups ∧ (s.setByte l b po).ctxs = s.ctxs ∧ (s.setByte l b po).ops = s.ops := by
  cases l <;> exact ⟨rfl, rfl, rfl⟩

theorem setByte_scratch (s : State) (l : Loc) (b : Byte) (po : Bool) (k : Nat) :
    ((s.setByte l b po).team k).scratch = (s.team k).scratch := by
  cases l with
  | dev pa => rfl
  | host pa => rfl
  | pad t o => simp only [State.setByte, team_updTeam, reveal_team]; split <;> simp [*]
  | acc t o => simp only [State.setByte, team_updTeam, reveal_team]; split <;> (try split) <;> simp [*]
  | lost => rfl
  | gone => rfl

/-! A run of bytes. -/

theorem bytesOk_setBytes (bs : List Byte) {s : State} (l : Loc) (po : Bool) (h : BytesOk s) : BytesOk (s.setBytes l bs po) := by
  induction bs generalizing s l with
  | nil => exact h
  | cons b bs ih => exact ih _ (bytesOk_setByte _ _ _ h)

/-- Outside the run every byte reads as before. -/
theorem byteAt_setBytes_other (bs : List Byte) {s : State} (l x : Loc) (po : Bool) (h : BytesOk s) (hx : x.NoAcc)
    (hn : x = .lost ∨ x = .gone ∨ ∀ i, i < bs.length → l.plus i ≠ x) : (s.setBytes l bs po).byteAt x = s.byteAt x := by
  induction bs generalizing s l with
  | nil => rfl
  | cons b bs ih =>
    show ((s.setByte l b po).setBytes (l.plus 1) bs po).byteAt x = _
    rw [ih _ (bytesOk_setByte _ _ _ h), byteAt_setByte _ _ _ _ h hx, if_neg]
    · rintro ⟨rfl, a, b⟩
      rcases hn with hn | hn | hn
      · exact a hn
      · exact b hn
      · exact hn 0 (by simp) (plus_zero _)
    · rcases hn with hn | hn | hn
      · exact .inl hn
      · exact .inr (.inl hn)
      · exact .inr (.inr fun i hi => by rw [plus_plus]; exact hn _ (by simp; omega))

/-- Inside it each byte reads back. -/
theorem byteAt_setBytes_same (bs : List Byte) {s : State} (l : Loc) (po : Bool) (h : BytesOk s) (hp : l.Plain) (i : Nat)
    (hi : i < bs.length) : (s.setBytes l bs po).byteAt (l.plus i) = bs.getD i 0 := by
  induction bs generalizing s l i with
  | nil => simp at hi
  | cons b bs ih =>
    show ((s.setByte l b po).setBytes (l.plus 1) bs po).byteAt _ = _
    cases i with
    | zero =>
      rw [byteAt_setBytes_other _ _ _ _ (bytesOk_setByte _ _ _ h) (plus_plain _ hp).1, byteAt_setByte _ _ _ _ h (plus_plain _ hp).1,
        if_pos ⟨(plus_zero _).symm, hp.2.1, hp.2.2⟩]
      · simp
      · refine .inr (.inr fun j hj e => ?_)
        rw [plus_plus] at e
        have := plus_inj hp e
        omega
    | succ i =>
      have : l.plus (i + 1) = (l.plus 1).plus i := by rw [plus_plus]; congr 1; omega
      rw [this, ih _ (bytesOk_setByte _ _ _ h) (plus_plain _ hp) i (by simpa using hi)]
      simp

theorem setBytes_others (bs : List Byte) (s : State) (l : Loc) (po : Bool) :
    (s.setBytes l bs po).groups = s.groups ∧ (s.setBytes l bs po).ctxs = s.ctxs ∧ (s.setBytes l bs po).ops = s.ops := by
  induction bs generalizing s l with
  | nil => exact ⟨rfl, rfl, rfl⟩
  | cons b bs ih =>
    obtain ⟨a, c, d⟩ := ih (s.setByte l b po) (l.plus 1)
    obtain ⟨a', c', d'⟩ := setByte_others s l b po
    exact ⟨a.trans a', c.trans c', d.trans d'⟩

theorem setBytes_scratch (bs : List Byte) (s : State) (l : Loc) (po : Bool) (k : Nat) :
    ((s.setBytes l bs po).team k).scratch = (s.team k).scratch := by
  induction bs generalizing s l with
  | nil => rfl
  | cons b bs ih => exact (ih _ _).trans (setByte_scratch _ _ _ _ _)

/-! Numbers as bytes. -/

@[simp] theorem length_bytesOfNat (n x : Nat) : (bytesOfNat n x).length = n := by
  induction n generalizing x with
  | zero => rfl
  | succ n ih => simp [bytesOfNat, ih]

theorem natOfBytes_lt (bs : List Byte) : natOfBytes bs < 2 ^ (8 * bs.length) := by
  induction bs with
  | nil => simp [natOfBytes]
  | cons b bs ih =>
    have := b.isLt
    have e : 2 ^ (8 * (bs.length + 1)) = 256 * 2 ^ (8 * bs.length) := by rw [Nat.mul_add, Nat.pow_add]; omega
    simp only [natOfBytes, List.length_cons, e]; omega

theorem natOfBytes_bytesOfNat (n x : Nat) : natOfBytes (bytesOfNat n x) = x % 2 ^ (8 * n) := by
  induction n generalizing x with
  | zero => simp [bytesOfNat, natOfBytes, Nat.mod_one]
  | succ n ih =>
    have e : 2 ^ (8 * (n + 1)) = 256 * 2 ^ (8 * n) := by rw [Nat.mul_add, Nat.pow_add]; omega
    simp only [bytesOfNat, natOfBytes, ih]
    rw [e, Nat.mod_mul]
    simp

/-- The number that a run of bytes holds reads back. -/
theorem numAt_setBytes {s : State} (l : Loc) (bs : List Byte) (h : BytesOk s) (hp : l.Plain) :
    (s.setBytes l bs).numAt l bs.length = natOfBytes bs := by
  unfold State.numAt State.bytesAt
  congr 1
  refine List.ext_getElem (by simp) fun i h1 h2 => ?_
  simp only [List.getElem_map, List.getElem_range]
  rw [byteAt_setBytes_same _ _ _ h hp i h2]
  simp [h2]

/-! Stores of a path whose context takes no log entries. -/

theorem store_unlogged {s : State} {k : Nat} (lane kind : Nat) (l : Loc) (bs : List Byte) (h : (s.ctx (s.group k).ctx).logging = false) :
    s.store (s.writer k lane) kind l bs = s.setBytes l bs := by
  simp only [State.store, State.logWrite, State.writer, h, Bool.false_and, Bool.false_eq_true, if_false]

/-! What a path sees. -/

/-- A path that nothing keeps behind a write sees memory as it is. -/
theorem view_current {s : State} {r : PathRef} (h : s.behind r = []) : s.view r = s ∧ s.staleIds r = [] := by
  have : s.stale r = [] := by simp [State.stale, h]
  simp [State.view, State.staleIds, this]

/-- The scratchpads have the sizes that they have. -/
@[simp] theorem view_scratch (s : State) (r : PathRef) (k : Nat) : ((s.view r).team k).scratch = (s.team k).scratch := by
  unfold State.view
  generalize s.stale r = ys
  induction ys generalizing s with
  | nil => rfl
  | cons y ys ih => exact (ih _).trans (setBytes_scratch _ _ _ _ _)

end Sys2Proof.Machine
end

