-- ==== Sys2Proof/Laws/Encoding.lean ====
section
/-! SUPPORT. The fields of an assembled word (R60): each byte comes back, so decoding an assembled word is decoding its fields. -/

namespace Sys2Proof

theorem assemble_toNat (op d a b : BitVec 8) :
    (assemble op d a b).toNat = op.toNat * 2 ^ 24 + d.toNat * 2 ^ 16 + a.toNat * 2 ^ 8 + b.toNat := by
  have := b.isLt; have := a.isLt; have := d.isLt
  simp only [assemble, BitVec.toNat_append]
  rw [← Nat.shiftLeft_add_eq_or_of_lt (by omega), ← Nat.shiftLeft_add_eq_or_of_lt (by omega),
    ← Nat.shiftLeft_add_eq_or_of_lt (by omega)]
  simp only [Nat.shiftLeft_eq]
  omega

/-- OP of an assembled word. -/
@[simp] theorem assemble_op (op d a b : BitVec 8) : (assemble op d a b).extractLsb' 24 8 = op := by
  have := op.isLt; have := d.isLt; have := a.isLt; have := b.isLt
  apply BitVec.eq_of_toNat_eq
  simp only [BitVec.extractLsb'_toNat, assemble_toNat, Nat.shiftRight_eq_div_pow]
  omega

/-- D of an assembled word. -/
@[simp] theorem assemble_d (op d a b : BitVec 8) : (assemble op d a b).extractLsb' 16 8 = d := by
  have := op.isLt; have := d.isLt; have := a.isLt; have := b.isLt
  apply BitVec.eq_of_toNat_eq
  simp only [BitVec.extractLsb'_toNat, assemble_toNat, Nat.shiftRight_eq_div_pow]
  omega

/-- A of an assembled word. -/
@[simp] theorem assemble_a (op d a b : BitVec 8) : (assemble op d a b).extractLsb' 8 8 = a := by
  have := op.isLt; have := d.isLt; have := a.isLt; have := b.isLt
  apply BitVec.eq_of_toNat_eq
  simp only [BitVec.extractLsb'_toNat, assemble_toNat, Nat.shiftRight_eq_div_pow]
  omega

/-- B of an assembled word. -/
@[simp] theorem assemble_b (op d a b : BitVec 8) : (assemble op d a b).extractLsb' 0 8 = b := by
  have := op.isLt; have := d.isLt; have := a.isLt; have := b.isLt
  apply BitVec.eq_of_toNat_eq
  simp only [BitVec.extractLsb'_toNat, assemble_toNat, Nat.shiftRight_eq_div_pow]
  omega

/-- Decoding an assembled word is decoding its four fields. -/
theorem decodeWord_assemble (op d a b : BitVec 8) :
    decodeWord (assemble op d a b) = decodeFields op d a b (assemble op d a b) := by
  unfold decodeWord
  rw [assemble_op, assemble_d, assemble_a, assemble_b]

theorem opcodeOf_assemble (op d a b : BitVec 8) : opcodeOf (assemble op d a b) = op.toNat := by
  unfold opcodeOf
  rw [assemble_op]

/-! The fields inside a byte. -/

theorem hint_of_hint (h : BitVec 2) : (h ++ 0#6 : BitVec 8).extractLsb' 6 2 = h := by revert h; decide
theorem hint_reserved (h : BitVec 2) : (h ++ 0#6 : BitVec 8) &&& 63#8 = 0#8 := by revert h; decide
theorem hint_of_branch (h : BitVec 2) (p : BitVec 3) : (h ++ p ++ 0#3 : BitVec 8).extractLsb' 6 2 = h := by revert h p; decide
theorem psel_of_branch (h : BitVec 2) (p : BitVec 3) : (h ++ p ++ 0#3 : BitVec 8).extractLsb' 3 3 = p := by revert h p; decide
theorem branch_reserved (h : BitVec 2) (p : BitVec 3) : (h ++ p ++ 0#3 : BitVec 8) &&& 7#8 = 0#8 := by revert h p; decide

/-- The two bytes of a branch offset. -/
theorem offset_bytes (o : BitVec 16) : (o.extractLsb' 8 8 ++ o.extractLsb' 0 8 : BitVec 16) = o := by
  apply BitVec.eq_of_toNat_eq
  have := o.isLt
  simp only [BitVec.toNat_append, BitVec.extractLsb'_toNat, Nat.shiftRight_eq_div_pow]
  rw [← Nat.shiftLeft_add_eq_or_of_lt (by omega)]
  simp only [Nat.shiftLeft_eq]
  omega

end Sys2Proof
end

