-- ==== Sys2Proof/Laws/Issue.lean ====
section
/-! SUPPORT. What the shared operations of issue can do: `conclude`, the guarded, the uniform and the control words, a stop and
its frame. -/

namespace Sys2Proof.Machine

theorem maskOf_nil : maskOf [] = 0#32 := rfl

/-- With no lane that stops, a word takes its effect, retires, and its path goes on. -/
theorem conclude_none {s : State} {r : PathRef} (h : (s.path r).mask ≠ 0#32) (eff : State → State) (after : Path → Path)
    (tc : BitVec 8) : conclude r [] true eff s after tc = wentBy s r after (eff s) := by
  have hb : maskOf (([] : List Stop).map (·.lane)) = 0#32 := rfl
  have hn : (s.path r).mask &&& ~~~(0#32) = (s.path r).mask := by
    rw [show ~~~(0#32) = BitVec.allOnes 32 from rfl, BitVec.and_allOnes]
  simp only [conclude, hb, List.isEmpty_nil, Bool.not_true, Bool.false_and, Bool.false_eq_true, if_false, if_true, hn,
    if_neg (Ne.symm h)]
  rfl

/-- A word that is issued by a path with lanes. -/
theorem issuing_of {s : State} {r : PathRef} (hi : Issuing s r) (f : PathRef → Group → Path → State) :
    issuing s f = .next (f r (s.group r.group) (s.path r)) := by
  have h : (((s.group r.group).path r.path).mask != 0) = true := by simpa [State.path] using hi.lanes
  simp only [issuing, hi.cur, hi.used, h, Bool.and_self, if_true]
  rfl

/-- The checks of a word that acts once for its path. -/
abbrev passes (chk : Group → Path → Checks) (s : State) (r : PathRef) : Prop :=
  (chk (s.group r.group) (s.path r)).cause (s.group r.group) 0 {} = none

theorem uniformOp_ok {s : State} {r : PathRef} (hi : Issuing s r) (chk : Group → Path → Checks)
    (eff : PathRef → Group → Path → State → State) (hc : passes chk s r) :
    uniformOp chk eff s = .next (went s r (eff r (s.group r.group) (s.path r) s)) := by
  simp only [uniformOp, issuing_of hi, hc, went, conclude_none hi.lanes]

theorem groupOp_ok {s : State} {r : PathRef} (hi : Issuing s r) (chk : Group → Path → Checks) (f : Group → Path → Group)
    (hc : passes chk s r) :
    groupOp chk f s = .next (went s r (s.setGroup r.group (f (s.group r.group) (s.path r)))) := uniformOp_ok hi chk _ hc

theorem controlOp_ok {s : State} {r : PathRef} (hi : Issuing s r) (chk : Group → Path → Checks)
    (move : PathRef → Group → Path → State → State) (hc : passes chk s r) :
    controlOp chk move s = .next ((move r (s.group r.group) (s.path r) s).retire r.group (lanesOf (s.path r).mask)) := by
  simp only [controlOp, issuing_of hi, hc]

theorem controlOp_stops {s : State} {r : PathRef} (hi : Issuing s r) (chk : Group → Path → Checks)
    (move : PathRef → Group → Path → State → State) (x : Cause)
    (hc : (chk (s.group r.group) (s.path r)).cause (s.group r.group) 0 {} = some x) :
    controlOp chk move s = .next (s.stopAll r (s.path r) x) := by simp only [controlOp, issuing_of hi, hc]

/-- A mask has the bits of the lanes it was made of. -/
theorem getLsbD_foldl_mask (ls : List Nat) (m : BitVec 32) (i : Nat) (hi : i < 32) :
    (ls.foldl (fun m j => m ||| (1#32 <<< j)) m).getLsbD i = (m.getLsbD i || ls.contains i) := by
  induction ls generalizing m with
  | nil => simp
  | cons j ls ih =>
    simp only [List.foldl_cons, ih, List.contains_cons]
    have h : (m ||| 1#32 <<< j).getLsbD i = (m.getLsbD i || i == j) := by
      rw [BitVec.getLsbD_or]
      congr 1
      simp only [BitVec.getLsbD_shiftLeft, hi, decide_true, Bool.true_and, BitVec.getLsbD_one]
      by_cases hij : i = j
      · subst hij; simp
      · have : (i == j) = false := by simpa using hij
        rw [this]
        by_cases hlt : i < j
        · simp [hlt]
        · simp only [hlt, decide_false, Bool.not_false, Bool.true_and]
          simp; omega
    rw [h, Bool.or_assoc]

theorem getLsbD_maskOf (ls : List Nat) (i : Nat) (hi : i < 32) : (maskOf ls).getLsbD i = ls.contains i := by
  simp [maskOf, getLsbD_foldl_mask ls 0#32 i hi]

theorem mem_lanesOf (m : BitVec 32) (i : Nat) : i ∈ lanesOf m ↔ i < 32 ∧ m.getLsbD i = true := by
  simp [lanesOf]

/-- The lanes of a mask make that mask. -/
@[simp] theorem maskOf_lanesOf (m : BitVec 32) : maskOf (lanesOf m) = m := by
  apply BitVec.eq_of_getLsbD_eq
  intro i hi
  rw [getLsbD_maskOf _ _ hi, Bool.eq_iff_iff]
  simp [mem_lanesOf, hi]

theorem lanesOf_ne_nil {m : BitVec 32} (h : m ≠ 0#32) : lanesOf m ≠ [] := by
  intro he
  apply h
  rw [← maskOf_lanesOf m, he]
  rfl

/-- A word that acts once for its path and does not pass its checks stops every lane. -/
theorem uniformOp_stops {s : State} {r : PathRef} (hi : Issuing s r) (chk : Group → Path → Checks)
    (eff : PathRef → Group → Path → State → State) (x : Cause)
    (hc : (chk (s.group r.group) (s.path r)).cause (s.group r.group) 0 {} = some x) :
    uniformOp chk eff s = .next (s.stopAll r (s.path r) x) := by
  simp only [uniformOp, issuing_of hi, hc, conclude, State.stopAll, List.map_map]
  have h1 : ((lanesOf (s.path r).mask).map ((fun st : Stop => st.lane) ∘ fun l => ({ lane := l, cause := x } : Stop))) =
      lanesOf (s.path r).mask := by simp [Function.comp_def]
  have hne := lanesOf_ne_nil hi.lanes
  rw [h1, maskOf_lanesOf]
  simp only [if_true]
  have h2 : ((lanesOf (s.path r).mask).map fun l => ({ lane := l, cause := x } : Stop)).isEmpty = false := by
    simp [hne]
  simp only [h2, Bool.not_false, Bool.true_and]

/-! Guarded words. -/

/-- Without a pending guard, the lanes to which a word applies are the active ones. -/
theorem applied_eq_active {s : State} {r : PathRef}
    (hg : ∀ l ∈ lanesOf (s.path r).mask, (s.path r).guardPending ((s.group r.group).lane l) = false) :
    (s.group r.group).applied (s.path r) = s.active r := by
  simp only [Group.applied, State.active, Group.activeLanes]
  exact List.filter_congr fun l hl => by simp [hg l hl]

theorem mem_active {s : State} {r : PathRef} {l : Nat} (h : l ∈ s.active r) : l ∈ lanesOf (s.path r).mask :=
  (List.mem_filter.1 h).1

theorem active_nodup (s : State) (r : PathRef) : (s.active r).Nodup := (lanesOf_nodup _).filter _

/-- A guard predicate that is neither pending nor poisoned adds no cause. -/
theorem guardedCause_of {c : Checks} {g : Group} {p : Path} {l : Nat} (hg : p.guardPending (g.lane l) = false)
    (hp : p.guardPoisoned (g.lane l) = false) : c.guardedCause g p l = c.cause g l (g.lane l) := by
  simp only [Path.guardPending, Path.guardPoisoned] at hg hp
  simp [Checks.guardedCause, Checks.cause, Uses.hazard, Uses.poison, hg, hp]

/-- A guarded word none of whose active lanes has a cause. -/
theorem guardedOp_ok {s : State} {r : PathRef} (hi : Issuing s r)
    (hg : ∀ l ∈ lanesOf (s.path r).mask, (s.path r).guardPending ((s.group r.group).lane l) = false)
    (hs : ∀ l ∈ s.active r, (s.path r).guardPoisoned ((s.group r.group).lane l) = false)
    (chk : Group → Path → Checks) (eff : PathRef → Group → Path → List Nat → State → State)
    (hc : ∀ l ∈ s.active r, (chk (s.group r.group) (s.path r)).cause (s.group r.group) l ((s.group r.group).lane l) = none) :
    guardedOp chk eff s = .next (went s r (eff r (s.group r.group) (s.path r) (s.active r) s)) := by
  have hcause : ∀ l ∈ s.active r,
      (chk (s.group r.group) (s.path r)).guardedCause (s.group r.group) (s.path r) l = none := fun l hl => by
    rw [guardedCause_of (hg l (mem_active hl)) (hs l hl), hc l hl]
  have hstops : ((s.active r).filterMap fun l =>
      ((chk (s.group r.group) (s.path r)).guardedCause (s.group r.group) (s.path r) l).map fun x =>
        ({ lane := l, cause := x } : Stop)) = [] := by
    rw [List.filterMap_eq_nil_iff]
    intro l hl
    simp [hcause l hl]
  have hok : ((s.active r).filter fun l =>
      ((chk (s.group r.group) (s.path r)).guardedCause (s.group r.group) (s.path r) l).isNone) = s.active r := by
    rw [List.filter_eq_self]
    intro l hl
    simp [hcause l hl]
  have hiss : ((s.active r).isEmpty || !(s.active r).isEmpty) = true := by cases (s.active r).isEmpty <;> rfl
  simp only [guardedOp, issuing_of hi, applied_eq_active hg, hstops, hok, hiss, conclude_none hi.lanes]
  rfl

theorem laneOp_ok {s : State} {r : PathRef} (hi : Issuing s r)
    (hg : ∀ l ∈ lanesOf (s.path r).mask, (s.path r).guardPending ((s.group r.group).lane l) = false)
    (hs : ∀ l ∈ s.active r, (s.path r).guardPoisoned ((s.group r.group).lane l) = false)
    (chk : Group → Path → Checks) (f : Group → Path → Nat → Lane → Lane)
    (hc : ∀ l ∈ s.active r, (chk (s.group r.group) (s.path r)).cause (s.group r.group) l ((s.group r.group).lane l) = none) :
    laneOp chk f s = .next (went s r (s.onLanes r.group (s.active r) (f (s.group r.group) (s.path r)))) :=
  guardedOp_ok hi hg hs chk _ hc

/-- The checks of a word whose fields and mode are right, whose registers are free, and that has no cause of its own. -/
theorem cause_none {c : Checks} {g : Group} {l : Nat} {ln : Lane} (h1 : c.field = true) (h2 : c.mode = true)
    (h3 : c.uses.hazard g ln = false) (h4 : c.uses.poison g ln = false) (h5 : c.late l ln = none) : c.cause g l ln = none := by
  simp [Checks.cause, h1, h2, h3, h4, h5]

/-- The order of R64: the word's own fields, its mode, a pending register, a poisoned one, and its own cause last. -/
theorem cause_order (c : Checks) (g : Group) (l : Nat) (ln : Lane) :
    c.cause g l ln =
      if c.field = false then some .illegalOperand
      else if c.mode = false then some .illegalMode
      else if c.uses.hazard g ln = true then some .hazard
      else if c.uses.poison g ln = true then some .poison
      else c.late l ln := by
  cases hf : c.field <;> cases hm : c.mode <;> simp [Checks.cause, hf, hm]

/-- Uniform registers that are free, as the checks ask. -/
theorem sfree_uses {g : Group} {sr sw : List Nat} (h : SFree g sr sw) (ln : Lane) :
    ({ sr := sr, sw := sw } : Uses).hazard g ln = false ∧ ({ sr := sr, sw := sw } : Uses).poison g ln = false := by
  refine ⟨?_, ?_⟩
  · simp only [Uses.hazard, List.append_nil, List.any_nil, Bool.false_or, List.any_eq_false]
    intro n hn; simp [h.pend n hn]
  · simp only [Uses.poison, List.any_nil, Bool.false_or, List.any_eq_false]
    intro n hn; simp [h.poison n hn]

theorem readsRun_s {x : BitVec 8} (h : isS x = true) (n : Nat) : readsRun x n = { sr := (List.range n).map (sNum x + ·) } := by
  simp [readsRun, h]
theorem writesRun_s {x : BitVec 8} (h : isS x = true) (n : Nat) : writesRun x n = { sw := (List.range n).map (sNum x + ·) } := by
  simp [writesRun, h]

/-! Registers free in the lanes of a word. -/

theorem hazard_and (u v : Uses) (g : Group) (ln : Lane) : (u.and v).hazard g ln = (u.hazard g ln || v.hazard g ln) := by
  simp only [Uses.hazard, Uses.and, List.any_append]; ac_rfl
theorem poison_and (u v : Uses) (g : Group) (ln : Lane) : (u.and v).poison g ln = (u.poison g ln || v.poison g ln) := by
  simp only [Uses.poison, Uses.and, List.any_append]; ac_rfl
@[simp] theorem hazard_empty (g : Group) (ln : Lane) : ({} : Uses).hazard g ln = false := rfl
@[simp] theorem poison_empty (g : Group) (ln : Lane) : ({} : Uses).poison g ln = false := rfl
/-- A pending register stands in the way of a write as of a read. -/
theorem hazard_writes (x : BitVec 8) (n : Nat) (g : Group) (ln : Lane) :
    (writesRun x n).hazard g ln = (readsRun x n).hazard g ln := by
  unfold writesRun readsRun; split <;> simp [Uses.hazard]
/-- A register that is only written may be poisoned. -/
@[simp] theorem poison_writes (x : BitVec 8) (n : Nat) (g : Group) (ln : Lane) : (writesRun x n).poison g ln = false := by
  unfold writesRun; split <;> simp [Uses.poison]

/-- A guarded word of lanes whose checks ask no more than that the registers `u` be free. -/
theorem laneOp_ready {s : State} {r : PathRef} {u : Uses} (h : Ready s r u) (chk : Group → Path → Checks)
    (f : Group → Path → Nat → Lane → Lane)
    (hf : (chk (s.group r.group) (s.path r)).field = true) (hm : (chk (s.group r.group) (s.path r)).mode = true)
    (hz : ∀ ln, u.hazard (s.group r.group) ln = false →
      (chk (s.group r.group) (s.path r)).uses.hazard (s.group r.group) ln = false)
    (hp : ∀ l ∈ s.active r, u.poison (s.group r.group) ((s.group r.group).lane l) = false →
      (chk (s.group r.group) (s.path r)).uses.poison (s.group r.group) ((s.group r.group).lane l) = false)
    (hl : ∀ l ∈ s.active r, (chk (s.group r.group) (s.path r)).late l ((s.group r.group).lane l) = none) :
    laneOp chk f s = .next (went s r (s.onLanes r.group (s.active r) (f (s.group r.group) (s.path r)))) :=
  laneOp_ok h.toIssuing h.guard h.sure chk f fun l hl' =>
    cause_none hf hm (hz _ (h.free l hl').1) (hp _ hl' (h.free l hl').2) (hl l hl')

/-- The same of a word with an effect of its own. -/
theorem guardedOp_ready {s : State} {r : PathRef} {u : Uses} (h : Ready s r u) (chk : Group → Path → Checks)
    (eff : PathRef → Group → Path → List Nat → State → State)
    (hf : (chk (s.group r.group) (s.path r)).field = true) (hm : (chk (s.group r.group) (s.path r)).mode = true)
    (hz : ∀ ln, u.hazard (s.group r.group) ln = false →
      (chk (s.group r.group) (s.path r)).uses.hazard (s.group r.group) ln = false)
    (hp : ∀ l ∈ s.active r, u.poison (s.group r.group) ((s.group r.group).lane l) = false →
      (chk (s.group r.group) (s.path r)).uses.poison (s.group r.group) ((s.group r.group).lane l) = false)
    (hl : ∀ l ∈ s.active r, (chk (s.group r.group) (s.path r)).late l ((s.group r.group).lane l) = none) :
    guardedOp chk eff s = .next (went s r (eff r (s.group r.group) (s.path r) (s.active r) s)) :=
  guardedOp_ok h.toIssuing h.guard h.sure chk eff fun l hl' =>
    cause_none hf hm (hz _ (h.free l hl').1) (hp _ hl' (h.free l hl').2) (hl l hl')

/-- Two lane effects that agree on the lanes they find have one result. -/
theorem onLanes_congr {s : State} {k : Nat} {ls : List Nat} {f f' : Nat → Lane → Lane} (hn : ls.Nodup)
    (h : ∀ l ∈ ls, f l ((s.group k).lane l) = f' l ((s.group k).lane l)) : s.onLanes k ls f = s.onLanes k ls f' := by
  have key : ∀ (ls : List Nat) (g : Group), ls.Nodup → (∀ l ∈ ls, f l (g.lane l) = f' l (g.lane l)) →
      ls.foldl (fun g l => g.updLane l (f l)) g = ls.foldl (fun g l => g.updLane l (f' l)) g := by
    intro ls
    induction ls with
    | nil => intros; rfl
    | cons j ls ih =>
      intro g hn h
      have hj : g.updLane j (f j) = g.updLane j (f' j) := by simp only [Group.updLane, h j List.mem_cons_self]
      rw [List.foldl_cons, List.foldl_cons, hj]
      refine ih _ (List.nodup_cons.1 hn).2 fun l hl => ?_
      have hne : l ≠ j := fun he => (List.nodup_cons.1 hn).1 (he ▸ hl)
      have : (g.updLane j (f' j)).lane l = g.lane l := by simp [Group.updLane, Group.lane, tget_tput, hne]
      rw [this]
      exact h l (List.mem_cons_of_mem _ hl)
  simp only [State.onLanes, State.updGroup, key ls _ hn h]

/-! Cross-lane words. -/

/-- What the checks of a cross-lane word ask of its registers. -/
theorem crossUses_free {s : State} {r : PathRef} {u : CrossUses} (h : CrossReady s r u) :
    u.hazard (s.group r.group) (s.path r) (s.active r) = false ∧ u.poison (s.group r.group) (s.path r) (s.active r) = false := by
  refine ⟨?_, ?_⟩
  · simp only [CrossUses.hazard, Bool.or_eq_false_iff, List.any_eq_false]
    refine ⟨⟨⟨fun l hl => by simp [h.guard l hl], fun e he => by simp [h.vreg e he]⟩, ?_⟩, fun n hn => by simp [h.sregs.pend n hn]⟩
    cases hp : u.pred with
    | none => rfl
    | some n => simp only [List.any_eq_false]; intro l hl; simp [(h.pred n hp l hl).1]
  · simp only [CrossUses.poison, Bool.or_eq_false_iff, List.any_eq_false]
    refine ⟨⟨⟨fun l hl => by simp [h.sure l hl], fun e he => by simp [h.clean e he]⟩, ?_⟩, fun n hn => by simp [h.sregs.poison n hn]⟩
    cases hp : u.pred with
    | none => rfl
    | some n => simp only [List.any_eq_false]; intro l hl; simp [(h.pred n hp l hl).2]

/-- A cross-lane word in whose way nothing stands. -/
theorem crossOp_ok {s : State} {r : PathRef} (field : Group → Path → Bool) (mode : Path → Bool)
    (uses : Group → List Nat → CrossUses) (late : Group → Bool) (eff : Group → Path → List Nat → Group)
    (h : CrossReady s r (uses (s.group r.group) (s.active r)))
    (hf : field (s.group r.group) (s.path r) = true) (hm : mode (s.path r) = true) (hl : late (s.group r.group) = true) :
    crossOp field mode uses late eff s = .next (went s r (s.updGroup r.group fun g =>
      if (s.active r).isEmpty then g else eff g (s.path r) (s.active r))) := by
  have hact : (s.group r.group).activeLanes (s.path r) = s.active r := rfl
  have hu := crossUses_free h
  have hc : ∀ l ∈ s.active r, crossCause (field (s.group r.group) (s.path r)) (mode (s.path r)) (uses (s.group r.group) (s.active r))
      (late (s.group r.group)) (s.group r.group) (s.path r) (s.active r) l = none := by
    intro l hl'
    simp only [crossCause, hf, hm, hl, hu.1, hu.2, Bool.not_true, Bool.false_eq_true, if_false]
    cases ho : (uses (s.group r.group) (s.active r)).own with
    | none => rfl
    | some n => simp [h.own n ho l hl']
  simp only [crossOp, issuing_of h.toIssuing, applied_eq_active h.guard, hact]
  have hstops : ((s.active r).filterMap fun l =>
      (crossCause (field (s.group r.group) (s.path r)) (mode (s.path r)) (uses (s.group r.group) (s.active r))
      (late (s.group r.group)) (s.group r.group) (s.path r) (s.active r) l).map fun x =>
        ({ lane := l, cause := x } : Stop)) = [] := by
    rw [List.filterMap_eq_nil_iff]
    intro l hl
    simp [hc l hl]
  have hok : ((s.active r).filter fun l =>
      (crossCause (field (s.group r.group) (s.path r)) (mode (s.path r)) (uses (s.group r.group) (s.active r))
      (late (s.group r.group)) (s.group r.group) (s.path r) (s.active r) l).isNone) = s.active r := by
    rw [List.filter_eq_self]
    intro l hl
    simp [hc l hl]
  have hiss : ((s.active r).isEmpty || !(s.active r).isEmpty) = true := by cases (s.active r).isEmpty <;> rfl
  rw [hstops, hok, hiss, conclude_none h.lanes]
  rfl

end Sys2Proof.Machine
end

