-- ==== Sys2Proof/Laws/Memory.lean ====
section
/-! SUPPORT. The operations over memory: they keep its canonical form, a byte that was written reads back, and the address step of an
access leaves paths, registers and scratchpads alone. -/

namespace Sys2Proof.Machine

/-! What neither memory operations nor the address step touch. -/

/-- The group slots are the same but for the last-page registers of their lanes. -/
structure SameWork (s t : State) : Prop where
  group : ∀ k, { t.group k with lanes := [] } = { s.group k with lanes := [] }
  lane  : ∀ k l, { (t.group k).lane l with lastPage := none } = { (s.group k).lane l with lastPage := none }
  teams : t.teams = s.teams
  rest  : t.queues = s.queues ∧ t.grids = s.grids ∧ t.ops = s.ops ∧ t.hmem = s.hmem ∧ t.host = s.host ∧ t.free = s.free

theorem SameWork.refl (s : State) : SameWork s s := ⟨fun _ => rfl, fun _ _ => rfl, rfl, rfl, rfl, rfl, rfl, rfl, rfl⟩
theorem SameWork.trans {s t u : State} (h : SameWork s t) (h' : SameWork t u) : SameWork s u :=
  ⟨fun k => (h'.group k).trans (h.group k), fun k l => (h'.lane k l).trans (h.lane k l), h'.teams.trans h.teams,
    h'.rest.1.trans h.rest.1, h'.rest.2.1.trans h.rest.2.1, h'.rest.2.2.1.trans h.rest.2.2.1,
    h'.rest.2.2.2.1.trans h.rest.2.2.2.1, h'.rest.2.2.2.2.1.trans h.rest.2.2.2.2.1, h'.rest.2.2.2.2.2.trans h.rest.2.2.2.2.2⟩

/-- An update that leaves these fields alone. -/
theorem SameWork.of {s t : State} (h : t.groups = s.groups) (h2 : t.teams = s.teams) (h3 : t.queues = s.queues)
    (h4 : t.grids = s.grids) (h5 : t.ops = s.ops) (h6 : t.hmem = s.hmem) (h7 : t.host = s.host) (h8 : t.free = s.free) : SameWork s t := by
  refine ⟨fun k => ?_, fun k l => ?_, h2, h3, h4, h5, h6, h7, h8⟩ <;> simp [State.group, h]

theorem SameWork.path {s t : State} (h : SameWork s t) (r : PathRef) : t.path r = s.path r := by
  have := congrArg Group.paths (h.group r.group)
  simp only at this
  simp [State.path, Group.path, this]
theorem SameWork.used {s t : State} (h : SameWork s t) (k : Nat) : (t.group k).used = (s.group k).used :=
  (congrArg Group.used (h.group k) :)

/-- A fold of updates each of which keeps the work. -/
theorem SameWork.foldl {α : Type} {f : State → α → State} (h : ∀ s x, SameWork s (f s x)) (xs : List α) (s : State) :
    SameWork s (xs.foldl f s) := by
  induction xs generalizing s with
  | nil => exact .refl s
  | cons x xs ih => exact (h s x).trans (ih _)

theorem sameWork_setByte_dev (s : State) (pa : Nat) (b : Byte) (po : Bool) : SameWork s (s.setByte (.dev pa) b po) :=
  .of rfl rfl rfl rfl rfl rfl rfl rfl

theorem sameWork_setBytes_dev (bs : List Byte) (s : State) (pa : Nat) (po : Bool) : SameWork s (s.setBytes (.dev pa) bs po) := by
  induction bs generalizing s pa with
  | nil => exact .refl s
  | cons b bs ih => exact (sameWork_setByte_dev s pa b po).trans (ih _ _)

theorem sameWork_setEntry (s : State) (pa : Nat) (x : DWord) : SameWork s (s.setEntry pa x) := sameWork_setBytes_dev _ _ _ _
theorem sameWork_updCtx (s : State) (c : Nat) (f : Ctx → Ctx) : SameWork s (s.updCtx c f) := .of rfl rfl rfl rfl rfl rfl rfl rfl
theorem sameWork_inscribe (s : State) (c : Ctx) (es : List LogEntry) : SameWork s (s.inscribe c es) :=
  .foldl (fun _ _ => sameWork_setBytes_dev _ _ _ _) es s
theorem sameWork_updLog (s : State) (c : Nat) (f : Ctx → Ctx) : SameWork s (s.updLog c f) :=
  (sameWork_updCtx s c f).trans (sameWork_inscribe _ _ _)
theorem sameWork_fillTlb (s : State) (c : Nat) (x : Xlat) : SameWork s (s.fillTlb c x) := .of rfl rfl rfl rfl rfl rfl rfl rfl

theorem sameWork_lastPage (s : State) (k l : Nat) (x : Option Xlat) :
    SameWork s (s.onLanes k [l] fun _ ln => { ln with lastPage := x }) := by
  refine ⟨fun j => ?_, fun j i => ?_, rfl, rfl, rfl, rfl, rfl, rfl, rfl⟩
  · by_cases h : j = k
    · subst h; simp [State.onLanes, State.updGroup, State.group, State.setGroup, Group.updLane]
    · simp [State.onLanes, State.updGroup, State.group, State.setGroup, tget_tput, h]
  · by_cases h : j = k
    · subst h
      simp only [State.onLanes, State.updGroup, State.group, State.setGroup, Group.updLane, List.foldl_cons, List.foldl_nil,
        tget_tput_same, Group.lane, tget_tput]
      split
      · rename_i h; subst h; rfl
      · rfl
    · simp [State.onLanes, State.updGroup, State.group, State.setGroup, tget_tput, h]

theorem sameWork_learn (s : State) (ag : Agent) (x : Xlat) : SameWork s (s.learn ag x) := by
  unfold State.learn
  have h1 : SameWork s (match ag.core with | some c => s.fillTlb c x | none => s) := by
    cases ag.core with
    | none => exact .refl s
    | some c => exact sameWork_fillTlb s c x
  cases ag.lane with
  | none => exact h1
  | some e => exact h1.trans (sameWork_lastPage _ _ _ _)

theorem tget_map {α : Type} (d : α) (f : α → α) (hf : f d = d) (t : Tbl α) (i : Nat) :
    tget d (t.map fun e => (e.1, f e.2)) i = f (tget d t i) := by
  induction t with
  | nil => simp [tget, hf]
  | cons e t ih =>
    simp only [List.map_cons, tget]
    split
    · rfl
    · split
      · exact hf.symm
      · exact ih

/-- The last-page registers of a group keep what `hit` does not drop. -/
def Group.dropPages (hit : Xlat → Bool) (g : Group) : Group :=
  { g with lanes := g.lanes.map fun l => (l.1, { l.2 with lastPage := match l.2.lastPage with
      | some x => if hit x then none else some x
      | none => none }) }
theorem dropPages_lane (hit : Xlat → Bool) (g : Group) (l : Nat) :
    (g.dropPages hit).lane l = { g.lane l with lastPage := match (g.lane l).lastPage with
      | some x => if hit x then none else some x
      | none => none } :=
  tget_map ({} : Lane) (fun ln => { ln with lastPage := match ln.lastPage with
      | some x => if hit x then none else some x
      | none => none }) rfl g.lanes l
theorem sameWork_dropPages (s t : State) (hit : Xlat → Bool) (h : t.groups = s.groups.map fun e => (e.1, e.2.dropPages hit))
    (h2 : t.teams = s.teams) (h3 : t.queues = s.queues) (h4 : t.grids = s.grids) (h5 : t.ops = s.ops) (h6 : t.hmem = s.hmem)
    (h7 : t.host = s.host) (h8 : t.free = s.free) : SameWork s t := by
  have hk : ∀ k, t.group k = (s.group k).dropPages hit := fun k => by
    simp only [State.group, h]
    exact tget_map ({} : Group) (Group.dropPages hit) rfl s.groups k
  exact ⟨fun k => by rw [hk]; rfl, fun k l => by rw [hk, dropPages_lane], h2, h3, h4, h5, h6, h7, h8⟩

theorem sameWork_invalidate (s : State) (c : Nat) (range : Option (Nat × Nat)) (gl : Bool) : SameWork s (s.invalidate c range gl) := by
  exact sameWork_dropPages _ _ _ rfl rfl rfl rfl rfl rfl rfl rfl

theorem sameWork_takeFrame {s t : State} {f : Nat} (h : s.takeFrame = some (t, f)) : SameWork s t := by
  unfold State.takeFrame at h
  split at h
  · cases h
  · cases h; exact .of rfl rfl rfl rfl rfl rfl rfl rfl
theorem sameWork_giveFrame (s : State) (f : Nat) : SameWork s (s.giveFrame f) := .of rfl rfl rfl rfl rfl rfl rfl rfl
theorem sameWork_copyHost (s : State) (a b n : Nat) : SameWork s (s.copyHost a b n) := .of rfl rfl rfl rfl rfl rfl rfl rfl
theorem sameWork_copyDev (s : State) (a b n : Nat) : SameWork s (s.copyDev a b n) := .of rfl rfl rfl rfl rfl rfl rfl rfl

theorem sameWork_reserve {s t : State} {c n : Nat} {hnd quiet : Bool} (h : s.reserve c n hnd quiet = some t) : SameWork s t := by
  have hd : ∀ (p : Prop) [Decidable p] (f : Ctx → Ctx) (room : Nat),
      SameWork s (if p then s.updCtx c f else s.updLog c (Ctx.stopLog room)) := by
    intro p _ f room
    split
    · exact sameWork_updCtx _ _ _
    · exact sameWork_updLog _ _ _
  unfold State.reserve at h
  dsimp only at h
  generalize (s.ctx c).slots - s.reserved c - (if hnd = true then 0 else 64) = room at h
  split at h
  · cases h; exact .refl s
  · split at h
    · cases h; exact .refl s
    · split at h
      · split at h
        · cases h; exact hd _ _ _
        · cases h
      · cases h; exact hd _ _ _
      · cases h; exact sameWork_updLog _ _ _

theorem sameWork_ifReserve {b : Prop} [Decidable b] {s t : State} {c n : Nat} {hnd : Bool}
    (h : (if b then some s else s.reserve c n hnd) = some t) : SameWork s t := by
  split at h
  · cases h; exact .refl s
  · exact sameWork_reserve h

theorem sameWork_logIrrev (s : State) (w : Writer) (n a : Nat) (m : DWord) : SameWork s (s.logIrrev w n a m) := by
  unfold State.logIrrev
  split
  · exact sameWork_updLog _ _ _
  · exact .refl s

theorem sameWork_destroyRest (s : State) (c i : Nat) : SameWork s (s.destroyRest c i) := by
  have hfold : ∀ (xs : List (Nat × DWord)) (u : State), SameWork u (xs.foldl (fun s e =>
      let shared := s.frameShared c i (leafFrame e.2)
      let s := s.setEntry e.1 0
      if shared || leafHost e.2 then s
      else
        let s := s.giveFrame (leafFrame e.2)
        match s.reserve c 1 false true with
        | some s => s.logIrrev { ctx := c } 5 (leafFrame e.2 * pageSize)
        | none => s) u) := by
    intro xs u
    refine .foldl (fun u e => ?_) xs u
    dsimp only
    split
    · exact sameWork_setEntry _ _ _
    · split
      · rename_i h
        exact (sameWork_setEntry _ _ _).trans ((sameWork_giveFrame _ _).trans ((sameWork_reserve h).trans (sameWork_logIrrev _ _ _ _ _)))
      · exact (sameWork_setEntry _ _ _).trans (sameWork_giveFrame _ _)
  unfold State.destroyRest
  dsimp only
  refine SameWork.trans ?_ (sameWork_updCtx _ _ _)
  split
  · exact (hfold _ _).trans (sameWork_invalidate _ _ _ _)
  · exact hfold _ _

theorem sameWork_copyOnWrite {s t : State} {c : Nat} {x y : Xlat} (h : s.copyOnWrite c x = some (t, y)) : SameWork s t := by
  unfold State.copyOnWrite at h
  split at h
  · cases h
  · split at h
    · cases h
    · rename_i hf
      cases h
      refine (sameWork_takeFrame hf).trans (.trans ?_ ((sameWork_setEntry _ _ _).trans (sameWork_invalidate _ _ _ _)))
      split
      · exact sameWork_copyHost ..
      · exact sameWork_copyDev ..

theorem sameWork_l2Access (s : State) (host : Bool) (line cp wayp : Nat) : SameWork s (s.l2Access host line cp wayp) := by
  unfold State.l2Access
  split
  · exact .of rfl rfl rfl rfl rfl rfl rfl rfl
  · split
    · exact .refl s
    · dsimp only
      split <;> first | exact .refl s | exact .of rfl rfl rfl rfl rfl rfl rfl rfl
theorem sameWork_updCore (s : State) (c : Nat) (f : Core → Core) : SameWork s (s.updCore c f) := .of rfl rfl rfl rfl rfl rfl rfl rfl

theorem sameWork_throughCaches (s : State) (ag : Agent) (kind : Acc) (va : DWord) (x : Xlat) :
    SameWork s (s.throughCaches ag kind va x) := by
  have hr : ∀ c h n cp w, SameWork s (s.cachedRead c h n cp w) := fun c h n cp w => by
    unfold State.cachedRead
    dsimp only
    split
    · exact sameWork_updCore _ _ _
    · split
      · exact (sameWork_l2Access _ _ _ _ _).trans (sameWork_updCore _ _ _)
      · exact sameWork_l2Access _ _ _ _ _
  have hw : ∀ c h n cp w, SameWork s (s.cachedWrite c h n cp w) := fun c h n cp w => by
    unfold State.cachedWrite
    cases c with
    | none => exact sameWork_l2Access _ _ _ _ _
    | some c => exact (sameWork_updCore _ _ _).trans (sameWork_l2Access _ _ _ _ _)
  unfold State.throughCaches
  dsimp only
  split <;> first | exact .refl s | exact hr _ _ _ _ _ | exact hw _ _ _ _ _ | exact sameWork_l2Access _ _ _ _ _

theorem if_elim {α : Type} {c : Prop} [Decidable c] {P : α → Prop} {a b : α} (ha : c → P a) (hb : ¬ c → P b) :
    P (if c then a else b) := by
  split
  · exact ha ‹_›
  · exact hb ‹_›

theorem sameWork_translate (s : State) (ag : Agent) (va : DWord) : SameWork s (s.translate ag va).1 := by
  unfold State.translate
  split
  · exact sameWork_learn _ _ _
  · split
    · dsimp only
      refine SameWork.trans ?_ (sameWork_learn _ _ _)
      split
      · exact .refl s
      · exact sameWork_setEntry _ _ _
    · exact .refl s

theorem sameWork_throughPage (s : State) (ag : Agent) (kind : Acc) (va : DWord) (x : Xlat) :
    SameWork s (s.throughPage ag kind va x).1 := by
  have hd : ∀ (t : State) (x y : Xlat), SameWork t ((t.setEntry x.slot (t.entryAt x.slot ||| 0x40#64)).learn ag y) := fun t x y =>
    (sameWork_setEntry _ _ _).trans (sameWork_learn _ _ _)
  unfold State.throughPage
  dsimp only
  iterate 6 refine if_elim (P := fun z : State × Except Cause Loc => SameWork s z.1) (fun _ => .refl s) fun _ => ?_
  refine if_elim (P := fun z : State × Except Cause Loc => SameWork s z.1) (fun _ => ?_) fun _ => ?_
  · split
    · exact if_elim (P := fun z : State => SameWork s z) (fun _ => .of rfl rfl rfl rfl rfl rfl rfl rfl) fun _ => .refl s
    · rename_i t y h
      refine (sameWork_copyOnWrite h).trans ((sameWork_learn t ag y).trans (.trans ?_ (sameWork_throughCaches _ _ _ _ _)))
      exact if_elim (P := fun z : State => SameWork (t.learn ag y) z) (fun _ => hd _ _ _) fun _ => .refl _
  · refine .trans ?_ (sameWork_throughCaches _ _ _ _ _)
    exact if_elim (P := fun z : State => SameWork s z) (fun _ => hd _ _ _) fun _ => .refl s

theorem sameWork_ordinary (s : State) (ag : Agent) (kind : Acc) (va : DWord) : SameWork s (s.ordinary ag kind va).1 := by
  have h := sameWork_translate s ag va
  unfold State.ordinary
  split
  · rename_i heq; rw [heq] at h; exact h
  · rename_i heq; rw [heq] at h; exact h.trans (sameWork_throughPage _ _ _ _ _)

/-- The address step of one access. -/
theorem sameWork_access (s : State) (ag : Agent) (kind : Acc) (n : Nat) (a : DWord) : SameWork s (s.access ag kind n a).1 := by
  unfold State.access
  split
  · split
    · exact .refl s
    split
    · exact .refl s
    exact sameWork_ordinary _ _ _ _
  · split
    · exact .refl s
    dsimp only
    split
    · split
      · split <;> exact .refl s
      · exact .refl s
    split
    · exact .refl s
    have h := sameWork_translate s ag ((s.obj ag.ctx (oaIndex a)).base + BitVec.ofNat 64 (oaOffset a))
    split
    · rename_i heq; rw [heq] at h; exact h
    · rename_i heq
      rw [heq] at h
      split
      · exact h
      · exact h.trans (sameWork_throughPage _ _ _ _ _)
  · exact .refl s
  · exact .refl s

/-- The address step of a guarded access. -/
theorem sameWork_resolveLanes (r : PathRef) (kind : Acc) (n : Nat) (addr : Nat → DWord) (ls : List Nat) (s : State) (need : List Nat) :
    SameWork s (State.resolveLanes r kind n addr ls s need).1 := by
  induction ls generalizing s need with
  | nil => exact .refl s
  | cons l ls ih =>
    have h := sameWork_access s ((s.group r.group).agent r.group (some l)) kind n (addr l)
    unfold State.resolveLanes
    dsimp only
    split
    · exact h.trans (ih _ _)
    · split
      · exact h.trans (ih _ _)
      · split
        · exact h.trans (ih _ _)
        · rename_i heq
          exact h.trans ((sameWork_ifReserve heq).trans (ih _ _))

/-- The offset step of a scratchpad access. -/
theorem sameWork_padLanes (r : PathRef) (w : Bool) (n : Nat) (off : Nat → Nat) (ls : List Nat) (s : State) (need : Nat) :
    SameWork s (State.padLanes r w n off ls s need).1 := by
  induction ls generalizing s need with
  | nil => exact .refl s
  | cons l ls ih =>
    unfold State.padLanes
    dsimp only
    split
    · exact ih _ _
    · split
      · exact ih _ _
      · rename_i heq
        split at heq
        · exact (sameWork_reserve heq).trans (ih _ _)
        · cases heq; exact ih _ _

/-! Guarded accesses that reach their places. -/

theorem conclude_reached {s t : State} {r : PathRef} (hi : Issuing s r) (ht : SameWork s t) (eff : State → State) (after : Path → Path)
    (tc : BitVec 8) : conclude r [] true eff t after tc = wentBy t r after (eff t) :=
  conclude_none (by rw [ht.path]; exact hi.lanes) eff after tc

/-- The lanes that pass their checks, where all active ones do. -/
theorem passing {s : State} {r : PathRef} {u : Uses} (h : Ready s r u) (c : Checks) (hf : c.field = true) (hm : c.mode = true)
    (hz : ∀ ln, u.hazard (s.group r.group) ln = false → c.uses.hazard (s.group r.group) ln = false)
    (hp : ∀ l ∈ s.active r, u.poison (s.group r.group) ((s.group r.group).lane l) = false →
      c.uses.poison (s.group r.group) ((s.group r.group).lane l) = false)
    (hl : ∀ l ∈ s.active r, c.late l ((s.group r.group).lane l) = none) :
    ((s.active r).filterMap fun l => (c.guardedCause (s.group r.group) (s.path r) l).map fun x =>
      ({ lane := l, cause := x } : Stop)) = [] ∧
    (s.active r).filter (fun l => (c.guardedCause (s.group r.group) (s.path r) l).isNone) = s.active r := by
  have hc : ∀ l ∈ s.active r, c.guardedCause (s.group r.group) (s.path r) l = none := fun l hl' => by
    rw [guardedCause_of (h.guard l (mem_active hl')) (h.sure l hl')]
    exact cause_none hf hm (hz _ (h.free l hl').1) (hp _ hl' (h.free l hl').2) (hl l hl')
  constructor
  · rw [List.filterMap_eq_nil_iff]
    intro l hl
    simp [hc l hl]
  · rw [List.filter_eq_self]
    intro l hl
    simp [hc l hl]

/-- The places of a guarded access are as many as its active lanes. -/
theorem resolved_isEmpty {r : PathRef} {kind : Acc} {n : Nat} {addr : Nat → DWord} (ls : List Nat) (s t : State) (need : List Nat)
    (locs : List (Nat × Loc)) (h : State.resolveLanes r kind n addr ls s need = (t, locs, [])) : locs.isEmpty = ls.isEmpty := by
  cases ls with
  | nil => simp only [State.resolveLanes, Prod.mk.injEq] at h; rw [← h.2.1]; rfl
  | cons l ls =>
    unfold State.resolveLanes at h
    dsimp only at h
    split at h
    · simp at h
    · split at h
      · simp at h
      · split at h
        · simp at h
        · simp only [Prod.mk.injEq] at h; rw [← h.2.1]; rfl
theorem padded_isEmpty {r : PathRef} {w : Bool} {n : Nat} {off : Nat → Nat} (ls : List Nat) (s t : State) (need : Nat)
    (locs : List (Nat × Loc)) (h : State.padLanes r w n off ls s need = (t, locs, [])) : locs.isEmpty = ls.isEmpty := by
  cases ls with
  | nil => simp only [State.padLanes, Prod.mk.injEq] at h; rw [← h.2.1]; rfl
  | cons l ls =>
    unfold State.padLanes at h
    dsimp only at h
    split at h
    · simp at h
    · split at h
      · simp at h
      · simp only [Prod.mk.injEq] at h; rw [← h.2.1]; rfl

theorem memOp_ok {s t : State} {r : PathRef} {u : Uses} (h : Ready s r u) (chk : Group → Path → Checks) (kind : Acc) (n : Path → Nat)
    (addr : Group → Path → Lane → DWord) (eff : PathRef → Group → Path → List (Nat × Loc) → State → State)
    (after : State → List (Nat × Loc) → Path → Path) (locs : List (Nat × Loc))
    (hf : (chk (s.group r.group) (s.path r)).field = true) (hm : (chk (s.group r.group) (s.path r)).mode = true)
    (hz : ∀ ln, u.hazard (s.group r.group) ln = false →
      (chk (s.group r.group) (s.path r)).uses.hazard (s.group r.group) ln = false)
    (hp : ∀ l ∈ s.active r, u.poison (s.group r.group) ((s.group r.group).lane l) = false →
      (chk (s.group r.group) (s.path r)).uses.poison (s.group r.group) ((s.group r.group).lane l) = false)
    (hl : ∀ l ∈ s.active r, (chk (s.group r.group) (s.path r)).late l ((s.group r.group).lane l) = none)
    (hr : Reaches s r kind (n (s.path r)) (fun l => addr (s.group r.group) (s.path r) ((s.group r.group).lane l)) t locs) :
    memOp chk kind n addr eff s after = .next (wentBy t r (after s locs) (eff r (s.group r.group) (s.path r) locs t)) := by
  obtain ⟨h1, h2⟩ := passing h (chk (s.group r.group) (s.path r)) hf hm hz hp hl
  have hw : SameWork s t := by
    have := sameWork_resolveLanes r kind (n (s.path r)) (fun l => addr (s.group r.group) (s.path r) ((s.group r.group).lane l))
      (s.active r) s []
    rw [hr.1] at this
    exact this
  have he : ((s.active r).isEmpty || !locs.isEmpty) = true := by
    rw [resolved_isEmpty _ _ _ _ _ hr.1]; cases (s.active r).isEmpty <;> rfl
  simp only [memOp, issuing_of h.toIssuing, applied_eq_active h.guard, h1, h2, hr.1, hr.2.1, hr.2.2, ne_eq, not_true, Bool.false_eq_true, if_false, List.nil_append,
    he, conclude_reached h.toIssuing hw]

theorem padOp_ok {s t : State} {r : PathRef} {u : Uses} (h : Ready s r u) (chk : Group → Path → Checks) (writes : Bool) (n : Nat)
    (off : Group → Path → Lane → Nat) (eff : PathRef → Group → Path → List (Nat × Loc) → State → State) (locs : List (Nat × Loc))
    (hf : (chk (s.group r.group) (s.path r)).field = true) (hm : (chk (s.group r.group) (s.path r)).mode = true)
    (hz : ∀ ln, u.hazard (s.group r.group) ln = false →
      (chk (s.group r.group) (s.path r)).uses.hazard (s.group r.group) ln = false)
    (hp : ∀ l ∈ s.active r, u.poison (s.group r.group) ((s.group r.group).lane l) = false →
      (chk (s.group r.group) (s.path r)).uses.poison (s.group r.group) ((s.group r.group).lane l) = false)
    (hl : ∀ l ∈ s.active r, (chk (s.group r.group) (s.path r)).late l ((s.group r.group).lane l) = none)
    (hr : State.padLanes r writes n (fun l => off (s.group r.group) (s.path r) ((s.group r.group).lane l)) (s.active r) s 0 =
      (t, locs, [])) :
    padOp chk writes n off eff s = .next (went t r (eff r (s.group r.group) (s.path r) locs t)) := by
  obtain ⟨h1, h2⟩ := passing h (chk (s.group r.group) (s.path r)) hf hm hz hp hl
  have hw : SameWork s t := by
    have := sameWork_padLanes r writes n (fun l => off (s.group r.group) (s.path r) ((s.group r.group).lane l)) (s.active r) s 0
    rw [hr] at this
    exact this
  have he : ((s.active r).isEmpty || !locs.isEmpty) = true := by
    rw [padded_isEmpty _ _ _ _ _ hr]; cases (s.active r).isEmpty <;> rfl
  simp only [padOp, issuing_of h.toIssuing, applied_eq_active h.guard, h1, h2, hr, List.nil_append, he,
    conclude_reached h.toIssuing hw, went]

end Sys2Proof.Machine
end

