-- ==== Sys2Proof/Laws/Engines.lean ====
section
/-! SUPPORT. What the shared operations of the object instructions, the barriers and the tiles can do where nothing stands in their
way. -/

namespace Sys2Proof.Machine

/-- The checks of a word that uses uniform registers alone, and finds them free. -/
theorem cause_sfree {c : Checks} {g : Group} {rd wr : List Nat} (h : SFree g rd wr) (hf : c.field = true) (hm : c.mode = true)
    (hu : c.uses = { sr := rd, sw := wr }) (l : Nat) (ln : Lane) (hl : c.late l ln = none) : c.cause g l ln = none := by
  refine cause_none hf hm ?_ ?_ hl
  · rw [hu]; exact (sfree_uses h ln).1
  · rw [hu]; exact (sfree_uses h ln).2

/-- A uniform pair is a uniform register. -/
theorem isS_of_pair {x : BitVec 8} (h : isSPair x = true) : isS x = true := by
  simp only [isSPair, Bool.and_eq_true] at h; exact h.1

theorem reads1 {x : BitVec 8} (h : isS x = true) : readsRun x 1 = { sr := [sNum x] } := by
  rw [readsRun_s h]; simp [List.range_succ]
theorem reads2 {x : BitVec 8} (h : isS x = true) : readsRun x 2 = { sr := [sNum x, sNum x + 1] } := by
  rw [readsRun_s h]; simp [List.range_succ]
theorem writes1 {x : BitVec 8} (h : isS x = true) : writesRun x 1 = { sw := [sNum x] } := by
  rw [writesRun_s h]; simp [List.range_succ]
theorem writes2 {x : BitVec 8} (h : isS x = true) : writesRun x 2 = { sw := [sNum x, sNum x + 1] } := by
  rw [writesRun_s h]; simp [List.range_succ]

/-- A word over the object engine whose checks pass, that has no cause of its own, that waits for no frames (R127), and for whose log
entry there is room. -/
theorem allocOp_ok {s t : State} {r : PathRef} (hi : Issuing s r) (need : State → Group → Nat) (chk : Group → Path → Checks)
    (own : State → Group → Path → Option Cause) (addr : Group → DWord) (eff : PathRef → Group → Path → State → State)
    (hc : passes chk s r) (ho : own s (s.group r.group) (s.path r) = none)
    (hn : s.mustWait (need s (s.group r.group)) = false)
    (ht : s.reserve (s.group r.group).ctx 1 (s.group r.group).isHandler = some t) :
    allocOp need chk own addr eff s = .next (went t r (eff r (s.group r.group) (s.path r)
      (t.logIrrev (t.writer r.group (s.path r).lowLane) 3))) := by
  simp only [allocOp, issuing_of hi, hc, ho, hn, Bool.false_eq_true, if_false, ht, conclude_reached hi (sameWork_reserve ht), went]

/-- Nothing waits for no frames. -/
@[simp] theorem mustWait_zero (s : State) : s.mustWait 0 = false := by simp [State.mustWait]

/-- A word over the object engine that needs no frames. -/
theorem objectOp_ok {s t : State} {r : PathRef} (hi : Issuing s r) (chk : Group → Path → Checks)
    (own : State → Group → Path → Option Cause) (addr : Group → DWord) (eff : PathRef → Group → Path → State → State)
    (hc : passes chk s r) (ho : own s (s.group r.group) (s.path r) = none)
    (ht : s.reserve (s.group r.group).ctx 1 (s.group r.group).isHandler = some t) :
    objectOp chk own addr eff s = .next (went t r (eff r (s.group r.group) (s.path r)
      (t.logIrrev (t.writer r.group (s.path r).lowLane) 3))) := by
  exact allocOp_ok hi _ chk own addr eff hc ho (mustWait_zero s) ht

/-- A word whose checks pass, among them those of the state. -/
theorem checkedOp_ok {s : State} {r : PathRef} (hi : Issuing s r) (chk : Group → Path → Checks)
    (late : State → Group → Path → Option Cause) (eff : PathRef → Group → Path → State → State)
    (after : State → Group → Path → Path → Path) (hc : passes chk s r) (hl : late s (s.group r.group) (s.path r) = none) :
    checkedOp chk late eff after s = .next (wentBy s r (after s (s.group r.group) (s.path r))
      (eff r (s.group r.group) (s.path r) s)) := by
  simp only [checkedOp, issuing_of hi, hc, hl, conclude_none hi.lanes]

/-- An update of a barrier object that its reference names. -/
theorem barrierOp_ok {s t : State} {r : PathRef} (hi : Issuing s r) (chk : Group → Checks) (ref : BitVec 8)
    (ok : Group → Barrier → Bool) (f : Group → Barrier → Barrier) (pub : Bool) {k off : Nat}
    (hc : (chk (s.group r.group)).cause (s.group r.group) 0 {} = none)
    (ho : s.objectRef (s.group r.group) ((s.group r.group).sreg (sNum ref)) = some (k, off))
    (hp : s.poisoned (.pad k off) 16 = false) (hk : ok (s.group r.group) (s.barrier k off) = true)
    (ht : s.reserve (s.group r.group).ctx 1 (s.group r.group).isHandler = some t) :
    barrierOp chk ref ok f pub s = .next (went t r (
      let u := t.updBarrier (t.writer r.group (s.path r).lowLane) 2 k off (f (s.group r.group))
      if pub && bit ((s.group r.group).sreg (sNum ref)) 31 && !(s.group r.group).isHandler then u.publish (s.group r.group).team
      else u)) := by
  simp only [barrierOp, issuing_of hi, hc, ho, hp, hk, Bool.not_true, Bool.false_eq_true, if_false, ht,
    conclude_reached hi (sameWork_reserve ht), went]

/-- A tile instruction with an offset whose tile is not in flight. -/
theorem tileOp_ok {s t : State} {r : PathRef} (hi : Issuing s r) (d b : BitVec 8) (halves : State → Group → List (Nat × Nat))
    (ok : State → Group → Bool) (entries : Group → State → Nat) (eff : PathRef → Group → Path → State → State)
    (hb : isS b = true) (hd : d.toNat < s.tilesOf (s.group r.group)) (hp : bit (s.group r.group).sPend (sNum b) = false)
    (hf : s.inFlight (halves (s.view r) (s.group r.group)) = false) (ho : ok (s.view r) (s.group r.group) = true)
    (ht : s.reserve (s.group r.group).ctx (entries (s.group r.group) (s.view r)) (s.group r.group).isHandler = some t) :
    tileOp d b halves ok entries eff s = .next (went t r ((eff r (s.group r.group) (s.path r) t).issueTile r (s.path r)
      (halves (s.view r) (s.group r.group)))) := by
  have hd' : ¬ (s.tilesOf (s.group r.group) ≤ d.toNat) := by omega
  simp only [tileOp, issuing_of hi, hb, ge_iff_le, hd', decide_false, hp, hf, ho, Bool.not_true, Bool.not_false, Bool.and_false,
    Bool.or_false, Bool.false_eq_true, if_false, ht, conclude_reached hi (sameWork_reserve ht), went]

end Sys2Proof.Machine
end

