-- ==== Sys2Proof/Laws/Frames.lean ====
section
/-! SUPPORT. The frames of the words that compute in registers: what a stop, a retirement and the shared operations leave as it was. -/

namespace Sys2Proof.Machine

/-- Outside group `k` nothing has changed, and of it only the registers named. -/
abbrev framed (k : Nat) (vw pw sw qw : List Nat) (fl : Bool) (s t : State) : Prop :=
  OnlyGroup k s t ∧ OnlyRegs vw pw sw qw fl (s.group k) (t.group k)

theorem onlyGroup_refl (k : Nat) (s : State) : OnlyGroup k s s :=
  ⟨rfl, rfl, rfl, fun _ _ => rfl, fun _ => rfl, rfl, rfl, rfl, rfl, rfl, ⟨rfl, rfl, rfl⟩, rfl, ⟨rfl, rfl⟩, ⟨rfl, rfl, rfl⟩⟩

theorem onlyGroup_trans {k : Nat} {s t u : State} (h : OnlyGroup k s t) (h' : OnlyGroup k t u) : OnlyGroup k s u :=
  ⟨h'.mem.trans h.mem, h'.hmem.trans h.hmem, h'.poison.trans h.poison, fun x hx => (h'.groups x hx).trans (h.groups x hx),
   fun x => (h'.teams x).trans (h.teams x), h'.cores.trans h.cores, h'.ctxs.trans h.ctxs, h'.queues.trans h.queues,
   h'.grids.trans h.grids, h'.ops.trans h.ops,
   ⟨h'.pool.1.trans h.pool.1, h'.pool.2.1.trans h.pool.2.1, h'.pool.2.2.trans h.pool.2.2⟩, h'.host.trans h.host,
   ⟨h'.tlb.1.trans h.tlb.1, h'.tlb.2.trans h.tlb.2⟩,
   ⟨h'.seen.1.trans h.seen.1, h'.seen.2.1.trans h.seen.2.1, h'.seen.2.2.trans h.seen.2.2⟩⟩

theorem onlyRegs_refl (vw pw sw qw : List Nat) (fl : Bool) (g : Group) : OnlyRegs vw pw sw qw fl g g :=
  ⟨fun _ _ _ => rfl, fun _ _ _ => rfl, fun _ _ => rfl, fun _ _ => rfl, fun _ _ => rfl, ⟨rfl, fun _ => ⟨rfl, rfl⟩⟩, rfl,
   ⟨rfl, rfl, rfl⟩, ⟨rfl, rfl⟩, fun _ => ⟨rfl, rfl, rfl⟩⟩

theorem onlyRegs_trans {vw pw sw qw : List Nat} {fl : Bool} {a b c : Group} (h : OnlyRegs vw pw sw qw fl a b)
    (h' : OnlyRegs vw pw sw qw fl b c) : OnlyRegs vw pw sw qw fl a c :=
  ⟨fun l n hn => (h'.vregs l n hn).trans (h.vregs l n hn), fun l n hn => (h'.preds l n hn).trans (h.preds l n hn),
   fun n hn => (h'.sregs n hn).trans (h.sregs n hn), fun n hn => (h'.qpreds n hn).trans (h.qpreds n hn),
   fun hf l => (h'.flags hf l).trans (h.flags hf l),
   ⟨h'.pend.1.trans h.pend.1, fun l => ⟨(h'.pend.2 l).1.trans (h.pend.2 l).1, (h'.pend.2 l).2.trans (h.pend.2 l).2⟩⟩,
   h'.counts.trans h.counts, ⟨h'.window.1.trans h.window.1, h'.window.2.1.trans h.window.2.1, h'.window.2.2.trans h.window.2.2⟩,
   ⟨h'.keys.1.trans h.keys.1, h'.keys.2.trans h.keys.2⟩,
   fun l => ⟨(h'.special l).1.trans (h.special l).1, (h'.special l).2.1.trans (h.special l).2.1,
             (h'.special l).2.2.trans (h.special l).2.2⟩⟩

theorem framed_refl (k : Nat) (vw pw sw qw : List Nat) (fl : Bool) (s : State) : framed k vw pw sw qw fl s s :=
  ⟨onlyGroup_refl k s, onlyRegs_refl vw pw sw qw fl _⟩

theorem framed_trans {k : Nat} {vw pw sw qw : List Nat} {fl : Bool} {s t u : State} (h : framed k vw pw sw qw fl s t)
    (h' : framed k vw pw sw qw fl t u) : framed k vw pw sw qw fl s u := ⟨onlyGroup_trans h.1 h'.1, onlyRegs_trans h.2 h'.2⟩

/-- A group is replaced by one that differs in the registers named. -/
theorem framed_setGroup {k : Nat} {vw pw sw qw : List Nat} {fl : Bool} {s : State} {g : Group}
    (h : OnlyRegs vw pw sw qw fl (s.group k) g) : framed k vw pw sw qw fl s (s.setGroup k g) := by
  refine ⟨⟨rfl, rfl, rfl, fun x hx => ?_, fun _ => rfl, rfl, rfl, rfl, rfl, rfl, ⟨rfl, rfl, rfl⟩, rfl, ⟨rfl, rfl⟩, ⟨rfl, rfl, rfl⟩⟩, ?_⟩
  · rw [group_setGroup, if_neg hx]
  · rw [group_setGroup, if_pos rfl]; exact h

/-- Only paths, or what a stop leaves in a lane, have changed. -/
theorem onlyRegs_setPath {vw pw sw qw : List Nat} {fl : Bool} {a g : Group} (i : Nat) (p : Path)
    (h : OnlyRegs vw pw sw qw fl a g) : OnlyRegs vw pw sw qw fl a (g.setPath i p) :=
  ⟨h.vregs, h.preds, h.sregs, h.qpreds, h.flags, h.pend, h.counts, h.window, h.keys, h.special⟩

theorem framed_updPath (vw pw sw qw : List Nat) (fl : Bool) (s : State) (r : PathRef) (f : Path → Path) :
    framed r.group vw pw sw qw fl s (s.updPath r f) :=
  framed_setGroup (onlyRegs_setPath _ _ (onlyRegs_refl ..))

/-- What a lane keeps where only the registers named change. -/
structure LaneKeeps (vw pw : List Nat) (fl : Bool) (a b : Lane) : Prop where
  vregs  : ∀ n, n ∉ vw → b.reg n = a.reg n
  preds  : ∀ n, n ∉ pw → b.pred n = a.pred n
  flags  : fl = false → b.fpstat = a.fpstat
  pend   : b.vPend = a.vPend ∧ b.pPend = a.pPend
  others : b.sridx = a.sridx ∧ b.marks = a.marks ∧ b.lastPage = a.lastPage

theorem onlyRegs_updLane {vw pw sw qw : List Nat} {fl : Bool} {a g : Group} (l : Nat) (f : Lane → Lane)
    (h : OnlyRegs vw pw sw qw fl a g) (hf : LaneKeeps vw pw fl (g.lane l) (f (g.lane l))) :
    OnlyRegs vw pw sw qw fl a (g.updLane l f) := by
  refine onlyRegs_trans h ⟨fun m n hn => ?_, fun m n hn => ?_, fun _ _ => rfl, fun _ _ => rfl, fun hfl m => ?_, ⟨rfl, fun m => ?_⟩,
    rfl, ⟨rfl, rfl, rfl⟩, ⟨rfl, rfl⟩, fun m => ?_⟩ <;> rw [lane_updLane]
  · split
    · subst_vars; exact hf.vregs n hn
    · rfl
  · split
    · subst_vars; exact hf.preds n hn
    · rfl
  · split
    · rename_i h; rw [h]; exact hf.flags hfl
    · rfl
  · split
    · subst_vars; exact hf.pend
    · exact ⟨rfl, rfl⟩
  · split
    · subst_vars; exact hf.others
    · exact ⟨rfl, rfl, rfl⟩

theorem onlyRegs_lanes {vw pw sw qw : List Nat} {fl : Bool} {a : Group} (ls : List Nat) (f : Nat → Lane → Lane)
    (hf : ∀ l ln, LaneKeeps vw pw fl ln (f l ln)) : ∀ g : Group, OnlyRegs vw pw sw qw fl a g →
    OnlyRegs vw pw sw qw fl a (ls.foldl (fun g l => g.updLane l (f l)) g) := by
  induction ls with
  | nil => exact fun g h => h
  | cons l ls ih => exact fun g h => ih _ (onlyRegs_updLane l (f l) h (hf l _))

theorem framed_onLanes (vw pw sw qw : List Nat) (fl : Bool) (s : State) (k : Nat) (ls : List Nat) (f : Nat → Lane → Lane)
    (hf : ∀ l ln, LaneKeeps vw pw fl ln (f l ln)) : framed k vw pw sw qw fl s (s.onLanes k ls f) :=
  framed_setGroup (onlyRegs_lanes ls f hf _ (onlyRegs_refl ..))

/-- A retirement changes counts alone. -/
theorem framed_retire (vw pw sw qw : List Nat) (fl : Bool) (s : State) (k : Nat) (ls : List Nat) :
    framed k vw pw sw qw fl s (s.retire k ls) := by
  have h1 := framed_onLanes vw pw sw qw fl s k ls
    (fun _ ln => { ln with rcnt := if ln.rcnt = 0xFFFFFFFF then ln.rcnt else ln.rcnt + 1 })
    (fun _ _ => ⟨fun _ _ => rfl, fun _ _ => rfl, fun _ => rfl, ⟨rfl, rfl⟩, ⟨rfl, rfl, rfl⟩⟩)
  simp only [State.retire]
  split
  · exact h1
  · refine framed_trans h1 ⟨⟨rfl, rfl, rfl, fun _ _ => rfl, fun x => ?_, rfl, rfl, rfl, rfl, rfl, ⟨rfl, rfl, rfl⟩, rfl, ⟨rfl, rfl⟩, ⟨rfl, rfl, rfl⟩⟩,
      onlyRegs_refl ..⟩
    simp only [State.team, State.updTeam, State.setTeam, tget_tput]
    split
    · subst_vars; rfl
    · rfl

/-- Posting an event changes the agenda alone. -/
theorem framed_post (k : Nat) (vw pw sw qw : List Nat) (fl : Bool) (s : State) (i : Instr) (a : Args) :
    framed k vw pw sw qw fl s (s.post i a) := by
  simp only [State.post]
  split
  · exact framed_refl ..
  · exact ⟨⟨rfl, rfl, rfl, fun _ _ => rfl, fun _ => rfl, rfl, rfl, rfl, rfl, rfl, ⟨rfl, rfl, rfl⟩, rfl, ⟨rfl, rfl⟩, ⟨rfl, rfl, rfl⟩⟩, onlyRegs_refl ..⟩

/-- Lanes that stop keep their registers. -/
theorem onlyRegs_freeze (vw pw sw qw : List Nat) (fl : Bool) (g : Group) (i : Nat) (stops : List Stop) (who : Freezer) (tc : BitVec 8) (now : Nat) :
    OnlyRegs vw pw sw qw fl g (g.freeze i stops who tc now).1 := by
  have key : ∀ (stops : List Stop) (h : Group), OnlyRegs vw pw sw qw fl g h →
      OnlyRegs vw pw sw qw fl g (stops.foldl (fun g st => g.updLane st.lane fun ln => ln.stopped st) h) := by
    intro stops
    induction stops with
    | nil => exact fun h hh => hh
    | cons st stops ih =>
      exact fun h hh => ih _ (onlyRegs_updLane _ _ hh ⟨fun _ _ => rfl, fun _ _ => rfl, fun _ => rfl, ⟨rfl, rfl⟩, ⟨rfl, rfl, rfl⟩⟩)
  have h1 : OnlyRegs vw pw sw qw fl g
      { (stops.foldl (fun g st => g.updLane st.lane fun ln => ln.stopped st) g) with latch := none } :=
    let h := key stops g (onlyRegs_refl ..)
    ⟨h.vregs, h.preds, h.sregs, h.qpreds, h.flags, h.pend, h.counts, h.window, h.keys, h.special⟩
  simp only [Group.freeze]
  split
  · exact onlyRegs_setPath _ _ h1
  · exact onlyRegs_setPath _ _ (onlyRegs_setPath _ _ h1)

theorem framed_stop (vw pw sw qw : List Nat) (fl : Bool) (s : State) (r : PathRef) (stops : List Stop) (tc : BitVec 8) :
    framed r.group vw pw sw qw fl s (s.stop r stops tc) := by
  simp only [State.stop]
  split
  · exact framed_setGroup (onlyRegs_freeze ..)
  · exact framed_trans (framed_setGroup (onlyRegs_freeze ..)) (framed_post ..)

/-- The common end of a word whose effect has a frame. -/
theorem framed_conclude {vw pw sw qw : List Nat} {fl : Bool} {s : State} {r : PathRef} (stops : List Stop) (iss : Bool)
    (eff : State → State) (after : Path → Path) (tc : BitVec 8)
    (h : ∀ u, (stops = [] ∨ maskOf (stops.map (·.lane)) ≠ (s.path r).mask) → framed r.group vw pw sw qw fl s u →
      (stops = [] → u = s) → framed r.group vw pw sw qw fl u (eff u)) :
    framed r.group vw pw sw qw fl s (conclude r stops iss eff s after tc) := by
  have hold : framed r.group vw pw sw qw fl s (s.hold r 17) := framed_updPath ..
  have hu : framed r.group vw pw sw qw fl s (if stops.isEmpty then s else s.stop r stops tc) := by
    split
    · exact framed_refl ..
    · exact framed_stop ..
  have hs : stops = [] → (if stops.isEmpty then s else s.stop r stops tc) = s := by rintro rfl; rfl
  simp only [conclude]
  split
  · exact hold
  · split
    · exact framed_stop ..
    · rename_i hb
      refine framed_trans ?_ (framed_updPath ..)
      cases iss
      · exact hu
      · exact framed_trans hu (framed_trans (h _ (.inr hb) hu hs) (framed_retire ..))

/-- A guarded word of lanes whose effect in a lane keeps all but the registers named. -/
theorem framed_laneOp {vw pw : List Nat} {fl : Bool} {s t : State} {r : PathRef} (hi : Issuing s r) (chk : Group → Path → Checks)
    (f : Group → Path → Nat → Lane → Lane)
    (hf : ∀ l ln, LaneKeeps vw pw fl ln (f (s.group r.group) (s.path r) l ln)) (ht : laneOp chk f s = .next t) :
    framed r.group vw pw [] [] fl s t := by
  simp only [laneOp, guardedOp, issuing_of hi, Host.Outcome.next.injEq] at ht
  subst ht
  exact framed_conclude _ _ _ _ _ fun u _ _ _ => framed_onLanes _ _ _ _ _ _ _ _ _ hf

/-- The same of a word that acts once for its path. -/
theorem framed_groupOp {vw pw sw qw : List Nat} {fl : Bool} {s t : State} {r : PathRef} (hi : Issuing s r)
    (chk : Group → Path → Checks) (f : Group → Path → Group)
    (hf : OnlyRegs vw pw sw qw fl (s.group r.group) (f (s.group r.group) (s.path r))) (ht : groupOp chk f s = .next t) :
    framed r.group vw pw sw qw fl s t := by
  simp only [groupOp, uniformOp, issuing_of hi, Host.Outcome.next.injEq] at ht
  subst ht
  refine framed_conclude _ _ _ _ _ fun u h1 _ h3 => ?_
  cases hc : (chk (s.group r.group) (s.path r)).cause (s.group r.group) 0 {} with
  | none => simp only [hc, true_implies] at h3; rw [h3]; exact framed_setGroup hf
  | some x =>
    exfalso
    simp only [hc] at h1
    have hne := lanesOf_ne_nil hi.lanes
    rcases h1 with h1 | h1
    · exact hne (List.map_eq_nil_iff.1 h1)
    · apply h1
      rw [List.map_map]
      have : (fun st : Stop => st.lane) ∘ (fun l => ({ lane := l, cause := x } : Stop)) = id := rfl
      rw [this, List.map_id]
      exact maskOf_lanesOf _

/-- A uniform register is written. -/
theorem onlyRegs_setSreg (fl : Bool) (g : Group) (n : Nat) (x : Word) : OnlyRegs [] [] [n] [] fl g (g.setSreg n x) :=
  ⟨fun _ _ _ => rfl, fun _ _ _ => rfl,
   fun m hm => by
     have h : m ≠ n := fun h => hm (by simp [h])
     simp only [Group.sreg, Group.setSreg, tget_tput, if_neg h], fun _ _ => rfl,
   fun _ _ => rfl, ⟨rfl, fun _ => ⟨rfl, rfl⟩⟩, rfl, ⟨rfl, rfl, rfl⟩, ⟨rfl, rfl⟩, fun _ => ⟨rfl, rfl, rfl⟩⟩

/-! What a write of a register, and a raised flag, keep of a lane. -/

theorem regs_setReg (ln : Lane) (r n : Nat) (x : Word) (po : Bool) (h : n ≠ r) : (ln.setReg r x po).reg n = ln.reg n := by
  simp only [Lane.reg, Lane.setReg, tget_tput, if_neg h]

theorem keeps_image {e r : Nat} (fl : Bool) (ln : Lane) (x : DWord) :
   LaneKeeps ((List.range (eRegs e)).map (r + ·)) [] fl ln (ln.setImage e r x) := by
  simp only [Lane.setImage]
  split <;> rename_i h
  · refine ⟨fun n hn => ?_, fun _ _ => rfl, fun _ => rfl, ⟨rfl, rfl⟩, ⟨rfl, rfl, rfl⟩⟩
    have h2 : eRegs e = 2 := by simp [eRegs, h]
    simp [h2, List.range_succ] at hn
    simp only [Lane.setPair]; rw [regs_setReg, regs_setReg] <;> omega
  · refine ⟨fun n hn => ?_, fun _ _ => rfl, fun _ => rfl, ⟨rfl, rfl⟩, ⟨rfl, rfl, rfl⟩⟩
    have h2 : eRegs e = 1 := by simp [eRegs, h]
    simp [h2] at hn
    rw [regs_setReg]; omega

theorem keeps_raise {vw pw} {a b : Lane} (f : FFlags) (h : LaneKeeps vw pw true a b) : LaneKeeps vw pw true a (b.raise f) :=
  ⟨h.vregs, h.preds, fun h => by simp at h, h.pend, h.others⟩

end Sys2Proof.Machine
end

