-- ==== Sys2Proof/Laws/PerInstr.lean ====
section
/-! SUPPORT. The statements made for each instruction: the opcode of the word of a well-formed instruction is assigned in R69 and R70,
unless the instruction stands for an unassigned one. -/

namespace Sys2Proof.Laws.Encoding

/-- The term stands for a word with an unassigned opcode. -/
def isUnassigned : Instr → Bool
  | .illegalInstruction _ => true
  | _ => false

/-- What is stated of each instruction. -/
def Statement (i : Instr) : Prop :=
  ∀ w : BitVec 32, i.wellFormed = true → encode i = some w → unassignedOpcode (opcodeOf w) = isUnassigned i

/-- An instruction whose word is assembled from an assigned opcode. -/
theorem of_word {i : Instr} {op d a b : BitVec 8} (h : encode i = some (assemble op d a b))
    (hu : unassignedOpcode op.toNat = false) (hn : isUnassigned i = false) : Statement i := by
  intro w _ hw
  rw [h] at hw
  injection hw with hw
  rw [← hw, opcodeOf_assemble, hu, hn]

/-- An event has no word. -/
theorem of_none {i : Instr} (h : encode i = none) : Statement i := by
  intro w _ hw
  rw [h] at hw
  cases hw

theorem bra (h : BitVec 2) (o : BitVec 16) : Statement (.bra h o) := of_word rfl rfl rfl
theorem brp (h : BitVec 2) (p : BitVec 3) (o : BitVec 16) : Statement (.brp h p o) := of_word rfl rfl rfl
theorem brpn (h : BitVec 2) (p : BitVec 3) (o : BitVec 16) : Statement (.brpn h p o) := of_word rfl rfl rfl
theorem brq (h : BitVec 2) (p : BitVec 3) (o : BitVec 16) : Statement (.brq h p o) := of_word rfl rfl rfl
theorem call (h : BitVec 2) (o : BitVec 16) : Statement (.call h o) := of_word rfl rfl rfl
theorem calli (a : BitVec 8) : Statement (.calli a) := of_word rfl rfl rfl
theorem jmpi (a : BitVec 8) : Statement (.jmpi a) := of_word rfl rfl rfl
theorem regang (a : BitVec 8) : Statement (.regang a) := of_word rfl rfl rfl
theorem yieldc (d : BitVec 8) (a : BitVec 8) : Statement (.yieldc d a) := of_word rfl rfl rfl
theorem waitf (a : BitVec 8) (b : BitVec 8) : Statement (.waitf a b) := of_word rfl rfl rfl
theorem trap (b : BitVec 8) : Statement (.trap b) := of_word rfl rfl rfl
theorem brk (b : BitVec 8) : Statement (.brk b) := of_word rfl rfl rfl
theorem setmode (b : BitVec 8) : Statement (.setmode b) := of_word rfl rfl rfl
theorem setmodeK (k : BitVec 8) : Statement (.setmodeK k) := of_word rfl rfl rfl
theorem srd (d : BitVec 8) (b : BitVec 8) : Statement (.srd d b) := of_word rfl rfl rfl
theorem swr (a : BitVec 8) (b : BitVec 8) : Statement (.swr a b) := of_word rfl rfl rfl
theorem sadd (d : BitVec 8) (a : BitVec 8) (b : BitVec 8) : Statement (.sadd d a b) := of_word rfl rfl rfl
theorem saddK (d : BitVec 8) (a : BitVec 8) (k : BitVec 8) : Statement (.saddK d a k) := of_word rfl rfl rfl
theorem ssub (d : BitVec 8) (a : BitVec 8) (b : BitVec 8) : Statement (.ssub d a b) := of_word rfl rfl rfl
theorem ssubK (d : BitVec 8) (a : BitVec 8) (k : BitVec 8) : Statement (.ssubK d a k) := of_word rfl rfl rfl
theorem smul (d : BitVec 8) (a : BitVec 8) (b : BitVec 8) : Statement (.smul d a b) := of_word rfl rfl rfl
theorem smulK (d : BitVec 8) (a : BitVec 8) (k : BitVec 8) : Statement (.smulK d a k) := of_word rfl rfl rfl
theorem smulh (d : BitVec 8) (a : BitVec 8) (b : BitVec 8) : Statement (.smulh d a b) := of_word rfl rfl rfl
theorem sand (d : BitVec 8) (a : BitVec 8) (b : BitVec 8) : Statement (.sand d a b) := of_word rfl rfl rfl
theorem sandK (d : BitVec 8) (a : BitVec 8) (k : BitVec 8) : Statement (.sandK d a k) := of_word rfl rfl rfl
theorem sor (d : BitVec 8) (a : BitVec 8) (b : BitVec 8) : Statement (.sor d a b) := of_word rfl rfl rfl
theorem sorK (d : BitVec 8) (a : BitVec 8) (k : BitVec 8) : Statement (.sorK d a k) := of_word rfl rfl rfl
theorem sxor (d : BitVec 8) (a : BitVec 8) (b : BitVec 8) : Statement (.sxor d a b) := of_word rfl rfl rfl
theorem sxorK (d : BitVec 8) (a : BitVec 8) (k : BitVec 8) : Statement (.sxorK d a k) := of_word rfl rfl rfl
theorem sshl (d : BitVec 8) (a : BitVec 8) (b : BitVec 8) : Statement (.sshl d a b) := of_word rfl rfl rfl
theorem sshlK (d : BitVec 8) (a : BitVec 8) (k : BitVec 8) : Statement (.sshlK d a k) := of_word rfl rfl rfl
theorem sshr (d : BitVec 8) (a : BitVec 8) (b : BitVec 8) : Statement (.sshr d a b) := of_word rfl rfl rfl
theorem sshrK (d : BitVec 8) (a : BitVec 8) (k : BitVec 8) : Statement (.sshrK d a k) := of_word rfl rfl rfl
theorem ssra (d : BitVec 8) (a : BitVec 8) (b : BitVec 8) : Statement (.ssra d a b) := of_word rfl rfl rfl
theorem ssraK (d : BitVec 8) (a : BitVec 8) (k : BitVec 8) : Statement (.ssraK d a k) := of_word rfl rfl rfl
theorem smin (d : BitVec 8) (a : BitVec 8) (b : BitVec 8) : Statement (.smin d a b) := of_word rfl rfl rfl
theorem sminK (d : BitVec 8) (a : BitVec 8) (k : BitVec 8) : Statement (.sminK d a k) := of_word rfl rfl rfl
theorem smax (d : BitVec 8) (a : BitVec 8) (b : BitVec 8) : Statement (.smax d a b) := of_word rfl rfl rfl
theorem smaxK (d : BitVec 8) (a : BitVec 8) (k : BitVec 8) : Statement (.smaxK d a k) := of_word rfl rfl rfl
theorem scmp (c : BitVec 3) (q : BitVec 3) (a : BitVec 8) (b : BitVec 8) : Statement (.scmp c q a b) := of_word rfl rfl rfl
theorem scmpK (c : BitVec 3) (q : BitVec 3) (a : BitVec 8) (k : BitVec 8) : Statement (.scmpK c q a k) := of_word rfl rfl rfl
theorem ssel (d : BitVec 8) (n : BitVec 3) (b : BitVec 8) : Statement (.ssel d n b) := of_word rfl rfl rfl
theorem sselK (d : BitVec 8) (n : BitVec 3) (k : BitVec 8) : Statement (.sselK d n k) := of_word rfl rfl rfl
theorem smov (d : BitVec 8) (b : BitVec 8) : Statement (.smov d b) := of_word rfl rfl rfl
theorem smovK (d : BitVec 8) (k : BitVec 8) : Statement (.smovK d k) := of_word rfl rfl rfl
theorem sadd64 (d : BitVec 8) (a : BitVec 8) (b : BitVec 8) : Statement (.sadd64 d a b) := of_word rfl rfl rfl
theorem sadd64K (d : BitVec 8) (a : BitVec 8) (k : BitVec 8) : Statement (.sadd64K d a k) := of_word rfl rfl rfl
theorem sbfe (d : BitVec 8) (a : BitVec 8) (b : BitVec 8) : Statement (.sbfe d a b) := of_word rfl rfl rfl
theorem sbfeK (d : BitVec 8) (a : BitVec 8) (k : BitVec 8) : Statement (.sbfeK d a k) := of_word rfl rfl rfl
theorem spopc (d : BitVec 8) (a : BitVec 8) : Statement (.spopc d a) := of_word rfl rfl rfl
theorem vadd (d : BitVec 8) (a : BitVec 8) (b : BitVec 8) : Statement (.vadd d a b) := of_word rfl rfl rfl
theorem vaddK (d : BitVec 8) (a : BitVec 8) (k : BitVec 8) : Statement (.vaddK d a k) := of_word rfl rfl rfl
theorem vsub (d : BitVec 8) (a : BitVec 8) (b : BitVec 8) : Statement (.vsub d a b) := of_word rfl rfl rfl
theorem vsubK (d : BitVec 8) (a : BitVec 8) (k : BitVec 8) : Statement (.vsubK d a k) := of_word rfl rfl rfl
theorem vmul (d : BitVec 8) (a : BitVec 8) (b : BitVec 8) : Statement (.vmul d a b) := of_word rfl rfl rfl
theorem vmulK (d : BitVec 8) (a : BitVec 8) (k : BitVec 8) : Statement (.vmulK d a k) := of_word rfl rfl rfl
theorem vmulh (d : BitVec 8) (a : BitVec 8) (b : BitVec 8) : Statement (.vmulh d a b) := of_word rfl rfl rfl
theorem vmad (d : BitVec 8) (a : BitVec 8) (b : BitVec 8) : Statement (.vmad d a b) := of_word rfl rfl rfl
theorem vmadK (d : BitVec 8) (a : BitVec 8) (k : BitVec 8) : Statement (.vmadK d a k) := of_word rfl rfl rfl
theorem vand (d : BitVec 8) (a : BitVec 8) (b : BitVec 8) : Statement (.vand d a b) := of_word rfl rfl rfl
theorem vandK (d : BitVec 8) (a : BitVec 8) (k : BitVec 8) : Statement (.vandK d a k) := of_word rfl rfl rfl
theorem vor (d : BitVec 8) (a : BitVec 8) (b : BitVec 8) : Statement (.vor d a b) := of_word rfl rfl rfl
theorem vorK (d : BitVec 8) (a : BitVec 8) (k : BitVec 8) : Statement (.vorK d a k) := of_word rfl rfl rfl
theorem vxor (d : BitVec 8) (a : BitVec 8) (b : BitVec 8) : Statement (.vxor d a b) := of_word rfl rfl rfl
theorem vxorK (d : BitVec 8) (a : BitVec 8) (k : BitVec 8) : Statement (.vxorK d a k) := of_word rfl rfl rfl
theorem vshl (d : BitVec 8) (a : BitVec 8) (b : BitVec 8) : Statement (.vshl d a b) := of_word rfl rfl rfl
theorem vshlK (d : BitVec 8) (a : BitVec 8) (k : BitVec 8) : Statement (.vshlK d a k) := of_word rfl rfl rfl
theorem vshr (d : BitVec 8) (a : BitVec 8) (b : BitVec 8) : Statement (.vshr d a b) := of_word rfl rfl rfl
theorem vshrK (d : BitVec 8) (a : BitVec 8) (k : BitVec 8) : Statement (.vshrK d a k) := of_word rfl rfl rfl
theorem vsra (d : BitVec 8) (a : BitVec 8) (b : BitVec 8) : Statement (.vsra d a b) := of_word rfl rfl rfl
theorem vsraK (d : BitVec 8) (a : BitVec 8) (k : BitVec 8) : Statement (.vsraK d a k) := of_word rfl rfl rfl
theorem vmin (d : BitVec 8) (a : BitVec 8) (b : BitVec 8) : Statement (.vmin d a b) := of_word rfl rfl rfl
theorem vminK (d : BitVec 8) (a : BitVec 8) (k : BitVec 8) : Statement (.vminK d a k) := of_word rfl rfl rfl
theorem vmax (d : BitVec 8) (a : BitVec 8) (b : BitVec 8) : Statement (.vmax d a b) := of_word rfl rfl rfl
theorem vmaxK (d : BitVec 8) (a : BitVec 8) (k : BitVec 8) : Statement (.vmaxK d a k) := of_word rfl rfl rfl
theorem vabs (d : BitVec 8) (a : BitVec 8) : Statement (.vabs d a) := of_word rfl rfl rfl
theorem vneg (d : BitVec 8) (a : BitVec 8) : Statement (.vneg d a) := of_word rfl rfl rfl
theorem vbfe (d : BitVec 8) (a : BitVec 8) (b : BitVec 8) : Statement (.vbfe d a b) := of_word rfl rfl rfl
theorem vbfeK (d : BitVec 8) (a : BitVec 8) (k : BitVec 8) : Statement (.vbfeK d a k) := of_word rfl rfl rfl
theorem vbfi (d : BitVec 8) (a : BitVec 8) (b : BitVec 8) : Statement (.vbfi d a b) := of_word rfl rfl rfl
theorem vbfiK (d : BitVec 8) (a : BitVec 8) (k : BitVec 8) : Statement (.vbfiK d a k) := of_word rfl rfl rfl
theorem vpopc (d : BitVec 8) (a : BitVec 8) : Statement (.vpopc d a) := of_word rfl rfl rfl
theorem vclz (d : BitVec 8) (a : BitVec 8) : Statement (.vclz d a) := of_word rfl rfl rfl
theorem vcmp (c : BitVec 3) (p : BitVec 3) (a : BitVec 8) (b : BitVec 8) : Statement (.vcmp c p a b) := of_word rfl rfl rfl
theorem vcmpK (c : BitVec 3) (p : BitVec 3) (a : BitVec 8) (k : BitVec 8) : Statement (.vcmpK c p a k) := of_word rfl rfl rfl
theorem vsel (d : BitVec 8) (n : BitVec 3) (b : BitVec 8) : Statement (.vsel d n b) := of_word rfl rfl rfl
theorem vselK (d : BitVec 8) (n : BitVec 3) (k : BitVec 8) : Statement (.vselK d n k) := of_word rfl rfl rfl
theorem vmov (d : BitVec 8) (b : BitVec 8) : Statement (.vmov d b) := of_word rfl rfl rfl
theorem vmovK (d : BitVec 8) (k : BitVec 8) : Statement (.vmovK d k) := of_word rfl rfl rfl
theorem fadd (d : BitVec 8) (a : BitVec 8) (b : BitVec 8) : Statement (.fadd d a b) := of_word rfl rfl rfl
theorem faddK (d : BitVec 8) (a : BitVec 8) (k : BitVec 8) : Statement (.faddK d a k) := of_word rfl rfl rfl
theorem fsub (d : BitVec 8) (a : BitVec 8) (b : BitVec 8) : Statement (.fsub d a b) := of_word rfl rfl rfl
theorem fsubK (d : BitVec 8) (a : BitVec 8) (k : BitVec 8) : Statement (.fsubK d a k) := of_word rfl rfl rfl
theorem fmul (d : BitVec 8) (a : BitVec 8) (b : BitVec 8) : Statement (.fmul d a b) := of_word rfl rfl rfl
theorem fmulK (d : BitVec 8) (a : BitVec 8) (k : BitVec 8) : Statement (.fmulK d a k) := of_word rfl rfl rfl
theorem ffma (d : BitVec 8) (a : BitVec 8) (b : BitVec 8) : Statement (.ffma d a b) := of_word rfl rfl rfl
theorem ffmaK (d : BitVec 8) (a : BitVec 8) (k : BitVec 8) : Statement (.ffmaK d a k) := of_word rfl rfl rfl
theorem fmin (d : BitVec 8) (a : BitVec 8) (b : BitVec 8) : Statement (.fmin d a b) := of_word rfl rfl rfl
theorem fminK (d : BitVec 8) (a : BitVec 8) (k : BitVec 8) : Statement (.fminK d a k) := of_word rfl rfl rfl
theorem fmax (d : BitVec 8) (a : BitVec 8) (b : BitVec 8) : Statement (.fmax d a b) := of_word rfl rfl rfl
theorem fmaxK (d : BitVec 8) (a : BitVec 8) (k : BitVec 8) : Statement (.fmaxK d a k) := of_word rfl rfl rfl
theorem fcmp (c : BitVec 3) (p : BitVec 3) (a : BitVec 8) (b : BitVec 8) : Statement (.fcmp c p a b) := of_word rfl rfl rfl
theorem fcmpK (c : BitVec 3) (p : BitVec 3) (a : BitVec 8) (k : BitVec 8) : Statement (.fcmpK c p a k) := of_word rfl rfl rfl
theorem frcp (d : BitVec 8) (a : BitVec 8) : Statement (.frcp d a) := of_word rfl rfl rfl
theorem frsq (d : BitVec 8) (a : BitVec 8) : Statement (.frsq d a) := of_word rfl rfl rfl
theorem fsqrt (d : BitVec 8) (a : BitVec 8) : Statement (.fsqrt d a) := of_word rfl rfl rfl
theorem fexp2 (d : BitVec 8) (a : BitVec 8) : Statement (.fexp2 d a) := of_word rfl rfl rfl
theorem flog2 (d : BitVec 8) (a : BitVec 8) : Statement (.flog2 d a) := of_word rfl rfl rfl
theorem fsin (d : BitVec 8) (a : BitVec 8) : Statement (.fsin d a) := of_word rfl rfl rfl
theorem fcos (d : BitVec 8) (a : BitVec 8) : Statement (.fcos d a) := of_word rfl rfl rfl
theorem ftanh (d : BitVec 8) (a : BitVec 8) : Statement (.ftanh d a) := of_word rfl rfl rfl
theorem fsigm (d : BitVec 8) (a : BitVec 8) : Statement (.fsigm d a) := of_word rfl rfl rfl
theorem cvt (d : BitVec 8) (a : BitVec 8) (b : BitVec 8) : Statement (.cvt d a b) := of_word rfl rfl rfl
theorem quant (d : BitVec 8) (a : BitVec 8) (b : BitVec 8) : Statement (.quant d a b) := of_word rfl rfl rfl
theorem deq (d : BitVec 8) (a : BitVec 8) (b : BitVec 8) : Statement (.deq d a b) := of_word rfl rfl rfl
theorem pack (d : BitVec 8) (a : BitVec 8) (b : BitVec 8) : Statement (.pack d a b) := of_word rfl rfl rfl
theorem unpk (d : BitVec 8) (a : BitVec 8) (b : BitVec 8) : Statement (.unpk d a b) := of_word rfl rfl rfl
theorem lballot (d : BitVec 8) (a : BitVec 3) : Statement (.lballot d a) := of_word rfl rfl rfl
theorem lbcast (d : BitVec 8) (a : BitVec 8) (b : BitVec 8) : Statement (.lbcast d a b) := of_word rfl rfl rfl
theorem lpush (d : BitVec 8) (a : BitVec 8) (b : BitVec 8) : Statement (.lpush d a b) := of_word rfl rfl rfl
theorem lreduce (d : BitVec 8) (a : BitVec 8) (b : BitVec 8) : Statement (.lreduce d a b) := of_word rfl rfl rfl
theorem lscan (d : BitVec 8) (a : BitVec 8) (b : BitVec 8) : Statement (.lscan d a b) := of_word rfl rfl rfl
theorem lshuf (d : BitVec 8) (a : BitVec 8) (b : BitVec 8) : Statement (.lshuf d a b) := of_word rfl rfl rfl
theorem rng (d : BitVec 8) (a : BitVec 8) (b : BitVec 8) : Statement (.rng d a b) := of_word rfl rfl rfl
theorem rngdrop (d : BitVec 8) (a : BitVec 8) (b : BitVec 8) : Statement (.rngdrop d a b) := of_word rfl rfl rfl
theorem rngkey (a : BitVec 8) (b : BitVec 8) : Statement (.rngkey a b) := of_word rfl rfl rfl
theorem ld8 (d : BitVec 8) (a : BitVec 8) (b : BitVec 8) : Statement (.ld8 d a b) := of_word rfl rfl rfl
theorem ld8K (d : BitVec 8) (a : BitVec 8) (k : BitVec 8) : Statement (.ld8K d a k) := of_word rfl rfl rfl
theorem lds8 (d : BitVec 8) (a : BitVec 8) (b : BitVec 8) : Statement (.lds8 d a b) := of_word rfl rfl rfl
theorem lds8K (d : BitVec 8) (a : BitVec 8) (k : BitVec 8) : Statement (.lds8K d a k) := of_word rfl rfl rfl
theorem ld16 (d : BitVec 8) (a : BitVec 8) (b : BitVec 8) : Statement (.ld16 d a b) := of_word rfl rfl rfl
theorem ld16K (d : BitVec 8) (a : BitVec 8) (k : BitVec 8) : Statement (.ld16K d a k) := of_word rfl rfl rfl
theorem lds16 (d : BitVec 8) (a : BitVec 8) (b : BitVec 8) : Statement (.lds16 d a b) := of_word rfl rfl rfl
theorem lds16K (d : BitVec 8) (a : BitVec 8) (k : BitVec 8) : Statement (.lds16K d a k) := of_word rfl rfl rfl
theorem ld32 (d : BitVec 8) (a : BitVec 8) (b : BitVec 8) : Statement (.ld32 d a b) := of_word rfl rfl rfl
theorem ld32K (d : BitVec 8) (a : BitVec 8) (k : BitVec 8) : Statement (.ld32K d a k) := of_word rfl rfl rfl
theorem ld64 (d : BitVec 8) (a : BitVec 8) (b : BitVec 8) : Statement (.ld64 d a b) := of_word rfl rfl rfl
theorem ld64K (d : BitVec 8) (a : BitVec 8) (k : BitVec 8) : Statement (.ld64K d a k) := of_word rfl rfl rfl
theorem ld128 (d : BitVec 8) (a : BitVec 8) (b : BitVec 8) : Statement (.ld128 d a b) := of_word rfl rfl rfl
theorem ld128K (d : BitVec 8) (a : BitVec 8) (k : BitVec 8) : Statement (.ld128K d a k) := of_word rfl rfl rfl
theorem st8 (d : BitVec 8) (a : BitVec 8) (b : BitVec 8) : Statement (.st8 d a b) := of_word rfl rfl rfl
theorem st8K (d : BitVec 8) (a : BitVec 8) (k : BitVec 8) : Statement (.st8K d a k) := of_word rfl rfl rfl
theorem st16 (d : BitVec 8) (a : BitVec 8) (b : BitVec 8) : Statement (.st16 d a b) := of_word rfl rfl rfl
theorem st16K (d : BitVec 8) (a : BitVec 8) (k : BitVec 8) : Statement (.st16K d a k) := of_word rfl rfl rfl
theorem st32 (d : BitVec 8) (a : BitVec 8) (b : BitVec 8) : Statement (.st32 d a b) := of_word rfl rfl rfl
theorem st32K (d : BitVec 8) (a : BitVec 8) (k : BitVec 8) : Statement (.st32K d a k) := of_word rfl rfl rfl
theorem st64 (d : BitVec 8) (a : BitVec 8) (b : BitVec 8) : Statement (.st64 d a b) := of_word rfl rfl rfl
theorem st64K (d : BitVec 8) (a : BitVec 8) (k : BitVec 8) : Statement (.st64K d a k) := of_word rfl rfl rfl
theorem st128 (d : BitVec 8) (a : BitVec 8) (b : BitVec 8) : Statement (.st128 d a b) := of_word rfl rfl rfl
theorem st128K (d : BitVec 8) (a : BitVec 8) (k : BitVec 8) : Statement (.st128K d a k) := of_word rfl rfl rfl
theorem sld32 (d : BitVec 8) (a : BitVec 8) (b : BitVec 8) : Statement (.sld32 d a b) := of_word rfl rfl rfl
theorem sld32K (d : BitVec 8) (a : BitVec 8) (k : BitVec 8) : Statement (.sld32K d a k) := of_word rfl rfl rfl
theorem sld64 (d : BitVec 8) (a : BitVec 8) (b : BitVec 8) : Statement (.sld64 d a b) := of_word rfl rfl rfl
theorem sld64K (d : BitVec 8) (a : BitVec 8) (k : BitVec 8) : Statement (.sld64K d a k) := of_word rfl rfl rfl
theorem sst32 (d : BitVec 8) (a : BitVec 8) (b : BitVec 8) : Statement (.sst32 d a b) := of_word rfl rfl rfl
theorem sst32K (d : BitVec 8) (a : BitVec 8) (k : BitVec 8) : Statement (.sst32K d a k) := of_word rfl rfl rfl
theorem sst64 (d : BitVec 8) (a : BitVec 8) (b : BitVec 8) : Statement (.sst64 d a b) := of_word rfl rfl rfl
theorem sst64K (d : BitVec 8) (a : BitVec 8) (k : BitVec 8) : Statement (.sst64K d a k) := of_word rfl rfl rfl
theorem ldl32 (d : BitVec 8) (a : BitVec 8) (b : BitVec 8) : Statement (.ldl32 d a b) := of_word rfl rfl rfl
theorem ldl32K (d : BitVec 8) (a : BitVec 8) (k : BitVec 8) : Statement (.ldl32K d a k) := of_word rfl rfl rfl
theorem ldl64 (d : BitVec 8) (a : BitVec 8) (b : BitVec 8) : Statement (.ldl64 d a b) := of_word rfl rfl rfl
theorem ldl64K (d : BitVec 8) (a : BitVec 8) (k : BitVec 8) : Statement (.ldl64K d a k) := of_word rfl rfl rfl
theorem ldl128 (d : BitVec 8) (a : BitVec 8) (b : BitVec 8) : Statement (.ldl128 d a b) := of_word rfl rfl rfl
theorem ldl128K (d : BitVec 8) (a : BitVec 8) (k : BitVec 8) : Statement (.ldl128K d a k) := of_word rfl rfl rfl
theorem stl32 (d : BitVec 8) (a : BitVec 8) (b : BitVec 8) : Statement (.stl32 d a b) := of_word rfl rfl rfl
theorem stl32K (d : BitVec 8) (a : BitVec 8) (k : BitVec 8) : Statement (.stl32K d a k) := of_word rfl rfl rfl
theorem stl64 (d : BitVec 8) (a : BitVec 8) (b : BitVec 8) : Statement (.stl64 d a b) := of_word rfl rfl rfl
theorem stl64K (d : BitVec 8) (a : BitVec 8) (k : BitVec 8) : Statement (.stl64K d a k) := of_word rfl rfl rfl
theorem stl128 (d : BitVec 8) (a : BitVec 8) (b : BitVec 8) : Statement (.stl128 d a b) := of_word rfl rfl rfl
theorem stl128K (d : BitVec 8) (a : BitVec 8) (k : BitVec 8) : Statement (.stl128K d a k) := of_word rfl rfl rfl
theorem fence (k : BitVec 5) : Statement (.fence k) := of_word rfl rfl rfl
theorem mwait (a : BitVec 8) (b : BitVec 8) : Statement (.mwait a b) := of_word rfl rfl rfl
theorem pref (l : BitVec 1) (a : BitVec 8) (b : BitVec 8) : Statement (.pref l a b) := of_word rfl rfl rfl
theorem atadd (d : BitVec 8) (a : BitVec 8) (b : BitVec 8) : Statement (.atadd d a b) := of_word rfl rfl rfl
theorem atand (d : BitVec 8) (a : BitVec 8) (b : BitVec 8) : Statement (.atand d a b) := of_word rfl rfl rfl
theorem atcas (d : BitVec 8) (a : BitVec 8) (b : BitVec 8) : Statement (.atcas d a b) := of_word rfl rfl rfl
theorem atfadd (d : BitVec 8) (a : BitVec 8) (b : BitVec 8) : Statement (.atfadd d a b) := of_word rfl rfl rfl
theorem atmax (d : BitVec 8) (a : BitVec 8) (b : BitVec 8) : Statement (.atmax d a b) := of_word rfl rfl rfl
theorem atmin (d : BitVec 8) (a : BitVec 8) (b : BitVec 8) : Statement (.atmin d a b) := of_word rfl rfl rfl
theorem ator (d : BitVec 8) (a : BitVec 8) (b : BitVec 8) : Statement (.ator d a b) := of_word rfl rfl rfl
theorem atxchg (d : BitVec 8) (a : BitVec 8) (b : BitVec 8) : Statement (.atxchg d a b) := of_word rfl rfl rfl
theorem atxor (d : BitVec 8) (a : BitVec 8) (b : BitVec 8) : Statement (.atxor d a b) := of_word rfl rfl rfl
theorem msadd (a : BitVec 8) (b : BitVec 8) : Statement (.msadd a b) := of_word rfl rfl rfl
theorem msmax (a : BitVec 8) (b : BitVec 8) : Statement (.msmax a b) := of_word rfl rfl rfl
theorem msmin (a : BitVec 8) (b : BitVec 8) : Statement (.msmin a b) := of_word rfl rfl rfl
theorem hnew (d : BitVec 8) (a : BitVec 8) : Statement (.hnew d a) := of_word rfl rfl rfl
theorem hfree (a : BitVec 8) : Statement (.hfree a) := of_word rfl rfl rfl
theorem hupg (d : BitVec 8) (a : BitVec 8) : Statement (.hupg d a) := of_word rfl rfl rfl
theorem hrel (a : BitVec 8) : Statement (.hrel a) := of_word rfl rfl rfl
theorem hprio (a : BitVec 8) (b : BitVec 8) : Statement (.hprio a b) := of_word rfl rfl rfl
theorem vpublish (d : BitVec 8) (a : BitVec 8) : Statement (.vpublish d a) := of_word rfl rfl rfl
theorem kvx (d : BitVec 8) (a : BitVec 8) (b : BitVec 8) : Statement (.kvx d a b) := of_word rfl rfl rfl
theorem mappg (a : BitVec 8) (b : BitVec 8) : Statement (.mappg a b) := of_word rfl rfl rfl
theorem tlbinv (g : BitVec 1) (l : BitVec 1) (a : BitVec 8) (b : BitVec 8) : Statement (.tlbinv g l a b) := of_word rfl rfl rfl
theorem copy (n : BitVec 4) (b : BitVec 8) : Statement (.copy n b) := of_word rfl rfl rfl
theorem binit (a : BitVec 8) (b : BitVec 8) : Statement (.binit a b) := of_word rfl rfl rfl
theorem bexpect (a : BitVec 8) (b : BitVec 8) : Statement (.bexpect a b) := of_word rfl rfl rfl
theorem barrive (a : BitVec 8) : Statement (.barrive a) := of_word rfl rfl rfl
theorem bwait (a : BitVec 8) (b : BitVec 8) : Statement (.bwait a b) := of_word rfl rfl rfl
theorem nbar (a : BitVec 8) (b : BitVec 8) : Statement (.nbar a b) := of_word rfl rfl rfl
theorem mma (d : BitVec 8) (h : BitVec 1) (r : BitVec 1) (b : BitVec 8) : Statement (.mma d h r b) := of_word rfl rfl rfl
theorem mmah (d : BitVec 8) (h : BitVec 1) (r : BitVec 1) (b : BitVec 8) : Statement (.mmah d h r b) := of_word rfl rfl rfl
theorem mdist (d : BitVec 8) (h : BitVec 1) (r : BitVec 1) (b : BitVec 8) : Statement (.mdist d h r b) := of_word rfl rfl rfl
theorem mtopk (d : BitVec 8) (a : BitVec 8) (b : BitVec 8) : Statement (.mtopk d a b) := of_word rfl rfl rfl
theorem tzero (d : BitVec 8) : Statement (.tzero d) := of_word rfl rfl rfl
theorem tld (d : BitVec 8) (b : BitVec 8) : Statement (.tld d b) := of_word rfl rfl rfl
theorem tst (d : BitVec 8) (b : BitVec 8) : Statement (.tst d b) := of_word rfl rfl rfl
theorem trowmax (d : BitVec 8) (b : BitVec 8) : Statement (.trowmax d b) := of_word rfl rfl rfl
theorem texpsub (d : BitVec 8) (b : BitVec 8) : Statement (.texpsub d b) := of_word rfl rfl rfl
theorem tscale (d : BitVec 8) (b : BitVec 8) : Statement (.tscale d b) := of_word rfl rfl rfl
theorem sample (d : BitVec 8) (b : BitVec 8) : Statement (.sample d b) := of_word rfl rfl rfl
theorem specacc (d : BitVec 8) (b : BitVec 8) : Statement (.specacc d b) := of_word rfl rfl rfl
theorem ticket (d : BitVec 8) (b : BitVec 8) : Statement (.ticket d b) := of_word rfl rfl rfl
theorem redeem (d : BitVec 8) (b : BitVec 8) : Statement (.redeem d b) := of_word rfl rfl rfl
theorem tkquery (d : BitVec 8) (a : BitVec 8) : Statement (.tkquery d a) := of_word rfl rfl rfl
theorem window (d : BitVec 8) : Statement (.window d) := of_word rfl rfl rfl
theorem logctlEnable (a : BitVec 8) : Statement (.logctlEnable a) := of_word rfl rfl rfl
theorem logctlDisable (a : BitVec 8) : Statement (.logctlDisable a) := of_word rfl rfl rfl
theorem logctlPolicy (a : BitVec 8) : Statement (.logctlPolicy a) := of_word rfl rfl rfl
theorem logctlTrim (a : BitVec 8) : Statement (.logctlTrim a) := of_word rfl rfl rfl
theorem rewind (d : BitVec 8) (a : BitVec 8) (c : BitVec 1) (f : BitVec 1) : Statement (.rewind d a c f) := of_word rfl rfl rfl
theorem frd (d : BitVec 8) (a : BitVec 8) (b : BitVec 8) : Statement (.frd d a b) := of_word rfl rfl rfl
theorem fwr (d : BitVec 8) (a : BitVec 8) (b : BitVec 8) : Statement (.fwr d a b) := of_word rfl rfl rfl
theorem fresume (a : BitVec 8) : Statement (.fresume a) := of_word rfl rfl rfl
theorem fkill (a : BitVec 8) : Statement (.fkill a) := of_word rfl rfl rfl
theorem fstep (a : BitVec 8) : Statement (.fstep a) := of_word rfl rfl rfl
theorem launch (a : BitVec 8) (b : BitVec 8) : Statement (.launch a b) := of_word rfl rfl rfl
theorem regrow (d : BitVec 3) (a : BitVec 8) : Statement (.regrow d a) := of_word rfl rfl rfl
theorem regfree (a : BitVec 8) : Statement (.regfree a) := of_word rfl rfl rfl
theorem reorder (a : BitVec 8) (b : BitVec 8) : Statement (.reorder a b) := of_word rfl rfl rfl
theorem illegalInstruction (w : BitVec 32) : Statement (.illegalInstruction w) := by
  intro v hf hv
  injection hv with hv
  subst hv
  exact hf
theorem nonzeroReservedField (w : BitVec 32) : Statement (.nonzeroReservedField w) := by
  intro v hf hv
  injection hv with hv
  subst hv
  have h : (!unassignedOpcode (opcodeOf w) && !matchesRow w) = true := hf
  cases hu : unassignedOpcode (opcodeOf w)
  · rfl
  · rw [hu] at h
    cases h
theorem nop : Statement .nop := of_word rfl rfl rfl
theorem ret : Statement .ret := of_word rfl rfl rfl
theorem compact : Statement .compact := of_word rfl rfl rfl
theorem exit : Statement .exit := of_word rfl rfl rfl
theorem tsync : Statement .tsync := of_word rfl rfl rfl
theorem csync : Statement .csync := of_word rfl rfl rfl
theorem escalate : Statement .escalate := of_word rfl rfl rfl
theorem markdone : Statement .markdone := of_word rfl rfl rfl
theorem compactRelease : Statement .compactRelease := of_none rfl
theorem yieldResume : Statement .yieldResume := of_none rfl
theorem mwaitWake : Statement .mwaitWake := of_none rfl
theorem memorySideApply : Statement .memorySideApply := of_none rfl
theorem copyUnitWrite : Statement .copyUnitWrite := of_none rfl
theorem regrowGrant : Statement .regrowGrant := of_none rfl
theorem regrowRefusal : Statement .regrowRefusal := of_none rfl
theorem regfreeShrink : Statement .regfreeShrink := of_none rfl
theorem reorderDeposit : Statement .reorderDeposit := of_none rfl
theorem gladeRelaunch : Statement .gladeRelaunch := of_none rfl
theorem clauseCheck : Statement .clauseCheck := of_none rfl
theorem operationComplete : Statement .operationComplete := of_none rfl
theorem tlbWalk : Statement .tlbWalk := of_none rfl
theorem copyOnWriteCopy : Statement .copyOnWriteCopy := of_none rfl
theorem pathPromotion : Statement .pathPromotion := of_none rfl
theorem watchdogNoprogress : Statement .watchdogNoprogress := of_none rfl
theorem groupRetire : Statement .groupRetire := of_none rfl
theorem qbaseWrite : Statement .qbaseWrite := of_none rfl
theorem qctlWrite : Statement .qctlWrite := of_none rfl
theorem qctxWrite : Statement .qctxWrite := of_none rfl
theorem qtailWrite : Statement .qtailWrite := of_none rfl
theorem packetHeadCheck : Statement .packetHeadCheck := of_none rfl
theorem placementDecision : Statement .placementDecision := of_none rfl
theorem teamStart : Statement .teamStart := of_none rfl
theorem gridComplete : Statement .gridComplete := of_none rfl
theorem handlerSpawn : Statement .handlerSpawn := of_none rfl
theorem escalation : Statement .escalation := of_none rfl
theorem escalationTimeout : Statement .escalationTimeout := of_none rfl
theorem rungTimeout : Statement .rungTimeout := of_none rfl
theorem matrixPairReset : Statement .matrixPairReset := of_none rfl
theorem uncorrectableError : Statement .uncorrectableError := of_none rfl
theorem poisonContainment : Statement .poisonContainment := of_none rfl
theorem linkFailure : Statement .linkFailure := of_none rfl
theorem teamSave : Statement .teamSave := of_none rfl
theorem drainTimeout : Statement .drainTimeout := of_none rfl
theorem governorSample : Statement .governorSample := of_none rfl
theorem powerEscalation : Statement .powerEscalation := of_none rfl
theorem thermalLimit : Statement .thermalLimit := of_none rfl
theorem powerOff : Statement .powerOff := of_none rfl
theorem stage0 : Statement .stage0 := of_none rfl
theorem stage1 : Statement .stage1 := of_none rfl
theorem stage2 : Statement .stage2 := of_none rfl
theorem hostMemoryWrite : Statement .hostMemoryWrite := of_none rfl
theorem reclaim : Statement .reclaim := of_none rfl
theorem objectDestruction : Statement .objectDestruction := of_none rfl
theorem profilerSample : Statement .profilerSample := of_none rfl
theorem reverseStepComplete : Statement .reverseStepComplete := of_none rfl
theorem tkcfgWrite : Statement .tkcfgWrite := of_none rfl
theorem tkbaseWrite : Statement .tkbaseWrite := of_none rfl
theorem poolmarkWrite : Statement .poolmarkWrite := of_none rfl
theorem roleWrite : Statement .roleWrite := of_none rfl
theorem progressWrite : Statement .progressWrite := of_none rfl
theorem wdogWrite : Statement .wdogWrite := of_none rfl
theorem fltcfgWrite : Statement .fltcfgWrite := of_none rfl
theorem prethWrite : Statement .prethWrite := of_none rfl
theorem profcfgWrite : Statement .profcfgWrite := of_none rfl
theorem fpstatWrite : Statement .fpstatWrite := of_none rfl
theorem registerWrite : Statement .registerWrite := of_none rfl
theorem ident : Statement .ident := of_none rfl
theorem attest : Statement .attest := of_none rfl
theorem keyset : Statement .keyset := of_none rfl
theorem signonly : Statement .signonly := of_none rfl
theorem event : Statement .event := of_none rfl
theorem answer : Statement .answer := of_none rfl
theorem ctxregRead : Statement .ctxregRead := of_none rfl
theorem ctxregWrite : Statement .ctxregWrite := of_none rfl
theorem mailboxTlbinv : Statement .mailboxTlbinv := of_none rfl
theorem preempt : Statement .preempt := of_none rfl
theorem restore : Statement .restore := of_none rfl
theorem pooladd : Statement .pooladd := of_none rfl
theorem objregion : Statement .objregion := of_none rfl
theorem ctxkill : Statement .ctxkill := of_none rfl
theorem attach : Statement .attach := of_none rfl
theorem detach : Statement .detach := of_none rfl
theorem setreg : Statement .setreg := of_none rfl
theorem freeze : Statement .freeze := of_none rfl
theorem resume : Statement .resume := of_none rfl
theorem step : Statement .step := of_none rfl
theorem rstep : Statement .rstep := of_none rfl
theorem boroiviWindow : Statement .boroiviWindow := of_none rfl
theorem read : Statement .read := of_none rfl
theorem write : Statement .write := of_none rfl
theorem boroiviRewind : Statement .boroiviRewind := of_none rfl
theorem memread : Statement .memread := of_none rfl
theorem memwrite : Statement .memwrite := of_none rfl
theorem hostSideCoherence : Statement .hostSideCoherence := of_none rfl

end Sys2Proof.Laws.Encoding

theorem Sys2Proof.Laws.Encoding.seal : Sys2Proof.Laws.Encoding.Statement .seal := Sys2Proof.Laws.Encoding.of_none rfl
theorem Sys2Proof.Laws.Encoding.unseal : Sys2Proof.Laws.Encoding.Statement .unseal := Sys2Proof.Laws.Encoding.of_none rfl
end

