-- ==== Sys2Proof/Tests/Slice0.lean ====
section
/-! SUPPORT. The model's own tests: ill-formed terms that the checks refuse, words written out from the spec's encodings, steps whose
results the spec prints, and for every statement with hypotheses a state and operands that meet them. -/

set_option maxRecDepth 10000

namespace Sys2Proof.Machine

/-! States for tests. -/

/-- The first path of the first group slot. -/
def testPath : PathRef := ⟨0, 0⟩
/-- A team of one group of 32 lanes with a window of 128 stands at a word and issues it; every register is 0. -/
def testState : State := { State.reset.placeWord 0 with cur := some testPath }
/-- It issues under a mode. -/
def testMode (m : Word) : State := testState.updPath testPath fun p => { p with mode := m }
/-- Its uniform registers hold values. -/
def withS (xs : List (Nat × Word)) (s : State) : State := s.updGroup 0 fun g => xs.foldl (fun g e => g.setSreg e.1 e.2) g
/-- A vector register of a lane holds a value. -/
def withV (l n : Nat) (x : Word) (s : State) : State := s.onLanes 0 [l] fun _ ln => ln.setReg n x
/-- Every lane but the first is gone. -/
def oneLane (s : State) : State := s.updPath testPath fun p => { p with mask := 1 }
/-- The scratchpad of the team holds bytes from an offset on. -/
def withPad (off : Nat) (bs : List Byte) (s : State) : State := s.setBytes (.pad (teamKey 0 1) off) bs
/-- Group slot 0 holds a handler over the lanes of a frozen path in slot 1. -/
def testHandler (s : State) : State :=
  (s.updGroup 0 fun g => { g with hcap := some { group := 1, path := 0, mask := 0xF, summary := 8, map := true, rewind := true, core := 0,
                                                 tslot := 0, team := teamKey 0 1, gid := 1, causes := [(0, 8), (1, 8), (2, 8), (3, 8)] } }).setGroup 1
    { used := true, team := teamKey 0 1, gid := 1, window := 128, paths := [(0, { state := .frozen, mask := 0xF, freezer := .stop, pc := 4 })],
      lanes := (List.range 4).map fun l => (l, { cause := some .pageNotPresent, faultAddr := 0x10000 }) }
/-- An event has its arguments. -/
def withEv (a b c d : Nat) (v : DWord) (s : State) : State := { s with ev := { a := a, b := b, c := c, d := d, v := v } }

/-- Nothing stands in the way of the word: no register of the group is pending or poisoned. -/
structure Quiet (s : State) : Prop where
  cur    : s.cur = some testPath
  used   : (s.group 0).used = true
  mask   : (s.path testPath).mask ≠ 0#32
  pend   : (s.group 0).sPend = 0
  poison : (s.group 0).sPoison = 0
  lanes  : ((s.group 0).lanes.all fun e => e.2.vPend == 0 && e.2.vPoison == 0 && e.2.pPend == 0 && e.2.pPoison == 0) = true

theorem quiet_lane {s : State} (h : Quiet s) (l : Nat) :
    ((s.group 0).lane l).vPend = 0 ∧ ((s.group 0).lane l).vPoison = 0 ∧ ((s.group 0).lane l).pPend = 0 ∧ ((s.group 0).lane l).pPoison = 0 := by
  have hl := h.lanes
  unfold Group.lane
  generalize (s.group 0).lanes = t at hl
  induction t with
  | nil => exact ⟨rfl, rfl, rfl, rfl⟩
  | cons e t ih =>
    obtain ⟨k, v⟩ := e
    simp only [List.all_cons, Bool.and_eq_true, beq_iff_eq] at hl
    simp only [tget]
    split
    · exact ⟨hl.1.1.1.1, hl.1.1.1.2, hl.1.1.2, hl.1.2⟩
    · split
      · exact ⟨rfl, rfl, rfl, rfl⟩
      · exact ih hl.2

theorem bit_zero (n i : Nat) : bit (0#n) i = false := by simp [bit]

theorem Quiet.issuing {s : State} (h : Quiet s) : Issuing s testPath := ⟨h.cur, h.used, h.mask⟩

theorem Quiet.sfree {s : State} (h : Quiet s) (rd wr : List Nat) : SFree (s.group 0) rd wr :=
  ⟨fun _ _ => by rw [h.pend]; exact bit_zero _ _, fun _ _ => by rw [h.poison]; exact bit_zero _ _⟩

theorem Quiet.ready {s : State} (h : Quiet s) (u : Uses) : Ready s testPath u := by
  refine ⟨h.issuing, fun l _ => ?_, fun l _ => ?_, fun l _ => ⟨?_, ?_⟩⟩
  · simp [Path.guardPending, testPath, (quiet_lane h l).2.2.1, bit]
  · simp [Path.guardPoisoned, testPath, (quiet_lane h l).2.2.2, bit]
  · obtain ⟨h1, -, h2, -⟩ := quiet_lane h l
    simp [Uses.hazard, testPath, h1, h2, h.pend, bit]
  · obtain ⟨-, h1, -, h2⟩ := quiet_lane h l
    simp [Uses.poison, testPath, h1, h2, h.poison, bit]

theorem Quiet.cross {s : State} (h : Quiet s) (u : CrossUses) : CrossReady s testPath u := by
  refine ⟨h.issuing, (h.ready {}).guard, (h.ready {}).sure, fun e _ => ?_, fun e _ => ?_, fun n _ l _ => ⟨?_, ?_⟩, h.sfree _ _, fun n _ l _ => ?_⟩
  · simp [testPath, (quiet_lane h e.1).1, bit]
  · simp [testPath, (quiet_lane h e.1).2.1, bit]
  · simp [testPath, (quiet_lane h l).2.2.1, bit]
  · simp [testPath, (quiet_lane h l).2.2.2, bit]
  · simp [testPath, (quiet_lane h l).1, bit]

theorem quiet_testState : Quiet testState := ⟨rfl, rfl, by decide, rfl, rfl, rfl⟩
theorem quiet_testMode (m : Word) : Quiet (testMode m) := ⟨rfl, rfl, show (0xFFFFFFFF#32 : BitVec 32) ≠ 0#32 by decide, rfl, rfl, rfl⟩

/-! Ill-formed terms and inputs, each refused by its check. -/

theorem test_illFormed_terms :
    (Instr.illegalInstruction 0x14000000#32).wellFormed = false ∧      -- an assigned opcode
    (Instr.nonzeroReservedField 0x26000000#32).wellFormed = false ∧    -- an unassigned one
    (Instr.nonzeroReservedField 0x14818283#32).wellFormed = false ∧    -- a word of a row
    (Instr.illegalInstruction 0x26000000#32).wellFormed = true ∧ (Instr.nonzeroReservedField 0x0800A800#32).wellFormed = true := by decide

theorem test_unassigned_and_reserved_words :
    [0x00000000#32, 0x26FFFFFF#32, 0x6D000000#32, 0xBF000000#32, 0xFF123456#32].all (fun w => decodeWord w = .illegalInstruction w) = true ∧
    [0x01000001#32, 0x0201FF00#32, 0x0300000F#32 + 0x00010000#32, 0x0C000100#32, 0x10010000#32, 0x20880000#32, 0x39010203#32].all
      (fun w => decodeWord w = .nonzeroReservedField w) = true := by decide

theorem test_truncated_bytes_are_refused : decodeBytes [0x14, 0x01, 0x02] = .error .truncated := rfl

/-! Reset. -/

theorem test_reset_memory : Memory.wf State.reset.mem = true ∧ Memory.wf State.reset.hmem = true ∧ State.reset.mem = [] := by decide
theorem test_reset_registers :
    State.reset.host.mhz = 1750 ∧ fld State.reset.poolmark 31 16 = 2048 ∧ fld State.reset.poolmark 15 0 = 1024 ∧ State.reset.host.stage = 0 ∧
    ((State.reset.core 95).wdog = 32) ∧ ((State.reset.core 0).preth = 20) ∧ fld (State.reset.core 0).profcfg 12 8 = 10 ∧
    fld (State.reset.core 0).profcfg 4 0 = 12 ∧ fld (State.reset.queue 63).ctl 4 0 = 4 := by decide
theorem test_reset_sound : State.reset.Sound := ⟨rfl, rfl, by decide, by decide, by decide, by decide⟩

/-! The step runs what is placed. -/

theorem test_step_runs_the_word : (match step (State.reset.withFetchWord 32 0xC081807F) with
    | .next t => decide ((t.group 0).sreg 1 = 0xFFFFFFFF#32)
    | _ => false) = true := by decide
theorem test_input_that_is_no_event : step { State.reset with inbox := [{ what := .nop, args := {} }] } = .fault .inputIsNoEvent := rfl


/-! Decoding: words that the spec prints, and one word of every row, written out from its encoding. -/

theorem test_decode_spec_examples_1 :
    [0x12890006#32, 0xD3040480#32, 0x9901008E#32, 0x9B008C95#32, 0x9C008C00#32, 0x9D008C9F#32, 0xA1004094#32, 0xA101408D#32,
     0xA800008D#32, 0xA900008D#32, 0xAA01008D#32, 0x390B0A00#32, 0x3A0D0A00#32, 0x290E0E0D#32, 0x15929290#32, 0xC391907D#32,
     0xC593937F#32, 0x128A0032#32, 0x0F000001#32, 0xB38B0104#32, 0xB48E0105#32, 0xB5008A00#32].map decodeWord =
    [.srd 0x89 0x06, .vmulK 4 4 0x80, .copy 1 0x8E, .bexpect 0x8C 0x95, .barrive 0x8C, .bwait 0x8C 0x9F, .mma 0 1 0 0x94, .mma 1 1 0 0x8D,
     .trowmax 0 0x8D, .texpsub 0 0x8D, .tscale 1 0x8D, .vpopc 0x0B 0x0A, .vclz 0x0D 0x0A, .vsub 0x0E 0x0E 0x0D,
     .ssub 0x92 0x92 0x90, .sandK 0x91 0x90 0x7D, .sxorK 0x93 0x93 0x7F, .srd 0x8A 0x32, .trap 1, .frd 0x8B 1 4, .fwr 0x8E 1 5,
     .fresume 0x8A] := by decide

theorem test_decode_spec_examples_2 :
    [0xAD94008C#32, 0xAE96008D#32, 0xAF989400#32, 0x9A008C87#32, 0x10000003#32, 0x9F000000#32, 0x500605C8#32, 0x5208068C#32,
     0xE2040503#32, 0x431C1519#32, 0x46520304#32, 0xB6008A00#32, 0xB7008A00#32, 0xB8000000#32, 0x90948C00#32, 0x91009400#32,
     0x92969400#32, 0x93009400#32, 0x94009485#32, 0xB900848C#32, 0x568A0300#32, 0x578A0589#32, 0x58060507#32, 0x59881400#32].map decodeWord =
    [.ticket 0x94 0x8C, .redeem 0x96 0x8D, .tkquery 0x98 0x94, .binit 0x8C 0x87, .brk 3, .csync, .cvt 6 5 0xC8, .deq 8 6 0x8C,
     .faddK 4 5 3, .ffma 0x1C 0x15 0x19, .fcmp 5 2 3 4, .fkill 0x8A, .fstep 0x8A, .escalate, .hnew 0x94 0x8C, .hfree 0x94,
     .hupg 0x96 0x94, .hrel 0x94, .hprio 0x94 0x85, .launch 0x84 0x8C, .lballot 0x8A 3, .lbcast 0x8A 5 0x89, .lpush 6 5 7,
     .lreduce 0x88 0x14 0] := by decide

theorem test_decode_opcodes_0 :
    [0x01000000#32, 0x0280FF85#32, 0x03A8FF85#32, 0x04A8FF85#32, 0x05A8FF85#32, 0x0680FF85#32, 0x07004200#32, 0x08000000#32,
     0x09004200#32, 0x0A004200#32, 0x0B000000#32, 0x0C000000#32, 0x0D814200#32, 0x0E004224#32, 0x0F000024#32].map decodeWord =
    [.nop, .bra 2#2 0xFF85#16, .brp 2#2 5#3 0xFF85#16, .brpn 2#2 5#3 0xFF85#16,
     .brq 2#2 5#3 0xFF85#16, .call 2#2 0xFF85#16, .calli 0x42#8, .ret,
     .jmpi 0x42#8, .regang 0x42#8, .compact, .exit,
     .yieldc 0x81#8 0x42#8, .waitf 0x42#8 0x24#8, .trap 0x24#8] := by decide

theorem test_decode_opcodes_1 :
    [0x10000024#32, 0x11000024#32, 0x12810024#32, 0x13004224#32, 0x14814224#32, 0x15814224#32, 0x16814224#32, 0x17814224#32,
     0x18814224#32, 0x19814224#32, 0x1A814224#32, 0x1B814224#32, 0x1C814224#32, 0x1D814224#32, 0x1E814224#32, 0x1F814224#32].map decodeWord =
    [.brk 0x24#8, .setmode 0x24#8, .srd 0x81#8 0x24#8, .swr 0x42#8 0x24#8,
     .sadd 0x81#8 0x42#8 0x24#8, .ssub 0x81#8 0x42#8 0x24#8, .smul 0x81#8 0x42#8 0x24#8, .smulh 0x81#8 0x42#8 0x24#8,
     .sand 0x81#8 0x42#8 0x24#8, .sor 0x81#8 0x42#8 0x24#8, .sxor 0x81#8 0x42#8 0x24#8, .sshl 0x81#8 0x42#8 0x24#8,
     .sshr 0x81#8 0x42#8 0x24#8, .ssra 0x81#8 0x42#8 0x24#8, .smin 0x81#8 0x42#8 0x24#8, .smax 0x81#8 0x42#8 0x24#8] := by decide

theorem test_decode_opcodes_2 :
    [0x20554224#32, 0x21810524#32, 0x22810024#32, 0x23814224#32, 0x24814224#32, 0x25814200#32, 0x28814224#32, 0x29814224#32,
     0x2A814224#32, 0x2B814224#32, 0x2C814224#32, 0x2D814224#32, 0x2E814224#32, 0x2F814224#32].map decodeWord =
    [.scmp 5#3 5#3 0x42#8 0x24#8, .ssel 0x81#8 5#3 0x24#8, .smov 0x81#8 0x24#8, .sadd64 0x81#8 0x42#8 0x24#8,
     .sbfe 0x81#8 0x42#8 0x24#8, .spopc 0x81#8 0x42#8, .vadd 0x81#8 0x42#8 0x24#8, .vsub 0x81#8 0x42#8 0x24#8,
     .vmul 0x81#8 0x42#8 0x24#8, .vmulh 0x81#8 0x42#8 0x24#8, .vmad 0x81#8 0x42#8 0x24#8, .vand 0x81#8 0x42#8 0x24#8,
     .vor 0x81#8 0x42#8 0x24#8, .vxor 0x81#8 0x42#8 0x24#8] := by decide

theorem test_decode_opcodes_3 :
    [0x30814224#32, 0x31814224#32, 0x32814224#32, 0x33814224#32, 0x34814224#32, 0x35814200#32, 0x36814200#32, 0x37814224#32,
     0x38814224#32, 0x39814200#32, 0x3A814200#32, 0x3B554224#32, 0x3C810524#32, 0x3D810024#32].map decodeWord =
    [.vshl 0x81#8 0x42#8 0x24#8, .vshr 0x81#8 0x42#8 0x24#8, .vsra 0x81#8 0x42#8 0x24#8, .vmin 0x81#8 0x42#8 0x24#8,
     .vmax 0x81#8 0x42#8 0x24#8, .vabs 0x81#8 0x42#8, .vneg 0x81#8 0x42#8, .vbfe 0x81#8 0x42#8 0x24#8,
     .vbfi 0x81#8 0x42#8 0x24#8, .vpopc 0x81#8 0x42#8, .vclz 0x81#8 0x42#8, .vcmp 5#3 5#3 0x42#8 0x24#8,
     .vsel 0x81#8 5#3 0x24#8, .vmov 0x81#8 0x24#8] := by decide

theorem test_decode_opcodes_4 :
    [0x40814224#32, 0x41814224#32, 0x42814224#32, 0x43814224#32, 0x44814224#32, 0x45814224#32, 0x46554224#32, 0x47814200#32,
     0x48814200#32, 0x49814200#32, 0x4A814200#32, 0x4B814200#32, 0x4C814200#32, 0x4D814200#32, 0x4E814200#32, 0x4F814200#32].map decodeWord =
    [.fadd 0x81#8 0x42#8 0x24#8, .fsub 0x81#8 0x42#8 0x24#8, .fmul 0x81#8 0x42#8 0x24#8, .ffma 0x81#8 0x42#8 0x24#8,
     .fmin 0x81#8 0x42#8 0x24#8, .fmax 0x81#8 0x42#8 0x24#8, .fcmp 5#3 5#3 0x42#8 0x24#8, .frcp 0x81#8 0x42#8,
     .frsq 0x81#8 0x42#8, .fsqrt 0x81#8 0x42#8, .fexp2 0x81#8 0x42#8, .flog2 0x81#8 0x42#8,
     .fsin 0x81#8 0x42#8, .fcos 0x81#8 0x42#8, .ftanh 0x81#8 0x42#8, .fsigm 0x81#8 0x42#8] := by decide

theorem test_decode_opcodes_5 :
    [0x50814224#32, 0x51814224#32, 0x52814224#32, 0x53814224#32, 0x54814224#32, 0x56810200#32, 0x57814224#32, 0x58814224#32,
     0x59814224#32, 0x5A814224#32, 0x5B814224#32, 0x5C814224#32, 0x5D814224#32, 0x5E004224#32].map decodeWord =
    [.cvt 0x81#8 0x42#8 0x24#8, .quant 0x81#8 0x42#8 0x24#8, .deq 0x81#8 0x42#8 0x24#8, .pack 0x81#8 0x42#8 0x24#8,
     .unpk 0x81#8 0x42#8 0x24#8, .lballot 0x81#8 2#3, .lbcast 0x81#8 0x42#8 0x24#8, .lpush 0x81#8 0x42#8 0x24#8,
     .lreduce 0x81#8 0x42#8 0x24#8, .lscan 0x81#8 0x42#8 0x24#8, .lshuf 0x81#8 0x42#8 0x24#8, .rng 0x81#8 0x42#8 0x24#8,
     .rngdrop 0x81#8 0x42#8 0x24#8, .rngkey 0x42#8 0x24#8] := by decide

theorem test_decode_opcodes_6 :
    [0x60814224#32, 0x61814224#32, 0x62814224#32, 0x63814224#32, 0x64814224#32, 0x65814224#32, 0x66814224#32, 0x68814224#32,
     0x69814224#32, 0x6A814224#32, 0x6B814224#32, 0x6C814224#32].map decodeWord =
    [.ld8 0x81#8 0x42#8 0x24#8, .lds8 0x81#8 0x42#8 0x24#8, .ld16 0x81#8 0x42#8 0x24#8, .lds16 0x81#8 0x42#8 0x24#8,
     .ld32 0x81#8 0x42#8 0x24#8, .ld64 0x81#8 0x42#8 0x24#8, .ld128 0x81#8 0x42#8 0x24#8, .st8 0x81#8 0x42#8 0x24#8,
     .st16 0x81#8 0x42#8 0x24#8, .st32 0x81#8 0x42#8 0x24#8, .st64 0x81#8 0x42#8 0x24#8, .st128 0x81#8 0x42#8 0x24#8] := by decide

theorem test_decode_opcodes_7 :
    [0x70814224#32, 0x71814224#32, 0x72814224#32, 0x73814224#32, 0x74814224#32, 0x75814224#32, 0x76814224#32, 0x77814224#32,
     0x78814224#32, 0x79814224#32, 0x7C000007#32, 0x7D004224#32, 0x7E014224#32].map decodeWord =
    [.sld32 0x81#8 0x42#8 0x24#8, .sld64 0x81#8 0x42#8 0x24#8, .sst32 0x81#8 0x42#8 0x24#8, .sst64 0x81#8 0x42#8 0x24#8,
     .ldl32 0x81#8 0x42#8 0x24#8, .ldl64 0x81#8 0x42#8 0x24#8, .ldl128 0x81#8 0x42#8 0x24#8, .stl32 0x81#8 0x42#8 0x24#8,
     .stl64 0x81#8 0x42#8 0x24#8, .stl128 0x81#8 0x42#8 0x24#8, .fence 7#5, .mwait 0x42#8 0x24#8,
     .pref 1#1 0x42#8 0x24#8] := by decide

theorem test_decode_opcodes_8 :
    [0x80814224#32, 0x81814224#32, 0x82814224#32, 0x83814224#32, 0x84814224#32, 0x85814224#32, 0x86814224#32, 0x87814224#32,
     0x88814224#32, 0x89004224#32, 0x8A004224#32, 0x8B004224#32].map decodeWord =
    [.atadd 0x81#8 0x42#8 0x24#8, .atand 0x81#8 0x42#8 0x24#8, .atcas 0x81#8 0x42#8 0x24#8, .atfadd 0x81#8 0x42#8 0x24#8,
     .atmax 0x81#8 0x42#8 0x24#8, .atmin 0x81#8 0x42#8 0x24#8, .ator 0x81#8 0x42#8 0x24#8, .atxchg 0x81#8 0x42#8 0x24#8,
     .atxor 0x81#8 0x42#8 0x24#8, .msadd 0x42#8 0x24#8, .msmax 0x42#8 0x24#8, .msmin 0x42#8 0x24#8] := by decide

theorem test_decode_opcodes_9 :
    [0x90814200#32, 0x91004200#32, 0x92814200#32, 0x93004200#32, 0x94004224#32, 0x95814200#32, 0x96814224#32, 0x97004224#32,
     0x98034224#32, 0x990B0024#32, 0x9A004224#32, 0x9B004224#32, 0x9C004200#32, 0x9D004224#32, 0x9E000000#32, 0x9F000000#32].map decodeWord =
    [.hnew 0x81#8 0x42#8, .hfree 0x42#8, .hupg 0x81#8 0x42#8, .hrel 0x42#8,
     .hprio 0x42#8 0x24#8, .vpublish 0x81#8 0x42#8, .kvx 0x81#8 0x42#8 0x24#8, .mappg 0x42#8 0x24#8,
     .tlbinv 1#1 1#1 0x42#8 0x24#8, .copy 11#4 0x24#8, .binit 0x42#8 0x24#8, .bexpect 0x42#8 0x24#8,
     .barrive 0x42#8, .bwait 0x42#8 0x24#8, .tsync, .csync] := by decide

theorem test_decode_opcodes_A :
    [0xA0004224#32, 0xA1814124#32, 0xA2814124#32, 0xA3814124#32, 0xA4814224#32, 0xA5810000#32, 0xA6810024#32, 0xA7810024#32,
     0xA8810024#32, 0xA9810024#32, 0xAA810024#32, 0xAB810024#32, 0xAC810024#32, 0xAD810024#32, 0xAE810024#32, 0xAF814200#32].map decodeWord =
    [.nbar 0x42#8 0x24#8, .mma 0x81#8 1#1 1#1 0x24#8, .mmah 0x81#8 1#1 1#1 0x24#8, .mdist 0x81#8 1#1 1#1 0x24#8,
     .mtopk 0x81#8 0x42#8 0x24#8, .tzero 0x81#8, .tld 0x81#8 0x24#8, .tst 0x81#8 0x24#8,
     .trowmax 0x81#8 0x24#8, .texpsub 0x81#8 0x24#8, .tscale 0x81#8 0x24#8, .sample 0x81#8 0x24#8,
     .specacc 0x81#8 0x24#8, .ticket 0x81#8 0x24#8, .redeem 0x81#8 0x24#8, .tkquery 0x81#8 0x42#8] := by decide

theorem test_decode_opcodes_B :
    [0xB0810000#32, 0xB1004200#32, 0xB1004201#32, 0xB1004202#32, 0xB1004203#32, 0xB2814203#32, 0xB3814224#32, 0xB4814224#32,
     0xB5004200#32, 0xB6004200#32, 0xB7004200#32, 0xB8000000#32, 0xB9004224#32, 0xBA000000#32, 0xBB014200#32, 0xBC004200#32,
     0xBD004224#32].map decodeWord =
    [.window 0x81#8, .logctlEnable 0x42#8, .logctlDisable 0x42#8, .logctlPolicy 0x42#8,
     .logctlTrim 0x42#8, .rewind 0x81#8 0x42#8 1#1 1#1, .frd 0x81#8 0x42#8 0x24#8, .fwr 0x81#8 0x42#8 0x24#8,
     .fresume 0x42#8, .fkill 0x42#8, .fstep 0x42#8, .escalate,
     .launch 0x42#8 0x24#8, .markdone, .regrow 1#3 0x42#8, .regfree 0x42#8,
     .reorder 0x42#8 0x24#8] := by decide

theorem test_decode_opcodes_C :
    [0xC08142E7#32, 0xC18142E7#32, 0xC28142E7#32, 0xC38142E7#32, 0xC48142E7#32, 0xC58142E7#32, 0xC68142E7#32, 0xC78142E7#32,
     0xC88142E7#32, 0xC98142E7#32, 0xCA8142E7#32, 0xCB5542E7#32, 0xCC8105E7#32, 0xCD8100E7#32, 0xCE8142E7#32, 0xCF8142E7#32].map decodeWord =
    [.saddK 0x81#8 0x42#8 0xE7#8, .ssubK 0x81#8 0x42#8 0xE7#8, .smulK 0x81#8 0x42#8 0xE7#8, .sandK 0x81#8 0x42#8 0xE7#8,
     .sorK 0x81#8 0x42#8 0xE7#8, .sxorK 0x81#8 0x42#8 0xE7#8, .sshlK 0x81#8 0x42#8 0xE7#8, .sshrK 0x81#8 0x42#8 0xE7#8,
     .ssraK 0x81#8 0x42#8 0xE7#8, .sminK 0x81#8 0x42#8 0xE7#8, .smaxK 0x81#8 0x42#8 0xE7#8, .scmpK 5#3 5#3 0x42#8 0xE7#8,
     .sselK 0x81#8 5#3 0xE7#8, .smovK 0x81#8 0xE7#8, .sadd64K 0x81#8 0x42#8 0xE7#8, .sbfeK 0x81#8 0x42#8 0xE7#8] := by decide

theorem test_decode_opcodes_D :
    [0xD00000E7#32, 0xD18142E7#32, 0xD28142E7#32, 0xD38142E7#32, 0xD48142E7#32, 0xD58142E7#32, 0xD68142E7#32, 0xD78142E7#32,
     0xD88142E7#32, 0xD98142E7#32, 0xDA8142E7#32, 0xDB8142E7#32, 0xDC8142E7#32, 0xDD8142E7#32, 0xDE8142E7#32, 0xDF5542E7#32].map decodeWord =
    [.setmodeK 0xE7#8, .vaddK 0x81#8 0x42#8 0xE7#8, .vsubK 0x81#8 0x42#8 0xE7#8, .vmulK 0x81#8 0x42#8 0xE7#8,
     .vmadK 0x81#8 0x42#8 0xE7#8, .vandK 0x81#8 0x42#8 0xE7#8, .vorK 0x81#8 0x42#8 0xE7#8, .vxorK 0x81#8 0x42#8 0xE7#8,
     .vshlK 0x81#8 0x42#8 0xE7#8, .vshrK 0x81#8 0x42#8 0xE7#8, .vsraK 0x81#8 0x42#8 0xE7#8, .vminK 0x81#8 0x42#8 0xE7#8,
     .vmaxK 0x81#8 0x42#8 0xE7#8, .vbfeK 0x81#8 0x42#8 0xE7#8, .vbfiK 0x81#8 0x42#8 0xE7#8, .vcmpK 5#3 5#3 0x42#8 0xE7#8] := by decide

theorem test_decode_opcodes_E :
    [0xE08105E7#32, 0xE18100E7#32, 0xE28142E7#32, 0xE38142E7#32, 0xE48142E7#32, 0xE58142E7#32, 0xE68142E7#32, 0xE78142E7#32,
     0xE85542E7#32, 0xE98142E7#32, 0xEA8142E7#32, 0xEB8142E7#32, 0xEC8142E7#32, 0xED8142E7#32, 0xEE8142E7#32, 0xEF8142E7#32].map decodeWord =
    [.vselK 0x81#8 5#3 0xE7#8, .vmovK 0x81#8 0xE7#8, .faddK 0x81#8 0x42#8 0xE7#8, .fsubK 0x81#8 0x42#8 0xE7#8,
     .fmulK 0x81#8 0x42#8 0xE7#8, .ffmaK 0x81#8 0x42#8 0xE7#8, .fminK 0x81#8 0x42#8 0xE7#8, .fmaxK 0x81#8 0x42#8 0xE7#8,
     .fcmpK 5#3 5#3 0x42#8 0xE7#8, .ld8K 0x81#8 0x42#8 0xE7#8, .lds8K 0x81#8 0x42#8 0xE7#8, .ld16K 0x81#8 0x42#8 0xE7#8,
     .lds16K 0x81#8 0x42#8 0xE7#8, .ld32K 0x81#8 0x42#8 0xE7#8, .ld64K 0x81#8 0x42#8 0xE7#8, .ld128K 0x81#8 0x42#8 0xE7#8] := by decide

theorem test_decode_opcodes_F :
    [0xF08142E7#32, 0xF18142E7#32, 0xF28142E7#32, 0xF38142E7#32, 0xF48142E7#32, 0xF58142E7#32, 0xF68142E7#32, 0xF78142E7#32,
     0xF88142E7#32, 0xF98142E7#32, 0xFA8142E7#32, 0xFB8142E7#32, 0xFC8142E7#32, 0xFD8142E7#32, 0xFE8142E7#32].map decodeWord =
    [.st8K 0x81#8 0x42#8 0xE7#8, .st16K 0x81#8 0x42#8 0xE7#8, .st32K 0x81#8 0x42#8 0xE7#8, .st64K 0x81#8 0x42#8 0xE7#8,
     .st128K 0x81#8 0x42#8 0xE7#8, .sld32K 0x81#8 0x42#8 0xE7#8, .sld64K 0x81#8 0x42#8 0xE7#8, .sst32K 0x81#8 0x42#8 0xE7#8,
     .sst64K 0x81#8 0x42#8 0xE7#8, .ldl32K 0x81#8 0x42#8 0xE7#8, .ldl64K 0x81#8 0x42#8 0xE7#8, .ldl128K 0x81#8 0x42#8 0xE7#8,
     .stl32K 0x81#8 0x42#8 0xE7#8, .stl64K 0x81#8 0x42#8 0xE7#8, .stl128K 0x81#8 0x42#8 0xE7#8] := by decide

/-! Witnesses: a state and operands that meet the hypotheses of each statement, at the ends of the ranges of its operands. The states
are `Quiet`, so `Issuing`, `Ready`, `SFree` and `CrossReady` hold of them for whatever a word uses. -/

/-- The mode of ETYPE e, with every sub-element live and the guard p0. -/
def modeE (e : Nat) : Word := BitVec.ofNat 32 (0xC000 + 16 * e)

theorem witness_issuing : Issuing testState testPath := quiet_testState.issuing

theorem witness_step_issues :
    testPath = ⟨0, 0⟩ ∧ (State.reset.placeWord 0).inbox = [] ∧ (State.reset.placeWord 0).loads = [] ∧ ((State.reset.placeWord 0).path testPath).clause.isSome = true ∧
    ((State.reset.placeWord 0).path testPath).pc ≠ ((State.reset.placeWord 0).path testPath).clhdr := by decide
theorem witness_step_takes_the_path : (match (State.reset.placeWord 0x01000000#32).nextTurn with
    | .path r t => decide (r = testPath) && (t.breakAt r).isNone
    | _ => false) = true := by decide
/-- Between clauses: PC is CLHDR, and no flag of WAIT is raised. -/
theorem witness_step_at_the_header : (match ((State.reset.placeWord 0x01000000#32).updPath testPath fun p => { p with pc := p.clhdr }).nextTurn with
    | .path r t => decide (r = testPath) && (t.breakAt r).isNone && decide ((t.path r).pc = (t.path r).clhdr) &&
        (t.group 0).flagsZero (hWait (oneWord 0).header) && ((t.updPath r fun q => { q with pc := q.clhdr + 4 }).breakAt r).isNone
    | _ => false) = true := by decide
theorem witness_step_takes_an_input : isEvent Instr.hostMemoryWrite = true ∧ isEvent Instr.clauseCheck = true ∧ isEvent Instr.nop = false := by decide
theorem witness_step_loads : let s : State := { State.reset with loads := [.unload 0 []] }
    s.inbox = [] ∧ s.loads = Loading.unload 0 [] :: [] := ⟨rfl, rfl⟩
theorem witness_step_takes_the_agenda : (match ({ State.reset with agenda := [{ what := .reclaim }] } : State).nextTurn with
    | .event e _ => decide (e = { what := .reclaim })
    | _ => false) = true := by decide
/-- A path with no clause checked. -/
theorem witness_step_checks_a_clause : (match ((State.reset.placeWord 0).updPath testPath fun p => { p with clause := none, pc := 0 }).nextTurn with
    | .path r t => (t.breakAt r).isNone && (t.path r).clause.isNone
    | _ => false) = true := by decide
/-- A fault of a path without lanes. -/
theorem witness_clause_check : let s := withEv 0 0 0 0 0 ((State.reset.placeWord 0).updPath testPath fun p => { p with clause := none, pc := 0 })
    s.ev.a = 0 ∧ s.ev.b = 0 ∧ (s.group 0).used = true ∧ (s.path testPath).mask ≠ 0#32 ∧ (s.path testPath).state = .ready ∧
    (s.path testPath).clause = none ∧ (match (s.checkClause testPath).2 with | .error (x, _) => decide (x = .pageNotPresent) | _ => false) = true := by decide

theorem witness_word_addresses : fld (0x0080000000000000#64) 63 55 ≠ 0 ∧ fld (0x007FFFFFFFFFFFFC#64) 63 55 = 0 := by decide

/-! Uniform words: both ends of the uniform registers, and of the constants. -/

theorem witness_uniform_registers : isS 0x80 = true ∧ isS 0xFF = true ∧ sNum 0x80 = 0 ∧ sNum 0xFF = 127 ∧ isSPair 0xFE = true ∧ isSPair 0x80 = true ∧
    Issuing testState testPath ∧ SFree (testState.group 0) [0, 127] [127] :=
  ⟨rfl, rfl, rfl, rfl, rfl, rfl, quiet_testState.issuing, quiet_testState.sfree _ _⟩
theorem witness_constants : isK (testState.path testPath) 0x00 = true ∧ isK (testState.path testPath) 0x7F = true ∧
    isK (testState.path testPath) 0x80 = true ∧ isK (testState.path testPath) 0x82 = true ∧ isK (testState.path testPath) 0x83 = false := by decide
theorem witness_uniform_selector : fieldOk 0#32 = true ∧ fieldOk 0x0000201F#32 = true ∧ fieldOk 0x00002100#32 = false := by decide

/-! Vector words: both ends of the window, pairs under a 64-bit type, constants, and every type. -/

theorem witness_vector_integer (b : BitVec 8) (k : BitVec 8) :
    let s := testMode (modeE 0)
    eInt (mEtype (s.path testPath).mode) = true ∧ isVE 0 (s.group 0) 0 = true ∧ isVE 0 (s.group 0) 127 = true ∧
    (Opnd.reg 127).okV 0 (s.group 0) (s.path testPath) = true ∧ (Opnd.reg 0xFF).okV 0 (s.group 0) (s.path testPath) = true ∧
    (Opnd.k 0x82).okV 0 (s.group 0) (s.path testPath) = true ∧
    Ready s testPath (vecUses 0 127 0 (.reg b)) ∧ Ready s testPath (vecUses 0 127 0 (.k k)) :=
  ⟨by decide, by decide, by decide, by decide, by decide, by decide, (quiet_testMode _).ready _, (quiet_testMode _).ready _⟩
theorem witness_vector_integer_pairs :
    let s := testMode (modeE 3)
    mEtype (s.path testPath).mode = 3 ∧ isVE 3 (s.group 0) 126 = true ∧ isVE 3 (s.group 0) 127 = false ∧
    (Opnd.reg 0xFE).okV 3 (s.group 0) (s.path testPath) = true ∧ (Opnd.k 0x7F).okV 3 (s.group 0) (s.path testPath) = true ∧
    Ready s testPath (vecUses 3 126 0 (.reg 0xFE)) :=
  ⟨by decide, by decide, by decide, by decide, by decide, (quiet_testMode _).ready _⟩
theorem witness_vector_types : (List.range 11).all (fun e => decide (mEtype (modeE e) = e) && modeLegal (modeE e)) = true := by decide
theorem witness_vector_third_source : ∀ l ∈ (testMode (modeE 0)).active testPath,
    (readsRun 127 (eRegs 0)).poison ((testMode (modeE 0)).group 0) (((testMode (modeE 0)).group 0).lane l) = false := by decide
theorem witness_vector_fields : let s := testMode (modeE 0)
    (Opnd.k 0x20).okV 0 (s.group 0) (s.path testPath) = true ∧
    ∀ l ∈ s.active testPath, let y := ((Opnd.k 0x1F).image 0 (s.group 0) (s.path testPath) ((s.group 0).lane l)).toNat % 2 ^ 32
      y / 256 ≤ 32 ∧ y / 32 % 8 = 0 := by decide
theorem witness_vector_predicates : (5#3 : BitVec 3).toNat ≤ 5 ∧ (7#3 : BitVec 3) ≠ 0#3 ∧ Ready testState testPath { pw := [7] } :=
  ⟨by decide, by decide, quiet_testState.ready _⟩
theorem witness_vector_lane : isVE 2 (testState.group 0) 126 = true ∧ isVE 10 (testState.group 0) 127 = true := by decide

/-! Floating-point words and conversions. -/

theorem witness_float (u : Uses) : let s := testMode (modeE 9)
    eFloat (mEtype (s.path testPath).mode) = true ∧ isV (s.group 0) 127 = true ∧ isV (s.group 0) 0 = true ∧
    (Opnd.reg 0xFF).okV 0 (s.group 0) (s.path testPath) = true ∧ (Opnd.k 0x82).okV 0 (s.group 0) (s.path testPath) = true ∧ Ready s testPath u :=
  ⟨by decide, by decide, by decide, by decide, by decide, (quiet_testMode _).ready u⟩
theorem witness_rounding : (0 : Int) < 24 ∧ (5 : Nat) ≤ 5 ∧ (65535 : Nat) < 65536 := by decide
theorem witness_conversions (u : Uses) : let s := testMode (modeE 8)
    (cvtTarget 0xC8).isSome = true ∧ (packFormat 0xC0).isSome = true ∧ isRun (s.group 0) 124 4 4 = true ∧ isRun (s.group 0) 126 2 2 = true ∧
    Ready s testPath u := ⟨by decide, by decide, by decide, by decide, (quiet_testMode _).ready u⟩
theorem witness_converted_values : (7 : Nat) ≤ 7 ∧ (8 : Nat) ≤ 10 ∧ (b8Of 0xC8).isSome = true ∧ eMin 6 ≤ -128 ∧ (127 : Int) ≤ eMax 6 ∧ eMax 6 < 128 ∧
    (let z := roundAt false 0xFFFFFF 104 104 0 0; z.1 ≠ 0 ∧ leadExp z.1 104 = 127) ∧ leadExp (roundAt false 1 (-149) (-149) 0 0).1 (-149) < -126 ∧
    (let f : B8 := ⟨4, true, false, 0⟩; b8Of 0xC8 = some f ∧ f.exceeds 15 4 = false ∧ f.exceeds 16 4 = true ∧ f.read 0x7F = .fin false 15 4 ∧
      (roundAt false 1 (-100) (-10) 0 0).1 = 0) ∧
    fmt16.read false 0x0001 = .fin false 1 (-24) ∧ fmtB16.read false 0x0001 = .fin false 1 (-133) := by decide
theorem witness_quant_choice : let f : B8 := ⟨4, true, false, 0⟩
    b8Of 0xC8 = some f ∧ (let most := f.read f.maxCode
      (most.scale 0).lt (FV.fin false 300 0).abs = true ∧ (most.scale 1).lt (FV.fin false 300 0).abs = false) ∧
    [(1 : Int), 2, 0].filter (fun e => decide (-127 ≤ e) && decide (e ≤ 126)) = [] ++ 1 :: [2, 0] ∧ (FV.fin false 0 0).isZero = true ∧
    [(-200 : Int), -199, -201].filter (fun e => decide (-127 ≤ e) && decide (e ≤ 126)) = [] := by decide
theorem witness_deq (u : Uses) : let s := withS [(127, 0x81C8)] (testMode (modeE 7))
    isRun (s.group 0) 124 4 4 = true ∧ isReg (s.group 0) 0xFF = true ∧ mEtype (s.path testPath).mode = 7 ∧
    fld ((s.group 0).sreg 127) 31 16 = 0 ∧ (b8Of (fld ((s.group 0).sreg 127) 7 0)).isSome = true ∧ Ready s testPath u :=
  ⟨by decide, by decide, by decide, by decide, by decide, Quiet.ready ⟨rfl, rfl, by decide, by decide, by decide, by decide⟩ u⟩
theorem witness_quant (u : Uses) : let s := withS [(127, 0x3C8)] (testMode (modeE 8))
    isS 0xFF = true ∧ fld ((s.group 0).sreg 127) 9 8 = 3 ∧ fld ((s.group 0).sreg 127) 31 10 = 0 ∧ isRun (s.group 0) 126 2 2 = true ∧
    (b8Of (fld ((s.group 0).sreg 127) 7 0)).isSome = true ∧ Ready s testPath u :=
  ⟨by decide, by decide, by decide, by decide, by decide, Quiet.ready ⟨rfl, rfl, by decide, by decide, by decide, by decide⟩ u⟩
theorem witness_generator : let s := withS [(127, 15)] testState
    isRun (s.group 0) 124 4 4 = true ∧ isVPair (s.group 0) 126 = true ∧ ((s.group 0).sreg 127).toNat ≤ 15 ∧
    fld ((s.group 0).sreg 127) 7 4 = 0 ∧ fld ((s.group 0).sreg 127) 31 16 = 0 ∧ isS 0xFC = true ∧ (0xFC : BitVec 8).toNat % 4 = 0 := by decide

/-! Cross-lane words: an index at its end, and no index beyond. -/

theorem witness_cross_lane (u : CrossUses) : let s := withS [(127, 31)] testState
    isS 0xFF = true ∧ isV (s.group 0) 127 = true ∧ isReg (s.group 0) 0xFF = true ∧ fld ((s.group 0).sreg 127) 31 5 = 0 ∧
    mEtype ((testMode (modeE 8)).path testPath).mode = 8 ∧ (2#8 : BitVec 8).toNat ≤ 2 ∧ CrossReady s testPath u :=
  ⟨by decide, by decide, by decide, by decide, by decide, by decide, Quiet.cross ⟨rfl, rfl, by decide, by decide, by decide, by decide⟩ u⟩

/-! Transfers, waits, modes and stops. -/

theorem witness_transfers : let s := withS [(126, 0xFFFFFFFC), (127, 0x007FFFFF)] testState
    isSPair 0xFE = true ∧ ((s.group 0).spair 126).toNat < 2 ^ 55 ∧ ((s.group 0).spair 126).toNat % 4 = 0 := by decide
theorem witness_pending_link : bit ((testState.updGroup 0 fun g => { g with sPend := 1#128 <<< 127 }).group 0).sPend 127 = true := by decide
theorem witness_branch : ∀ l ∈ lanesOf (testState.path testPath).mask,
    bit ((testState.group 0).lane l).pPend 7 = false ∧ bit ((testState.group 0).lane l).pPoison 7 = false := by decide
theorem witness_split : (0 : Nat) < 32 ∧ (let p := ((testState.updPath testPath fun p => { p with age := 1 }).group 0).path 0
    0 < p.age ∧ p.age < readyAge 2 ∧ p.state = .ready) ∧ ((testState.group 0).path 0).state = .ready ∧ ((testState.group 0).path 31).state = .empty := by decide
theorem witness_flags : isFlag 11 = true ∧ isFlag 12 = false ∧ (63#8 : BitVec 8).toNat < 64 ∧ (testState.group 0).flag 11 = 0 := by decide
theorem witness_modes : modeLegal 0x03E4CAA0#32 = true ∧ modeLegal 0x000000B0#32 = false ∧ modeLegal 0x04000000#32 = false := by decide
theorem witness_traps : (∀ l ∈ lanesOf (testState.path testPath).mask, (testState.path testPath).guardPending ((testState.group 0).lane l) = false) ∧
    (∀ l ∈ testState.active testPath, (testState.path testPath).guardPoisoned ((testState.group 0).lane l) = false) ∧
    testState.pendingFull 0 = false := by decide
theorem witness_stop : let stops : List Stop := [{ lane := 31, cause := .trap }]
    (testState.path testPath).state ≠ .empty ∧ (testState.path testPath).state ≠ .stepping ∧ stops ≠ [] ∧
    (∀ x ∈ stops, x.lane < 32 ∧ (testState.path testPath).mask.getLsbD x.lane = true) ∧ (stops.map (·.lane)).Nodup ∧
    ((testState.group 0).path 31).state = .empty := by decide
theorem witness_vector_checks :
    (∀ l ∈ lanesOf (testState.path testPath).mask, (testState.path testPath).guardPending ((testState.group 0).lane l) = true ∨
      (testState.path testPath).active ((testState.group 0).lane l) = true) ∧
    isVE 0 (testState.group 0) 0x80 = false ∧ isVE 0 (testState.group 0) 0x7F = true ∧ isReg (testState.group 0) 0xFF = true ∧ eInt 8 = false ∧
    (vecUses 0 0 1 (.reg 2)).hazard {} { vPend := 2 } = true ∧ (vecUses 0 0 1 (.reg 2)).poison {} { vPoison := 4 } = true := by decide

/-! Memory. On-chip addresses of the team's own core need no translation: the first word of its scratchpad, and its last. -/

/-- Lane 0 alone holds an on-chip address in the pair v126. -/
def padState (a : DWord) : State := withV 0 127 (hiWord a) (withV 0 126 (loWord a) (oneLane testState))
theorem quiet_padState : Quiet (padState 0x800000000007FFFC) := ⟨rfl, rfl, by decide, rfl, rfl, by decide⟩

theorem witness_reaches :
    Reaches (padState 0x800000000007FFFC) testPath .load 4 (fun l => (((padState 0x800000000007FFFC).group 0).lane l).pair 126)
      (padState 0x800000000007FFFC) [(0, .pad (teamKey 0 1) 0x7FFFC)] ∧
    Reaches (padState 0x8000000000000000) testPath .store 16 (fun l => (((padState 0x8000000000000000).group 0).lane l).pair 126)
      (padState 0x8000000000000000) [(0, .pad (teamKey 0 1) 0)] := by
  refine ⟨⟨?_, rfl, rfl⟩, ?_, rfl, rfl⟩ <;> rfl
theorem witness_loads (u : Uses) : let s := padState 0x800000000007FFFC
    isRun (s.group 0) 124 4 4 = true ∧ isVPair (s.group 0) 126 = true ∧ (Opnd.reg 0xFF).okS (s.path testPath) = true ∧
    (Opnd.k 0x7F).okS (s.path testPath) = true ∧ mMord (s.path testPath).mode ≠ 4 ∧ Ready s testPath u :=
  ⟨by decide, by decide, by decide, by decide, by decide, quiet_padState.ready u⟩
theorem witness_atomics : let s := padState 0x800000000007FFF8
    Reaches s testPath .atomic 8 (fun l => ((s.group 0).lane l).pair 126) s [(0, .pad (teamKey 0 1) 0x7FFF8)] ∧
    isRun (s.group 0) 126 2 2 = true ∧ isRun (s.group 0) 124 4 4 = true ∧ (0xFC : BitVec 8).toNat % 4 = 0 :=
  ⟨⟨rfl, rfl, rfl⟩, by decide, by decide, by decide⟩
theorem witness_memory_side : let s := padState 0x8000000000000000
    Reaches s testPath .mwait 4 (fun l => ((s.group 0).lane l).pair 126) s [(0, .pad (teamKey 0 1) 0)] := ⟨rfl, rfl, rfl⟩
theorem witness_memory_side_apply : let us : List MsUpdate := [{ loc := .dev 0, kind := 0, etype := 0, val := 1, lane := 31 }]
    let s : State := { testState with ops := [{ id := 7, group := 0, gen := 0, flag := none, work := .memorySide us }], ev := { a := 7 } }
    (s.ops.find? (·.id == s.ev.a)).map (·.work) = some (.memorySide us) ∧ us[s.ev.b]?.isSome = true := by decide
theorem witness_scratchpad : let s := withV 0 127 0x7FFF0 (oneLane testState)
    State.padLanes testPath true 16 (fun l => (((s.group 0).lane l).reg 127).toNat) (s.active testPath) s 0 =
      (s, [(0, .pad (teamKey 0 1) 0x7FFF0)], []) := rfl
theorem witness_uniform_memory : let s := withS [(126, 0x7FFF8), (127, 0x80000000)] testState
    isSPair 0xFE = true ∧ (s.group 0).spair 126 = 0x800000000007FFF8#64 ∧
    (s.access { ctx := 0, priv := false, core := some 0, lane := none, team := some (teamKey 0 1) } .uload 8 0x800000000007FFF8).2 =
      .ok (.pad (teamKey 0 1) 0x7FFF8) ∧ s.tileBusy [(0, .pad (teamKey 0 1) 0x7FFF8)] = false ∧
    s.watched testPath 0 0x800000000007FFF8 8 false true = none ∧ (Loc.pad (teamKey 0 1) 0x7FFF8).logs = true ∧
    (s.reserve 0 1 false).isSome = true := ⟨rfl, by decide, rfl, rfl, rfl, rfl, rfl⟩
theorem witness_store_frame : let s := padState 0
    Memory.wf s.mem = true ∧ Memory.wf s.hmem = true ∧ ((s.ctx 0).logEn && !(s.ctx 0).logStop) = false ∧ twf 0#8 (s.team (teamKey 0 1)).pad = true := by
  decide
theorem witness_address_causes : (0xC000000000000000#64).toNat / 2 ^ 62 = 3 ∧ (0x0080000000000000#64).toNat / 2 ^ 62 = 0 ∧
    (0x0080000000000000#64).toNat / 2 ^ 55 ≠ 0 ∧ (0x007FFFFFFFFFFFFF#64).toNat / 2 ^ 55 = 0 ∧ (0x007FFFFFFFFFFFFF#64).toNat % 16 ≠ 0 ∧
    (0x7FFFFFFFFFFFFFFF#64).toNat / 2 ^ 62 = 1 ∧ (0xBF60000000000000#64).toNat / 2 ^ 62 = 2 ∧ 95 < (0x8060000000000000#64).toNat / 2 ^ 48 % 256 ∧
    1 < (0x80002FFFFFFFFFFF#64).toNat / 2 ^ 44 % 16 := by decide

/-- Page tables in frames 1, 2 and 3 map page 0 of context 0 to frame 5, writable, for users. -/
def pagedState : State :=
  (((((testState.updHost fun h => { h with stage := 2, dies := 15 }).updCtx 0 fun c => { c with ptroot := 1 }).setEntry 0x10000 0x20001).setEntry 0x20000 0x30001).setEntry 0x30000 0x5001F)
theorem witness_page : pagedState.cached { ctx := 0, core := some 0 } 0 = none ∧
    pagedState.walk 0 0 = .leaf 0x5001F#64 0x30000 false ∧ (pagedState.access { ctx := 0, core := some 0 } .load 4 8).2 = .ok (.dev 0x50008) :=
  ⟨rfl, by decide, rfl⟩
/-- A page that is closed to users, to writes and to fetches. -/
theorem witness_closed_page : let s := pagedState.setEntry 0x30000 0x50003
    s.cached { ctx := 0, core := some 0 } 0 = none ∧ s.walk 0 0 = .leaf 0x50003#64 0x30000 false ∧
    bit (0x50003#64) 4 = false ∧ bit (0x50003#64) 2 = false ∧ bit (0x50003#64) 3 = false := ⟨rfl, by decide, rfl, rfl, rfl⟩
/-- A clause of one word at address 0 of a mapped page, fetched whole. -/
theorem witness_clause_fetched : let s := withEv 0 0 0 0 0 ((pagedState.setBytes (.dev 0x50000) (bytesOfNat 4 0x80000000 ++ bytesOfNat 4 0)).updPath
      testPath fun p => { p with clause := none, pc := 0, clhdr := 0 })
    (s.path testPath).clause = none ∧ (match s.fetchWord ((s.group 0).agent 0 none) 0 with
      | (t, .ok h) => decide (h = 0x80000000#32) && (match State.fetchWords ((s.group 0).agent 0 none) 1 4 t with
          | (_, .ok ws) => decide (ws = [0])
          | _ => false)
      | _ => false) = true := by decide
theorem witness_no_page : (match testState.walk 0 0 with | .leaf _ _ _ => false | _ => true) = true := by decide
theorem witness_view : testState.behind testPath = [] ∧ testState.memoryOk = true ∧ (∀ e ∈ testState.teams, twf 0#8 e.2.pad = true) := by decide
theorem witness_fence : (31#5 : BitVec 5) ≠ 0#5 ∧ mMord launchMode ≠ 4 := by decide
theorem witness_pairs : eWidth 3 = 64 ∧ (18446744073709551615 : Nat) < 2 ^ eWidth 3 ∧ (4294967295 : Nat) < 2 ^ eWidth 0 := by decide

/-! Objects, engines, barriers, matrix and tiles. -/

/-- Object table of context 0 in frame 8; object 65,535 is alive, with one strong reference. -/
def objectState : State :=
  ((pagedState.updCtx 0 fun c => { c with objtab := 8, objBase := 0x40000, objSize := 0x100000 }).setObj 0 65535
    { scount := 1, prio := 8, alive := true, base := 0x40000, size := 0x10000, birth := 1 })
/-- Its strong address with the offset 0 in s126. -/
def withObject : State := withS [(126, loWord (objectAddr false 0 65535 0)), (127, hiWord (objectAddr false 0 65535 0))] objectState

theorem witness_objects : let x := (withObject.group 0).spair 126
    isSPair 0xFE = true ∧ fld x 63 62 = 1 ∧ oaWeak x = false ∧ oaIndex x = 65535 ∧ withObject.objAlive 0 x = true ∧
    (withObject.obj 0 65535).scount = 1 ∧ (withObject.obj 0 65535).frozen = false ∧ withObject.objQuiet 0 65535 = true ∧
    (withObject.reserve 0 1 false).isSome = true ∧ withObject.mustWait (withObject.vpublishNeeds 0 65535) = false ∧
    withObject.mustWait (withObject.hnewNeeds 0 1) = false := by decide
theorem quiet_withObject : Quiet withObject := ⟨rfl, rfl, show (0xFFFFFFFF#32 : BitVec 32) ≠ 0#32 by decide, by decide, by decide, rfl⟩
theorem witness_new_object_sizes : (0x2000000000#64).toNat ≤ 2 ^ 37 ∧ 0 < (1#64).toNat ∧ (15#32).toNat ≤ 15 := by decide

theorem witness_mappg : let s := testHandler (withS [(1, 4), (2, 0x10000), (3, 0)] (pagedState.updHost fun h => { h with stage := 2 }))
    let s : State := { s with pool := [(9, 1)] }
    (match (s.group 0).hcap with
      | some h => h.map && s.pageWanted h ((s.group 0).spair 2) && decide ((4#32) &&& ~~~0x3F9C#32 = 0#32)
      | none => false) = true ∧
    (s.reserve 0 1 true).isSome = true ∧ s.mapNeeds 0 0x10000 ≤ s.poolFree ∧ isSPair 0x82 = true ∧ isS 0x81 = true := by decide
theorem witness_tlbinv : (0x007FFFFFFFFF0000#64).toNat < 2 ^ 55 ∧ (1#32 : BitVec 32) ≠ 0#32 ∧
    (0x007FFFFFFFFF0000#64).toNat / 65536 + (1#32).toNat ≤ 2 ^ 39 := by decide
theorem witness_kvx : let s := withS [(126, 0), (127, 0x80000000)] (oneLane testState)
    isSPair 0xFE = true ∧ isVPair (s.group 0) 126 = true ∧ s.active testPath = [0] := by decide
/-- A request at the top of the scratchpad that copies its first 16 bytes behind themselves, on the core. -/
def copyState : State :=
  withS [(127, 0x7FFE0)] (withPad 0x7FFE0 (bytesOfNat 8 0x8000000000000000 ++ bytesOfNat 8 0x8000000000000010 ++ bytesOfNat 4 16 ++ bytesOfNat 4 0x7FFC0) testState)
theorem witness_copy : let s := copyState
    let q := s.copyReq (teamKey 0 1) 0x7FFE0
    ((s.group 0).sreg 127).toNat % 32 = 0 ∧ ((s.group 0).sreg 127).toNat + 32 ≤ s.scratchOf (s.group 0) ∧
    s.poisoned (.pad (teamKey 0 1) 0x7FFE0) 32 = false ∧ s.copyOk (s.group 0) q = true ∧
    (match (State.copyAll (s.group 0) ((s.group 0).agent 0 none) [q] s).2 with | .ok us => us.length == 1 | .error _ => false) = true := by decide
theorem witness_copy_unit : let us : List CopyUnit := [{ src := .dev 0, dst := .dev 16, bar := some (teamKey 0 1, 0) }]
    let s : State := { testState with ops := [{ id := 7, group := 0, gen := 0, flag := none, work := .copy us }], ev := { a := 7 } }
    (s.ops.find? (·.id == s.ev.a)).map (·.work) = some (.copy us) ∧ us[s.ev.b]?.isSome = true := by decide

theorem witness_barriers : let s := withS [(0, 0x7FFF0), (1, 0x7FFFFFFF)] (withPad 0x7FFF0 (bytesOfNat 4 0 ++ bytesOfNat 4 1 ++ bytesOfNat 4 1) testState)
    s.objectRef (s.group 0) 0x7FFF0 = some (teamKey 0 1, 0x7FFF0) ∧ s.poisoned (.pad (teamKey 0 1) 0x7FFF0) 16 = false ∧ (s.reserve 0 1 false).isSome = true ∧
    (s.barrier (teamKey 0 1) 0x7FFF0).arrive ≠ 0#32 ∧ 1 ≤ (0x7FFFFFFF#32).toNat ∧ (0x7FFFFFFF#32).toNat ≤ 0x7FFFFFFF := by decide
theorem witness_named_barrier : (15#32).toNat ≤ 15 ∧ (1#32 : BitVec 32) ≠ 0#32 ∧ (255#32).toNat < 256 ∧ bit (1#32) ((testState.group 0).role.toNat) = true ∧
    tget 0#8 (testState.team (teamKey 0 1)).nbarMask 15 = 0#8 := by decide

/-- A format block: unscaled BF16 by BF16, of depth 4, with B at the last offset that fits. -/
def blockBytes : List Byte := [0, 0, 0, 0] ++ List.replicate 8 0 ++ bytesOfNat 4 0x7F400 ++ [4, 1, 0, 0, 4] ++ List.replicate 11 0
theorem witness_matrix : let s := testState
    128 ≤ (s.group 0).window ∧ 15 < s.tilesOf (s.group 0) ∧ s.arrayHeld 0 = false ∧ s.inFlight (s.halves (teamKey 0 1) 15 false) = false ∧
    (s.group 0).runPending 64 64 = false ∧ blockBytes.length = 32 ∧
    (match parseFBlock true blockBytes with | some f => f.acc && f.fits (s.scratchOf (s.group 0)) [524288] | none => false) = true := by decide
theorem witness_latch : let g : Group := { (testState.group 0) with latch := some true }
    g.latch = some true ∧ ((127 / 64 == 1) = true) ∧ ((0 / 64 == 1) = !true) ∧ (∀ e ∈ g.lanes, e.2.vWritten = 0#128) := by decide
theorem witness_sums : (∃ x ∈ [FV.nan true], x.isNan = true) ∧ FV.inf false ∈ [FV.inf false, .inf true] ∧ FV.inf true ∈ [FV.inf false, .inf true] ∧
    (∀ x ∈ [FV.inf true, .fin false 1 0], x.isNan = false) ∧ FV.inf false ∉ [FV.inf true, .fin false 1 0] ∧ (0 : Int) ≤ 0 := by decide
/-- A pair: the follower of a team of two on cores 0 and 1. -/
theorem witness_pair_absent : testState.pairTeam (teamKey 0 1) 0 = none := by decide
theorem witness_topk : let s := withS [(127, 127 - 16)] testState
    ((s.group 0).sreg 127).toNat < 128 ∧ 112 + 2 * (fld ((s.group 0).sreg 127) 2 0 + 1) ≤ (s.group 0).window ∧
    s.inFlight (s.halves (teamKey 0 1) 15 false) = false ∧ (s.group 0).runPending 112 16 = false ∧ bit (s.team (teamKey 0 1)).tP 15 = false := by decide
theorem witness_tile_moves : (0x7A000 : Nat) % 16 = 0 ∧ (0x7A000 : Nat) + 24576 ≤ testState.scratchOf (testState.group 0) ∧
    (testState.reserve 0 (chunkCount 0x7A000 24576) false).isSome = true ∧ testState.inFlight [(teamKey 0 1, 15)] = false := by decide
theorem witness_row_block : let s := withS [(127, 0)] (withPad 0 (bytesOfNat 4 0x3F800000 ++ bytesOfNat 4 0x1000 ++ [0, 1, 0, 0, 0, 0, 0, 0]) testState)
    (match s.rowBlock (s.group 0) 0 with
      | some x => rowOk .rowmax 0 s (s.group 0) x && rowOk .expsub 0 s (s.group 0) x && rowOk .scale 15 s (s.group 0) x
      | none => false) = true := by decide

/-! Sampling, tickets, special registers, the log, windows, launches and handlers. -/

/-- A sampling block: one f32 logit at address 0, temperature and top-p 1. -/
def sampleBytes : List Byte :=
  bytesOfNat 8 0 ++ bytesOfNat 4 1 ++ [4, 0, 0, 0] ++ bytesOfNat 4 0x3F800000 ++ bytesOfNat 4 0x3F800000 ++ List.replicate 24 0
theorem witness_sampling :
    (match sampleRun testPath (pagedState.group 0) ((pagedState.group 0).agent 0 none) sampleBytes pagedState with
      | some (_, .ok (ws, po)) => ws.length == 1 && !po
      | _ => false) = true ∧
    (match specaccRun testPath (pagedState.group 0) ((pagedState.group 0).agent 0 none) (sampleBytes ++ sampleBytes ++ List.replicate 16 0) pagedState with
      | some (_, .ok (ws, _)) => ws.length == 2
      | _ => false) = true ∧ (0x7FFD0 : Nat) % 16 = 0 ∧ 0x7FFD0 + 48 ≤ pagedState.scratchOf (pagedState.group 0) ∧
    0x7FF90 + 112 ≤ pagedState.scratchOf (pagedState.group 0) := by decide

theorem witness_temperature_0 : let x : SBlock := { logits := 0, n := 2, fmt := 4, slot := 0, temp := 0, topp := 0x3F800000, topk := 0, mask := 0, idx := 0 }
    ([0xBF800000#32, 0x3F800000#32] : List Word).length = x.n ∧ (val32 x.temp).isZero = true ∧ (0x3F800000#32 : Word) ≠ 0xFF800000#32 ∧
    (val32 0x3F800000).lt (val32 0xBF800000) = false ∧ (val32 0xBF800000).lt (val32 0x3F800000) = true := by decide
theorem witness_acceptance : let zero : FV := .fin false 0 0
    zero.lt (val32 0x3F800000) = true ∧ (FV.mul (.fin false 1 (-24)) (val32 0x3F800000)).1.lt (val32 0x3F000000) = true ∧ zero.lt (val32 0) = false := by decide
/-- Tickets are on, with 1,024 entries from frame 5 on, and queue 63 belongs to the device and to context 0. -/
def ticketState : State :=
  (pagedState.updCtx 0 fun c => { c with tkbase := 5, tkcfg := 0x8000000A }).updQueue 63 fun q => { q with ctl := 0xC0000004, base := 0x60000 }
/-- A request block: weights by a weak address, blocks at multiples of 16. -/
def requestBytes : List Byte :=
  List.replicate 8 0 ++ bytesOfNat 8 0x6000000000000000 ++ List.replicate 24 0 ++ bytesOfNat 8 0x100 ++ bytesOfNat 8 0x200 ++ List.replicate 24 0
theorem witness_ticket : bit (ticketState.ctx 0).tkcfg 31 = true ∧ (ticketState.group 0).isHandler = false ∧ requestOk false requestBytes = true ∧
    requestBytes.length = 80 ∧ blkNum requestBytes 24 8 = 0 ∧ blkNum requestBytes 32 8 = 0 ∧
    ticketState.poisoned (.pad (teamKey 0 1) 0x7FFB0) 80 = false ∧ 0x7FFB0 + 80 ≤ (ticketState.team (teamKey 0 1)).scratch ∧ (ticketState.reserve 0 1 false).isSome = true ∧
    (match (ticketState.readRegion ((ticketState.group 0).agent 0 none) 16 0 0).2 with | .ok _ => true | .error _ => false) = true := by decide
theorem witness_redeem : redemptionOk (List.replicate 17 0 ++ [63] ++ List.replicate 46 0) = true ∧ ticketState.queueOk 63 0 = true ∧
    blkNum (List.replicate 17 0 ++ [63] ++ List.replicate 46 0) 8 8 = 0 ∧ ticketState.findTicket 0 0x8000000000000000 = none ∧ ticketState.findTicket 0 0x3FF = none ∧
    (ticketState.setTk 0 0x3FF 0 8 0x1003FF).findTicket 0 0x1003FF = some 0x3FF := by decide
theorem witness_ticket_outcomes : let r : State × DWord := ticketState.ticket testPath (ticketState.path testPath) (ticketState.group 0) requestBytes []
    (ticketState.group 0).replay = false ∧ ticketState.objAlive 0 (BitVec.ofNat 64 (blkNum requestBytes 8 8)) = false ∧ r.2 = BitVec.ofNat 64 (2 ^ 63 + 3) ∧
    (ticketState.holdSome testPath (ticketState.path testPath) 0 0).2 = true ∧ ticketState.freeTicket 0 = some 0 := by decide
/-- A pending ticket whose weights are alive redeems with status 0. -/
theorem witness_redemption :
    let s := ((((withObject.updCtx 0 fun c => { c with tkbase := 5, tkcfg := 0x8000000A }).setTk 0 0 0 8 0x100000).setTk 0 0 8 1 1).setTk 0 0 16 8
      (objectAddr true 0 65535 0).toNat)
    (s.redemption 0 (bytesOfNat 8 0x100000 ++ List.replicate 56 0)).status = 0 := by decide

theorem witness_special_registers : assigned 0x00 = true ∧ assigned 0x0A = true ∧ assigned 0x7E = true ∧ assigned 0x7F = false ∧ isHcap 0x3A = true ∧
    laneScope 0x09 = false ∧ swrFaults 0x09 = false ∧ swrPrivileged 0x09 = false ∧
    (testState.writeSpecial 0 (testState.group 0) 0x09 7).isSome = true ∧ (testState.writeSpecial 0 (testState.group 0) 0x7E 0xFFFFFFFF).isSome = true := by
  decide
theorem witness_privileged_registers : ((testHandler testState).group 0).isHandler = true ∧ swrPrivileged 0x12 = true ∧
    (20#32).toNat ≤ 40 ∧ 20 ≤ (40#32).toNat ∧ fld (0xFFFFFFFF#32) 15 0 ≤ fld (0xFFFFFFFF#32) 31 16 := by decide
theorem quiet_testHandler : Quiet (testHandler testState) := ⟨rfl, rfl, by decide, rfl, rfl, rfl⟩

theorem witness_log : logcfgOk 0x0000000C#32 = true ∧ logcfgOk 0x8000001E#32 = true ∧ pagedState.ringOk 9 12 = true ∧ (2#32).toNat < 3 ∧
    ((testHandler testState).group 0).isHandler = true := by decide
theorem witness_rewind : ∃ t w, (testHandler testState).rewind 0 (some (teamKey 0 1)) (some 0) 1 false = (t, some w) ∧
    (t.path testPath).mask ≠ 0#32 ∧ (match ((testHandler testState).group 0).hcap with | some h => h.rewind && (testHandler testState).capValid h | none => false) = true := by
  refine ⟨_, _, rfl, ?_, ?_⟩ <;> decide
theorem witness_windows : (testState.group 0).resizing = [] ∧ windowOk 16 = true ∧ windowOk 128 = true ∧ windowOk 0 = false ∧ windowOk 136 = false := by decide
theorem witness_reorder (u : Uses) : let s := testState.updTeam (teamKey 0 1) fun t => { t with reorder := some { entry := 0, n := 64, regs := 64, role := 0, mode := launchMode } }
    (s.team (teamKey 0 1)).reorder.isSome = true ∧ 64 + 64 ≤ (s.group 0).window ∧ (s.active testPath).length + (s.core 0).glade.length ≤ 4096 ∧
    Ready s testPath u := ⟨by decide, by decide, by decide, Quiet.ready ⟨rfl, rfl, by decide, rfl, rfl, rfl⟩ u⟩
theorem witness_launch : ticketState.queueOk 63 0 = true ∧ (0x7FF80 : Nat) % 16 = 0 ∧ 0x7FF80 + 128 ≤ (ticketState.team (teamKey 0 1)).scratch ∧
    ticketState.poisoned (.pad (teamKey 0 1) 0x7FF80) 128 = false ∧ (ticketState.reserve 0 1 false).isSome = true := by decide

theorem witness_handler (u : Uses) : let s := testHandler testState
    (match (s.group 0).hcap with
      | some h => s.capValid h && s.holdsGroup h && ((s.group h.group).path h.path).heldSince h.given && decide ((s.group h.group).path h.path = { state := .frozen, mask := 0xF, freezer := .stop, pc := 4 }) &&
          decide (0xF &&& ~~~(s.named h) = 0#32) && decide (0xF &&& ~~~h.mask = 0#32) && ((s.group h.group).frozenEntry 0xF h.given == some 0) && h.group != 0
      | none => false) = true ∧ (127#8 : BitVec 8).toNat < 128 ∧ 127 < (s.group 1).window ∧ isV (s.group 0) 127 = true ∧
    (∀ l ∈ lanesOf 0xF, bit ((s.group 1).lane l).vPend 127 = false) ∧ Ready s testPath u :=
  ⟨by decide, by decide, by decide, by decide, by decide, quiet_testHandler.ready u⟩


/-! Events: writes from outside, the mailbox, the debugger, and the device's own. -/

/-- A command is in progress for a context, with bytes of the buffer from an offset on. -/
def withCmd (code ctx : Nat) (bufs : List (Nat × List Byte)) (s : State) : State :=
  s.updHost fun h => bufs.foldl (fun h e => h.setBuf e.1 e.2)
    { h with stage := 2, busy := true, mbcmd := BitVec.ofNat 32 (ctx * 65536 + code) }

theorem witness_queue_registers : (63 : Nat) ≤ 63 ∧ (0xFFFFFFFFFFFFF000#64).toNat % 4096 = 0 ∧ (0x00000800#64).toNat % 4096 ≠ 0 ∧
    (fld (0x38000010#32) 26 24 = 0 ∧ fld (0x38000010#32) 15 5 = 0 ∧ fld (0x38000010#32) 4 0 ≤ 16) ∧
    (testState.updHost fun h => { h with stage := 1 }).host.stage ≠ 0 ∧ bit (testState.queue 63).ctl 30 = false ∧
    ((16#32) - (testState.queue 63).tail).toNat ≤ 2 ^ fld (testState.queue 63).ctl 4 0 - ((testState.queue 63).tail - (testState.queue 63).head).toNat := by decide
theorem witness_core_registers : 20 ≤ (20#32).toNat ∧ (40#32).toNat ≤ 40 ∧ ¬ 20 ≤ (19#32).toNat ∧ ¬ (41#32).toNat ≤ 40 ∧
    fld (0x80001806#32) 30 13 = 0 ∧ fld (0x80001806#32) 7 5 = 0 ∧ fld (0x80001806#32) 12 8 = 24 ∧ fld (0x80001806#32) 4 0 = 6 ∧
    fld (0x00000A14#32) 12 8 = 10 ∧ fld (0x00000A14#32) 4 0 = 20 := by decide
theorem witness_context_registers : bit (0xA0A28A28#32) 1 = false ∧ fld (0xA0A28A28#32) 7 2 = 10 ∧ fld (0xA0A28A28#32) 31 26 = 40 ∧
    bit (0x00000002#32) 1 = true ∧ fld (0x24000000#32) 31 26 = 9 ∧
    fld (0x80000014#32) 29 5 = 0 ∧ fld (0x80000014#32) 4 0 = 20 ∧ fld (0x0000000A#32) 4 0 = 10 ∧ fld (0x00000009#32) 4 0 < 10 ∧
    bit (testState.ctx 4095).tkcfg 31 = false ∧ (testState.tkHeld 4095 1023) = false ∧
    bit (ticketState.ctx 0).tkcfg 31 = true := by decide
theorem witness_queue_head_write : (0x10000 : Nat) + 32 * 63 + 16 = 0x107F0 ∧ (63 : Nat) ≤ 63 := by decide
theorem witness_register_write : (0x1FFF : Nat) + ([0x5A] : List Byte).length ≤ 0x2000 ∧
    (let s := (testState.updHost fun h => { h with booted := true })
     s.host.busy = false ∧ s.host.booted = true ∧ fld (0x0FFF00FF#32) 15 8 = 0) ∧ (withCmd 0 0 [] testState).host.busy = true := by decide

theorem witness_ident : let h := (withCmd 0 4095 [] testState).host
    h.command = some .ident ∧ h.unnamedZero [] = true ∧ h.cmdCtx ≤ 4095 := by decide
theorem witness_attest : let h := (withCmd 1 0 [(31, [0xFF])] testState).host
    h.command = some .attest ∧ h.unnamedZero [(0, 32)] = true := by decide
theorem witness_keyset : let h := (withCmd 2 4095 [(0, [3]), (39, [0xFF])] testState).host
    h.command = some .keyset ∧ h.unnamedZero [(0, 1), (8, 32)] = true ∧ h.num 0 1 ≤ 3 := by decide
theorem witness_signonly : let h := (withCmd 5 4095 [(0, [1])] testState).host
    h.command = some .signonly ∧ h.unnamedZero [(0, 1)] = true ∧ h.num 0 1 ≤ 1 := by decide
theorem witness_seal : let s := withCmd 3 0 [(0, bytesOfNat 8 0x7FFFFFFFFFFFFF)] pagedState
    s.host.command = some .seal ∧ s.host.unnamedZero [(0, 24)] = true ∧ s.host.num 0 8 < 2 ^ 55 ∧
    (s.verifySeal 0 (BitVec.ofNat 64 (s.host.num 0 8)) (BitVec.ofNat 64 (s.host.num 16 8)) (s.host.num 8 8)).2 = none := by decide
theorem witness_unseal : let s := withCmd 4 0 [(0, bytesOfNat 8 0x10000)] (pagedState.updCtx 0 fun c => { c with seals := [{ load := 0x10000, ranges := [(0, 4)], frames := [5] }] })
    s.host.command = some .unseal ∧ s.host.unnamedZero [(0, 8)] = true ∧
    (s.ctx 0).seals.any (fun x => x.load.toNat == s.host.num 0 8) = true := by decide
theorem witness_event : let s := withCmd 6 0 [] (testState.updHost fun h => { h with events := [List.replicate 64 1] })
    s.host.command = some .event ∧ s.host.unnamedZero [] = true ∧ s.host.events = List.replicate 64 1 :: [] ∧
    (withCmd 6 0 [] testState).host.events = [] := by decide
theorem witness_answer : let s := withCmd 7 0 [(0, [1])] (testState.updCtx 0 fun c => { c with escal := some {} })
    s.host.command = some .answer ∧ (s.ctx 0).escal = some {} ∧ s.host.unnamedZero [(0, 1)] = true ∧ s.host.num 0 1 = 1 := by decide
theorem witness_ctxkill : let h := (withCmd 14 4095 [] testState).host
    h.command = some .ctxkill ∧ h.unnamedZero [] = true := by decide
theorem witness_ctxreg :
    (let h := (withCmd 8 4095 [(4, bytesOfNat 4 0x22)] testState).host
     h.command = some .ctxregRead ∧ h.unnamedZero [(0, 1), (2, 2), (4, 4), (8, 8)] = true ∧ selScope (h.num 4 4) = some 0 ∧ h.num 2 2 = 0) ∧
    (let h := (withCmd 8 0 [(0, [1]), (2, [95]), (4, bytesOfNat 4 0x07), (8, bytesOfNat 4 40)] testState).host
     h.command = some .ctxregWrite ∧ h.unnamedZero [(0, 1), (2, 2), (4, 4), (8, 8)] = true ∧ selScope (h.num 4 4) = some 1 ∧ h.num 2 2 < 96) := by
  decide
theorem witness_mailbox_tlbinv :
    (let h := (withCmd 9 0 [(0, [3])] testState).host
     (testState.accessing 0 0 true) = false ∧ h.command = some .mailboxTlbinv ∧ h.unnamedZero [(0, 1), (8, 8), (16, 4)] = true ∧ h.num 0 1 = 3 ∧ h.num 8 8 = 0 ∧ h.num 16 4 = 0) ∧
    (let h := (withCmd 9 0 [(0, [2]), (8, bytesOfNat 8 0x7FFFFFFFFFFFFF), (16, [1])] testState).host
     h.tlbAfter = none ∧ h.num 8 8 < 2 ^ 55 ∧ 0 < h.num 16 4 ∧ h.num 8 8 / 65536 + h.num 16 4 ≤ 2 ^ 39) := by decide
theorem witness_preempt : let s := withCmd 10 0 [(8, bytesOfNat 8 0x10000)] (testState.updTeam (teamKey 0 1) fun t => { t with idem := true })
    s.host.command = some .preempt ∧ (s.ctx 0).saving = none ∧ s.host.num 0 8 % 65536 = 0 ∧ s.host.unnamedZero [(0, 16)] = true ∧
    s.host.num 0 8 + s.host.num 8 8 ≤ deviceFrames * 65536 ∧ s.preemptPlan 0 ≠ [] ∧ s.planSize (s.preemptPlan 0) ≤ s.host.num 8 8 := by decide
theorem witness_restore : (let h := (withCmd 11 0 [(8, [1])] testState).host
     h.command = some .restore ∧ h.unnamedZero [(0, 9)] = true ∧ h.num 0 8 = 0 ∧ h.num 8 1 = 1) ∧
    ((withCmd 11 0 [(0, [64])] testState).restoreStatus 0 64).1 = 1 := by decide
theorem witness_pooladd : let s := withCmd 12 0 [(0, bytesOfNat 4 (deviceFrames - 1)), (4, [1])] pagedState
    s.host.command = some .pooladd ∧ s.host.unnamedZero [(0, 8)] = true ∧ 1 ≤ s.host.num 4 4 ∧ s.host.num 0 4 + s.host.num 4 4 ≤ deviceFrames ∧
    s.frameUsable (deviceFrames - 1) = true ∧ s.pool = [] := by decide
theorem witness_objregion : let s := withCmd 13 0 [(0, bytesOfNat 8 0x7FFFFFFFFF0000), (8, bytesOfNat 8 0x10000)] pagedState
    s.host.command = some .objregion ∧ s.host.unnamedZero [(0, 16)] = true ∧ s.host.num 0 8 < 2 ^ 55 ∧ s.host.num 0 8 % 65536 = 0 ∧
    s.host.num 8 8 % 65536 = 0 ∧ (s.ctx 0).ranges = [] := by decide
theorem witness_command_at_stage_0 : let s := testState.updHost fun h => { h with busy := true, mbcmd := 2 }
    s.host.command = some .keyset ∧ s.host.stage = 0 := by decide

/-- Context 0 is attached; its one team is number 1, whose group 0 is named, with path 0. -/
def debugState (code : Nat) (bufs : List (Nat × List Byte)) (s : State) : State :=
  withCmd code 0 ((4, [1]) :: bufs) (s.updCtx 0 fun c => { c with attached := true })
/-- The debugger froze the path. -/
def debuggerFroze (s : State) : State := s.updPath testPath (·.suspend .debugger s.clock)

theorem witness_attach : let s := withCmd 0x20 4095 [] testState
    s.host.command = some .attach ∧ s.host.unnamedZero [] = true ∧ (s.ctx 4095).attached = false := by decide
theorem witness_detach : let s := withCmd 0x21 0 [] (debugState 0x21 [(4, [0])] testState)
    s.host.command = some .detach ∧ s.host.unnamedZero [] = true ∧ (s.ctx 0).attached = true := by decide
theorem witness_setreg :
    (let h := (debugState 0x22 [(0, [0, 15]), (4, [0]), (8, bytesOfNat 8 0x7FFFFFFFFFFFFC)] testState).host
     h.command = some .setreg ∧ h.unnamedZero [(0, 2), (8, 8)] = true ∧ h.num 1 1 ≤ 15 ∧ fld (BitVec.ofNat 64 (h.num 8 8)) 63 55 = 0 ∧
     fld (BitVec.ofNat 64 (h.num 8 8)) 1 0 = 0) ∧
    fld (0xFFF80000#64) 18 0 = 0 ∧ fld (0x3FFFFF#64) 31 22 = 0 ∧ (0xFFFFF#64).toNat % 2 ^ fld (tget 0#32 (testState.ctx 0).wpctl 15) 16 12 = 0 ∧
    fld (0x10000#64) 11 0 = 0 ∧ fld (0x10000#64) 16 12 ≤ 16 := by decide
theorem witness_freeze : let s := debugState 0x23 [(0, [2])] testState
    s.host.command = some .freeze ∧ s.host.unnamedZero [(0, 1), (4, 6)] = true ∧ s.host.num 0 1 = 2 ∧ s.namedPath 0 = some testPath := by decide
theorem witness_resume : let s := debugState 0x24 [(12, bytesOfNat 4 0xFFFFFFFF)] (debuggerFroze testState)
    s.host.command = some .resume ∧ s.host.unnamedZero [(4, 6), (12, 4)] = true ∧ s.debugFrozen 0 = some testPath ∧
    s.host.mask &&& ~~~(s.path testPath).mask = 0#32 := by decide
theorem witness_step : let s := debugState 0x25 [] (debuggerFroze testState)
    s.host.command = some .step ∧ s.host.unnamedZero [(4, 6)] = true ∧ s.steppable 0 = some testPath := by decide
theorem witness_rstep : let s := debugState 0x26 [(12, bytesOfNat 4 1)] testState
    s.host.command = some .rstep ∧ s.host.unnamedZero [(4, 5), (12, 12)] = true ∧ s.namedGroup 0 = some 0 ∧ s.rstepOk 0 = true ∧
    (s.rewind 0 (some (s.replayOf 0 0).team) none (BitVec.ofNat 32 (s.host.num 16 4)) false).2.isSome = true := by decide
theorem witness_debugger_window : let s := debugState 0x27 [(4, [0])] testState
    s.host.command = some .boroiviWindow ∧ s.host.unnamedZero [] = true ∧
    (s.suspend (s.ctxGroups 0) .management).quiet ((s.suspend (s.ctxGroups 0) .management).ctxTeams 0) = true ∧
    ((s.suspend (s.ctxGroups 0) .management).reserve 0 (1 + ((s.suspend (s.ctxGroups 0) .management).liveImages 0
      ((s.suspend (s.ctxGroups 0) .management).ctx 0).nextWin.toNat).foldl (fun a i => a + i.pieces) 0)).isSome = true := by decide
theorem witness_read : let s (cls i : Byte) := debugState 0x28 [(9, [cls, i]), (12, bytesOfNat 4 0x80000000)] (debuggerFroze testState)
    (s 0 127).host.command = some .read ∧ (s 0 127).host.unnamedZero [(4, 7), (12, 4)] = true ∧ (s 0 127).frozenArgs 0 = some (0, 0) ∧
    (s 1 127).frozenArgs 0 = some (0, 0) ∧ (s 2 0).frozenArgs 0 = some (0, 0) ∧ (s 3 0).frozenArgs 0 = some (0, 0) ∧
    (s 4 0).frozenArgs 0 = some (0, 0) ∧ (s 5 0).frozenArgs 0 = some (0, 0) ∧ (s 8 0).frozenArgs 0 = some (0, 0) ∧
    (s 0 127).host.num 10 1 = 127 := by decide
theorem witness_write : let s (cls : Byte) := debugState 0x29 [(9, [cls]), (12, bytesOfNat 4 1), (64, bytesOfNat 8 4)] (debuggerFroze testState)
    (s 3).host.command = some .write ∧ (s 3).host.unnamedZero [(4, 7), (12, 4)] = true ∧ (s 3).frozenArgs 0 = some (0, 0) ∧
    fld (BitVec.ofNat 64 ((s 3).host.num 64 8)) 63 55 = 0 ∧ fld (BitVec.ofNat 64 ((s 3).host.num 64 8)) 1 0 = 0 ∧
    (s 5).frozenArgs 0 = some (0, 0) ∧ modeLegal launchMode = true := by decide
theorem witness_debugger_rewind : let s := debugState 0x2A [(0, [1])] testState
    s.host.command = some .boroiviRewind ∧ s.host.unnamedZero [(0, 1), (4, 4), (16, 4)] = true ∧ s.host.num 0 1 ≤ 1 ∧ s.host.tid < 4194304 ∧
    (s.team (teamKey 0 1)).stage = .started ∧
    (s.rewind 0 (some (teamKey 0 s.host.tid)) none (BitVec.ofNat 32 (s.host.num 16 4)) true).2.isSome = true := by decide
theorem witness_memread : let s := debugState 0x2B [(0, bytesOfNat 8 8), (8, bytesOfNat 4 16)] pagedState
    s.host.command = some .memread ∧ s.host.unnamedZero [(0, 12)] = true ∧ s.host.num 0 8 < 2 ^ 63 ∧ 1 ≤ s.host.num 8 4 ∧ s.host.num 8 4 ≤ 3072 ∧
    (match s.readRegion (distributor 0) 1 (BitVec.ofNat 64 (s.host.num 0 8)) (s.host.num 8 4) with | (_, .ok _) => true | _ => false) = true := by decide
theorem witness_memwrite : let s := debugState 0x2C [(0, bytesOfNat 8 8), (8, bytesOfNat 4 1)] pagedState
    s.host.command = some .memwrite ∧
    (State.hostPlaces 0 (s.host.num 8 4) (BitVec.ofNat 64 (s.host.num 0 8)) s).2.isSome = true := by decide

/-! Clocks of the cores are free; they have counted at least as far as the model's own. -/
theorem le_clocks (core n : Nat) : n ≤ clocks core n := by
  induction n with
  | zero => exact Nat.zero_le _
  | succ n ih => simp only [clocks]; omega

/-- The path of the test state waits. -/
def waiting (st : PState) (w : Wait) (s : State) : State := s.updPath testPath fun p => { p with state := st, wait := w }

theorem witness_yield_and_monitor : ((waiting .yielded .yield testState).path testPath).state = .yielded ∧ (testState.group 0).flag 0 = 0 ∧
    ((waiting .barwait (.monitor [0]) testState).path testPath).wait = .monitor [0] := by decide
theorem witness_promotion : let s := testState.updPath testPath fun p => { p with waited := 64 }
    (s.path testPath).state = .ready ∧ 64 ≤ clocks 0 (s.path testPath).waited := ⟨rfl, le_clocks _ _⟩
theorem witness_regrow : let s := waiting .flagwait (.regrow 7 128) testState
    ((s.group 0).path 0).request = some (7, 128) ∧ s.oldestRequest 0 = some (0, 0, (s.group 0).path 0) ∧
    (128 - (s.group 0).window) / 16 ≤ (s.partFree 0 0).1 ∧ s.refused 0 = some (0, 0) := by decide
theorem witness_regfree : let s := waiting .flagwait (.regfree 16) testState
    (s.path testPath).wait = .regfree 16 ∧ (s.path testPath).state = .flagwait ∧ (s.group 0).servesNext 0 = true ∧ (s.group 0).pendingFrom 16 = false ∧
    16 < (s.group 0).window := by
  decide
/-- A team with a reorder descriptor of one register. -/
def reorderTeam (s : State) : State := s.updTeam (teamKey 0 1) fun t => { t with reorder := some { entry := 4, n := 1, regs := 16, role := 0, mode := launchMode } }
theorem witness_deposit : let s := reorderTeam (waiting .flagwait (.reorder 0 1 1) testState)
    (s.path testPath).wait = .reorder 0 1 1 ∧ (∀ w ∈ (s.group 0).w, w.2 = 0) ∧
    (s.core 0).glade.length + ((s.group 0).depositsOf 0 1 1 1).length ≤ 4096 := by decide
theorem witness_relaunch : let s := (reorderTeam (testState.updPath testPath fun _ => {})).updCore 0 fun c =>
      { c with glade := [{ team := teamKey 0 1, key := 0, payload := [0], prio := 0, replay := false }] }
    (s.team (teamKey 0 1)).reorder.isSome = true ∧ s.relaunchDue (teamKey 0 1) = true ∧ (s.relaunchPart (teamKey 0 1) 16).isSome = true := by decide
theorem witness_compact : (waiting .barwait .compact testState).compactReady (teamKey 0 1) = true := by decide
theorem witness_watchdog : let s := (testState.updTeam (teamKey 0 1) fun t => { t with idle := 2 ^ 32 })
    s.noProgress (teamKey 0 1) = true ∧ (∀ j ∈ s.teamGroups (teamKey 0 1), s.pendingFull j = false) := by
  refine ⟨?_, by decide⟩
  unfold State.noProgress
  simp only [Bool.and_eq_true, decide_eq_true_eq]
  exact ⟨by decide, le_clocks _ _⟩
/-- A flag that reads 0 ends a yield; a handler without frozen lanes ends. -/
theorem witness_yielded : ((waiting .yielded .nothing testState).path testPath).wait = .nothing ∧
    ((waiting .yielded .yield testState).path testPath).wait = .yield := by decide
theorem witness_handler_ends : let s := (testHandler testState).updPath ⟨1, 0⟩ fun _ => {}
    (s.group 0).hcap.any (fun h => !s.capValid h && !s.stillFrozen h && !s.rungFrozen h) = true ∧
    ((testHandler testState).group 0).hcap.any (fun h => (testHandler testState).capValid h && (testHandler testState).stillFrozen h) = true := by decide
theorem witness_group_retire : ((testState.updPath testPath fun _ => {}).groupSpent 0) = true ∧
    (testState.group 0).hcap = none ∧ ((testHandler (testState.updPath testPath fun _ => {})).groupSpent 0) = true ∧
    ((testHandler testState).group 0).hcap.isSome = true := by decide
theorem witness_operation : let o : Op := { id := 7, group := 0, gen := 0, flag := some 7 }
    let s : State := { testState with ops := [o], ev := { a := 7 } }
    s.ops.find? (fun o => o.id == s.ev.a) = some o ∧ o.done = false ∧ o.work = .nothing := by decide

/-- Page 1 of context 0 is writable too; queue 63 is the context's, enabled, with one packet at 0x60000. -/
def queueState (packet : List Byte) : State :=
  (((pagedState.setEntry 0x30008 0x6001F).updQueue 63 fun q => { q with ctl := 0x80000004, base := 0x60000, tail := 1 }).setBytes (.dev 0x60000) packet)
/-- A packet of one team of one group at entry 4, with its bitmap at 0. -/
def packetBytes : List Byte := [1, 0, 16, 0, 1, 0x11, 0, 0] ++ bytesOfNat 8 4 ++ List.replicate 112 0
/-- The bytes at the head of the queue. -/
def headOf (s : State) : List Byte := s.bytesAt (.dev ((s.queue 63).base.toNat + 128 * ((s.queue 63).head.toNat % 2 ^ fld (s.queue 63).ctl 4 0))) 128
theorem witness_packet : let s := queueState packetBytes
    s.host.stage ≠ 0 ∧ bit (s.queue 63).ctl 31 = true ∧ (s.queue 63).head ≠ (s.queue 63).tail ∧ (s.queue 63).grid = none ∧
    (s.checkPacket (fld (s.queue 63).ctx 11 0) (headOf s)).2.isSome = true ∧
    ((queueState []).checkPacket (fld (s.queue 63).ctx 11 0) (headOf (queueState []))).2 = none := by decide
theorem witness_placement : pagedState.host.stage ≠ 0 ∧ pagedState.host.throt = false ∧
    (pagedState.updHost fun h => { h with throt := true }).host.throt = true := by decide
/-- A grid of one team, which is placed. -/
def placedState (sdsize : Nat) : State :=
  ({ pagedState with grids := tput [] 0 { ctx := 0, queue := 63, no := 0, prio := 0, packet := { sdsize := sdsize, sdaddr := 8 } } } : State).updTeam
    (teamKey 0 1) fun t => { t with stage := .placed, grid := 0 }
theorem witness_team_start : ((placedState 0).team (teamKey 0 1)).stage = .placed ∧ (((placedState 0).grid? 0).map (·.packet.sdsize)) = some 0 ∧
    (((placedState 16).grid? 0).map (·.packet.sdsize)) = some 16 ∧ ((placedState 16).distRead 0 8 16).2.isSome = true ∧
    ((placedState 16).distRead 0 0x7FFFFFFFFFFFFF 16).2 = none := by decide
theorem witness_grid_complete : (((placedState 0).updGrid 0 fun g => { g with exited := 1 }).grid? 0).map
    (fun g => !g.complete && decide (g.packet.teams ≤ g.exited + g.failed)) = some true := by decide
/-- A pre-emption waits for the team. -/
def savingState (m : Nat) : State :=
  testState.updCtx 0 fun c => { c with saveArea := some (0, 0x10000000), saving := some { waiting := [(teamKey 0 1, m)] } }
theorem witness_team_save : let held := (savingState 2).holdTeam (teamKey 0 1)
    (held.ctx 0).saving = some { waiting := [(teamKey 0 1, 2)] } ∧ (held.team (teamKey 0 1)).onCore = true ∧
    held.canTakeOff { waiting := [(teamKey 0 1, 2)] } (teamKey 0 1) = true ∧
    (savingState 2).canTakeOff { waiting := [(teamKey 0 1, 2)] } (teamKey 0 1) = false ∧
    ((savingState 1).updGroup 0 fun g => { g with w := [(0, 63)] }).canTakeOff { waiting := [(teamKey 0 1, 1)] } (teamKey 0 1) = false := by decide
/-- The area has just the room for the image. -/
theorem witness_image_fits : let held := (savingState 2).holdTeam (teamKey 0 1)
    let s := held.updCtx 0 fun c => { c with saveArea := some (0, 65536 + held.imageSize (teamKey 0 1)) }
    (s.ctx 0).saveArea = some (0, 65536 + held.imageSize (teamKey 0 1)) ∧ 65536 + s.imageSize (teamKey 0 1) ≤ 65536 + held.imageSize (teamKey 0 1) :=
  ⟨rfl, Nat.le_refl _⟩
/-- The area ends with its directory: the image does not fit. -/
theorem witness_image_too_large : let s := ((savingState 2).updCtx 0 fun c => { c with saveArea := some (0, 65536) }).holdTeam (teamKey 0 1)
    s.canTakeOff { waiting := [(teamKey 0 1, 2)] } (teamKey 0 1) = true ∧ (s.ctx 0).saveArea = some (0, 65536) ∧
    65536 < 65536 + s.imageSize (teamKey 0 1) := by
  intro s
  refine ⟨by decide, by decide, ?_⟩
  have h : 0 < s.pieces (teamKey 0 1) := by decide
  simp only [State.imageSize]
  omega
theorem witness_drain : let s := (savingState 0).updTeam (teamKey 0 1) fun t => { t with drain := some (2 * 2 ^ 20) }
    (s.team (teamKey 0 1)).drain = some (2 * 2 ^ 20) ∧ (s.ctx 0).saving.isSome = true ∧ fld (s.core 0).preth 5 0 = 20 ∧
    2 * 2 ^ fld (s.core 0).preth 5 0 ≤ clocks 0 (2 * 2 ^ 20) := ⟨rfl, by decide, by decide, le_clocks _ _⟩
theorem witness_destruction : let s := (withObject.setObj 0 65535 {}).updCtx 0 fun c => { c with ranges := [(4, 1, 65535)] }
    (∃ r ∈ (s.ctx 0).ranges, r.2.2 = 65535) ∧ (s.obj 0 65535).alive = false ∧ s.objQuiet 0 65535 = true := by decide
theorem witness_reclaim : pagedState.poolFree < 16 * fld pagedState.poolmark 15 0 := by decide
theorem witness_tlb_walk : pagedState.cached { ctx := 0, core := some 95 } (BitVec.ofNat 64 0) = none ∧
    pagedState.walk 0 (BitVec.ofNat 64 0) = .leaf 0x5001F#64 0x30000 false := ⟨rfl, by decide⟩
theorem witness_copy_on_write : let s : State := { pagedState.setEntry 0x30000 0x5801F with pool := [(9, 1)] }
    let s := s.updPath testPath fun p => { p with held := 19, wants := [(0, 0)] }
    s.walk 0 (BitVec.ofNat 64 0) = .leaf 0x5801F#64 0x30000 false ∧ leafCw 0x5801F#64 = true ∧ leafW 0x5801F#64 = true ∧ s.copyWanted 0 0 = true ∧
    (s.copyOnWrite 0 { ctx := 0, page := 0, leaf := 0x5801F#64, slot := 0x30000, large := false }).isSome = true := by decide
theorem witness_sample : let s : State := { testState.updCore 0 fun c => { c with profcfg := 0x80000A06 } with clock := 64 }
    s.sampleDue 0 = true ∧ s.sampleSlot 0 = some 0 := by
  refine ⟨?_, by decide⟩
  unfold State.sampleDue
  simp only [Bool.and_eq_true, decide_eq_true_eq]
  exact ⟨by decide, le_clocks _ _⟩
theorem witness_reverse_step : let y : Replay := { team := teamKey 0 1, gid := 0, lanes := 1, targets := [(0, 0)], origs := [(0, 1)], digests := [] }
    let s := testState.updCtx 0 fun c => { c with rstep := some y }
    (s.ctx (teamKey 0 1 / 4194304)).rstep = some y ∧ y.running = true ∧ y.team = teamKey 0 1 ∧ s.replayGroup y = some 0 ∧
    y.reached (s.group 0) y.targets = true := by decide

/-- The path stands frozen by a stop of a cause. -/
def stopped (c : Cause) (s : State) : State :=
  (s.updPath testPath fun p => { p with state := .frozen, freezer := .stop }).onLanes 0 (List.range 32) fun _ ln => { ln with cause := some c }
/-- A handler kernel that fits. -/
def kernel4 : HKernel := { entry := 4, regs := 32, scratch := 0, tiles := 0 }
/-- The stop stands at the end of its core's pending queue. -/
def enqueued (s : State) : State := s.updCore 0 fun c => { c with pending := [(0, 0)] }
theorem witness_handler_spawn : let s := (stopped .trap testState).updCtx 0 fun c => { c with handlers := [((stopped .trap testState).group 0 |>.summary 0xFFFFFFFF, kernel4)] }
    (enqueued s).nextPending 0 = some (0, 0) ∧ s.isStop 0 0 = true ∧ s.needsSlot 0 0 = true ∧ (s.ctx 0).escal = none ∧
    (s.group 0).summary 0xFFFFFFFF ≠ 15 ∧ bit (s.ctx 0).fltcfg 0 = false ∧ kernel4.fits = true ∧ (s.group 0).isHandler = false ∧
    s.freeHandler 0 = some 0 ∧ (s.ctx 0).handler ((s.group 0).summary 0xFFFFFFFF) = some kernel4 := by decide
/-- Its four slots are taken: the stop waits. -/
def slotsTaken : State :=
  (List.range 4).foldl (fun (s : State) i => s.setGroup (handlerKey 0 i) { used := true })
    ((stopped .trap testState).updCtx 0 fun c => { c with handlers := [(31, kernel4)] })
theorem witness_pending_stop : let s := slotsTaken
    s.isStop 0 0 = true ∧ s.needsSlot 0 0 = true ∧ (enqueued s).nextPending 0 = none := by decide
/-- The ladder's first entry that is not empty is rung 3. -/
theorem witness_ladder : let s := (stopped .trap testState).updCtx 0 fun c => { c with fltcfg := 1, handlers := [(27, kernel4)] }
    let u := s.freezeRung 0 0
    let v := u.freezeRung 0 0
    (s.ctx 0).rungFrom 0 = some (3, kernel4) ∧ s.isStop 0 0 = true ∧ s.needsSlot 0 0 = true ∧ (enqueued u).nextPending 0 = some (0, 0) ∧
    u.isStop 0 0 = true ∧ v.framesFull 0 = false ∧ (u.ctx 0).escal = none ∧ (u.group 0).summary ((u.group 0).path 0).mask ≠ 15 ∧
    bit (u.ctx 0).fltcfg 0 = true ∧ (u.ctx 0).rungFrom ((u.group 0).path 0).rung = some (3, kernel4) ∧ v.freeHandler 0 = some 0 := by decide
theorem witness_no_handler : let s := stopped .trap testState
    s.isStop 0 0 = true ∧ (s.group 0).summary 0xFFFFFFFF ≠ 15 ∧ (s.group 0).summary 0xFFFFFFFF ≠ 12 ∧ (s.group 0).summary 0xFFFFFFFF ≠ 14 ∧
    (s.ctx 0).handler ((s.group 0).summary 0xFFFFFFFF) = none ∧ (s.ctx 0).handler 31 = none ∧ (s.group 0).hcap = none ∧ (s.group 0).used = true ∧
    (s.path testPath).state = .frozen := by decide
theorem witness_escalation_timeout : ((testState.updCtx 0 fun c => { c with escal := some { elapsed := 2 ^ 32 } }).ctx 0).escal.isSome = true ∧
    (2 : Nat) ^ 32 ≤ clocks 96 (2 ^ 32) := ⟨rfl, le_clocks _ _⟩
theorem witness_rung : let s := (testHandler testState).updCtx 0 fun c => { c with fltcfg := 0x00A00000 }
    let s := s.updGroup 0 fun g => { g with hcap := g.hcap.map fun h => { h with rung := 3, elapsed := 1024 } }
    ((s.group 0).hcap.map (·.rung)) = some 3 ∧ fld (s.ctx 0).fltcfg (7 + 6 * 3) (2 + 6 * 3) = 10 ∧ 2 ^ 10 ≤ clocks 0 1024 ∧
    ((s.group 0).hcap.bind s.heldEntry) = some (1, 0) ∧
    (let v := ((s.withNested 8 [0]).foldl State.endHandler s).updPath ⟨1, 0⟩ fun p => { p with rung := 4 }
     (v.ctx 0).rungFrom 4 = none ∧ (v.group 1).ctx = 0 ∧ ((v.group 1).path 0).rung = 4) := ⟨by decide, by decide, le_clocks _ _, by decide, by decide⟩
/-- A rung that times out with another above it. -/
theorem witness_next_rung : let s := (testHandler testState).updCtx 0 fun c => { c with handlers := [(27, kernel4)] }
    let v := ((s.withNested 8 [0]).foldl State.endHandler s).updPath ⟨1, 0⟩ fun p => { p with rung := 1 }
    (v.ctx 0).rungFrom 1 ≠ none := by decide
/-- The log is on, and the team's window 1 is open, with its snapshot. -/
def windowState (s : State) : State :=
  (s.updCtx 0 fun c =>
    { ({ c with logEn := true, logcfg := 0x80000010 } : Ctx).openWindow 1 1 with snaps := [s.image 1 (teamKey 0 1)] }).updTeam (teamKey 0 1)
      fun t => { t with logwin := 1 }
theorem witness_containment : let s := stopped .poison testState
    s.isStop 0 0 = true ∧ (s.group 0).summary (s.path testPath).mask = 12 ∧ s.teamWindow (s.group 0).team = none ∧
    s.ctxWindow (s.team (s.group 0).team).ctx = none ∧ (s.team (teamKey 0 1)).onCore = true := by decide
theorem witness_rewinding_containment : let s := windowState (stopped .poison testState)
    s.teamWindow (teamKey 0 1) = some 1 ∧ (match ((s.dropStops (teamKey 0 1)).rewind 0 (some (teamKey 0 1)) none 1 true).2 with
      | some w => fld w 7 0 == 0 || fld w 7 0 == 7
      | none => false) = true := by decide
/-- A window that is no longer in the log: the rewind is refused. -/
theorem witness_refused_containment : let s := (windowState (stopped .poison testState)).updCtx 0 fun c => { c with snaps := [] }
    s.teamWindow (teamKey 0 1) = some 1 ∧ (match ((s.dropStops (teamKey 0 1)).rewind 0 (some (teamKey 0 1)) none 1 true).2 with
      | some w => fld w 7 0 != 0 && fld w 7 0 != 7
      | none => false) = true ∧ (s.unsuspend (s.teamGroups (teamKey 0 1)) .rewind).ctxWindow 0 = none := by decide
theorem witness_matrix_reset : let s := testState.updTeam (teamKey 0 1) fun t => { t with tF := 0x8000, tV := 0x8000 }
    let o : Op := { id := 7, group := 0, gen := 0, flag := none, matrix := 1, since := 0 }
    (s.teams.filter fun x => x.2.onCore && x.2.core / 2 == 0 && x.2.tF != 0).map (·.1) = [teamKey 0 1] ∧ s.ops = [] ∧
    o.matrix ≠ 0 ∧ o.done = false ∧ 2 ^ 24 ≤ clocks (coreOf o.group) (2 ^ 24 - o.since) ∧ coreOf o.group / 2 = 0 :=
  ⟨by decide, by decide, by decide, rfl, le_clocks _ _, by decide⟩

theorem witness_stages : State.reset.host.stage = 0 ∧ State.reset.host.booted = false ∧ State.reset.host.fail = 0 ∧
    (testState.updHost fun h => { h with stage := 1 }).host.stage = 1 := by decide
theorem witness_governor : (2400 : Nat) ≥ 2400 ∧ (2299 : Nat) < 2300 ∧ (104 : Nat) < 105 ∧ State.reset.host.mhz ≠ 1000 ∧ State.reset.host.cool < 9 ∧
    9 ≤ (State.reset.updHost fun h => { h with cool := 9 }).host.cool ∧
    (let h := (State.reset.updHost fun h => { h with mhz := 1000, hot := 9 }).host
     h.mhz = 1000 ∧ 9 ≤ h.hot ∧ h.throt = false) ∧ 10 ≤ (State.reset.updHost fun h => { h with hot := 10 }).host.hot := by decide
theorem witness_heat : (115 : Nat) ≤ 115 ∧ (105 : Nat) ≤ 114 ∧ (114 : Nat) < 115 := by decide
theorem witness_errors : (pagedState.setEntry 0x30000 0x5201F).draftRead 0 5 0 = true ∧ (127 : Nat) < 128 := by decide
theorem witness_host_write : pagedState.host.stage ≥ 2 ∧ pagedState.frameUsable ((deviceFrames * 65536 - 1) / 65536) = true ∧
    tget false pagedState.sealed 0 = false := by decide

/-! Frames and the invariant. -/
theorem witness_frame : Issuing (testMode launchMode) testPath := (quiet_testMode launchMode).issuing
theorem witness_sound : State.reset.Sound := by
  refine ⟨?_, ?_, ?_, ?_, ?_, ?_⟩ <;> decide

/-! Results that the spec prints, or that follow from its numbers. -/

/-- A register of a lane after a word. -/
def vAfter (w : Word) (l n : Nat) (s : State) : Option Word :=
  match exec (decodeWord w) s with | .next t => some (((t.group 0).lane l).reg n) | _ => none
/-- FPSTAT of a lane after a word. -/
def flagsAfter (w : Word) (l : Nat) (s : State) : Option (BitVec 5) :=
  match exec (decodeWord w) s with | .next t => some ((t.group 0).lane l).fpstat | _ => none
/-- A uniform register after a word. -/
def sAfter (w : Word) (n : Nat) (s : State) : Option Word :=
  match exec (decodeWord w) s with | .next t => some ((t.group 0).sreg n) | _ => none
/-- ETYPE f32 with no guard. -/
def f32State : State := testMode 0xC080

/-- "`cvt v6, v5, b8p4s` … With v5 = 1.1 it writes 0x0000_0041 … and raises NX." -/
theorem test_cvt : vAfter 0x500605C8 0 6 (withV 0 5 0x3F8CCCCD (oneLane f32State)) = some 0x41#32 ∧
    flagsAfter 0x500605C8 0 (withV 0 5 0x3F8CCCCD (oneLane f32State)) = some 0x10#5 := by decide
/-- "With v5 = 300.0 it writes 0x0000_007F (240) and raises OF and NX." -/
theorem test_cvt_saturates : vAfter 0x500605C8 0 6 (withV 0 5 0x43960000 (oneLane f32State)) = some 0x7F#32 := by decide
/-- "With s12 = 0x0000_81C8 and byte 0 of v6 = 0x41, it writes 2.25 to v8." -/
theorem test_deq : vAfter 0x5208068C 0 8 (withS [(12, 0x81C8)] (withV 0 6 0x41 (oneLane (testMode 0xC070)))) = some 0x40100000#32 := by decide
/-- "Under ETYPE f32, with v6 = 0x8079_3841, it writes …" -/
theorem test_unpk : let s := withV 0 6 0x80793841 (oneLane f32State)
    [8, 9, 10, 11].map (fun n => vAfter 0x540806C8 0 n s) = [some 0x3F900000#32, some 0x3F000000#32, some 0x43100000#32, some 0x7FC00000#32] := by decide
/-- R315's first case, for lanes 0, 15 and 16. -/
theorem test_quant : let s := withS [(12, 0x1C8)] (f32State.onLanes 0 (List.range 32) fun l ln =>
      ln.setReg 4 (if l = 0 then 0x43960000 else if l < 16 then 0x3F800000 else 0))
    [0, 15, 16].map (fun l => vAfter 0x5108048C l 8 s) = [some 0x8179#32, some 0x8138#32, some 0x8000#32] := by decide
/-- "v9 = 0x0000_DA8B in every active lane" -/
theorem test_rngdrop : vAfter 0x5D090687 0 9 (withS [(7, 0x8000)] ((oneLane f32State).updGroup 0 fun g => { g with seed := [(0, 1)] })) =
    some 0xDA8B#32 := by decide
/-- A sum wraps. -/
theorem test_sadd_wraps : sAfter 0x14818283 1 (withS [(2, 0xFFFFFFFF), (3, 2)] testState) = some 1#32 := by decide
/-- The digest of "abc", which FIPS 180-4 gives as its first example. -/
theorem test_sha256 : beNat (sha256 [0x61, 0x62, 0x63]) = 0xba7816bf8f01cfea414140de5dae2223b00361a396177a9cb410ff61f20015ad := by
  decide +kernel
/-- Twice the base point of P-256. -/
theorem test_curve : basePoint.plus basePoint =
    some (0x7CF27B188D034F7E8A52380304B51AC3C08969E277F21B35A60B48FC47669978,
          0x07775510DB8ED040293D9AC69F7430DBBA7DADE63CE982299E04B79D227873D1) := by decide +kernel

end Sys2Proof.Machine
end

section
/-! What a lane's load lands (R114, R124, R304), and what a path sees of memory while writes are in progress (R141). -/

namespace Sys2Proof.Machine

/-! Runs of bytes, little-endian (R4). -/

theorem natOfBytes_append (bs cs : List Byte) :
    natOfBytes (bs ++ cs) = natOfBytes bs + 2 ^ (8 * bs.length) * natOfBytes cs := by
  induction bs with
  | nil => simp [natOfBytes]
  | cons b bs ih =>
    have e : 2 ^ (8 * (bs.length + 1)) = 256 * 2 ^ (8 * bs.length) := by rw [Nat.mul_add, Nat.pow_add]; omega
    simp only [List.cons_append, natOfBytes, ih, List.length_cons, e]
    rw [Nat.mul_add, Nat.mul_assoc, Nat.add_assoc]

/-- Bytes written side by side, the lowest last, make the number of their list. -/
theorem toNat_append_byte {n : Nat} {x : BitVec n} {bs : List Byte} (b : Byte) (h : x.toNat = natOfBytes bs) :
    (x ++ b).toNat = natOfBytes (b :: bs) := by
  rw [BitVec.toNat_append, ← Nat.shiftLeft_add_eq_or_of_lt b.isLt, Nat.shiftLeft_eq, h, natOfBytes]
  omega

theorem toNat_byte (b : Byte) : b.toNat = natOfBytes [b] := by simp [natOfBytes]

@[simp] theorem length_bytesAt (s : State) (l : Loc) (n : Nat) : (s.bytesAt l n).length = n := by simp [State.bytesAt]

theorem bytesAt_add (s : State) (l : Loc) (m n : Nat) : s.bytesAt l (m + n) = s.bytesAt l m ++ s.bytesAt (l.plus m) n := by
  simp [State.bytesAt, List.range_add, plus_plus]

theorem numAt_lt (s : State) (l : Loc) (n : Nat) : s.numAt l n < 2 ^ (8 * n) := by
  simpa [State.numAt] using natOfBytes_lt (s.bytesAt l n)

theorem numAt_add (s : State) (l : Loc) (m n : Nat) : s.numAt l (m + n) = s.numAt l m + 2 ^ (8 * m) * s.numAt (l.plus m) n := by
  simp [State.numAt, bytesAt_add, natOfBytes_append]

/-- The lower bytes of a run. -/
theorem numAt_mod (s : State) (l : Loc) (m n : Nat) : s.numAt l (m + n) % 2 ^ (8 * m) = s.numAt l m := by
  rw [numAt_add, Nat.add_mul_mod_self_left, Nat.mod_eq_of_lt (numAt_lt s l m)]

/-- The upper bytes of a run. -/
theorem numAt_div (s : State) (l : Loc) (m n : Nat) : s.numAt l (m + n) / 2 ^ (8 * m) = s.numAt (l.plus m) n := by
  rw [numAt_add, Nat.add_mul_div_left _ _ (Nat.two_pow_pos _), Nat.div_eq_of_lt (numAt_lt s l m), Nat.zero_add]

theorem numAt_one (s : State) (l : Loc) : s.numAt l 1 = (s.byteAt (l.plus 0)).toNat := by
  simp [State.numAt, State.bytesAt, natOfBytes]

theorem numAt_two (s : State) (l : Loc) : s.numAt l 2 = (s.byteAt (l.plus 1) ++ s.byteAt (l.plus 0)).toNat :=
  (toNat_append_byte _ (toNat_byte _)).symm

/-- The four bytes that stand `i` bytes past a place, as a word. -/
def State.wordFrom (s : State) (l : Loc) (i : Nat) : Word :=
  s.byteAt (l.plus (i + 3)) ++ s.byteAt (l.plus (i + 2)) ++ s.byteAt (l.plus (i + 1)) ++ s.byteAt (l.plus i)

theorem numAt_four (s : State) (l : Loc) (i : Nat) : s.numAt (l.plus i) 4 = (s.wordFrom l i).toNat := by
  have h := toNat_append_byte (s.byteAt (l.plus i)) (toNat_append_byte (s.byteAt (l.plus (i + 1)))
    (toNat_append_byte (s.byteAt (l.plus (i + 2))) (toNat_byte (s.byteAt (l.plus (i + 3))))))
  simpa [State.numAt, State.bytesAt, State.wordFrom, List.range_succ, plus_plus] using h.symm

/-- A run that holds the four bytes `4 i` past its start holds their word there. -/
theorem ofNat_numAt_div (s : State) (l : Loc) {i n : Nat} (h : 4 * i + 4 ≤ n) :
    BitVec.ofNat 32 (s.numAt l n / 2 ^ (32 * i)) = s.wordFrom l (4 * i) := by
  obtain ⟨k, rfl⟩ := Nat.exists_eq_add_of_le h
  have hd : s.numAt l (4 * i + (4 + k)) / 2 ^ (32 * i) = s.numAt (l.plus (4 * i)) (4 + k) := by
    simpa [← Nat.mul_assoc] using numAt_div s l (4 * i) (4 + k)
  refine BitVec.eq_of_toNat_eq ?_
  rw [Nat.add_assoc, hd, BitVec.toNat_ofNat, numAt_mod s _ 4 k, numAt_four]

/-! The words of a loaded value. -/

theorem signedOf_toNat {n : Nat} (x : BitVec n) : signedOf n x.toNat = x.toInt := by
  rw [signedOf, Nat.mod_eq_of_lt x.isLt, BitVec.toInt_eq_toNat_cond]
  cases n with
  | zero => simp [BitVec.eq_nil x]
  | succ n =>
    have hhalf : x.toNat < 2 ^ n ↔ 2 * x.toNat < 2 ^ (n + 1) := by rw [Nat.pow_succ]; omega
    simp [hhalf]

theorem loadWords_narrow {n : Nat} (hn : n ≤ 4) (sext : Bool) (x : BitVec (8 * n)) :
    loadWords n sext x.toNat = [if sext then x.signExtend 32 else x.setWidth 32] := by
  rw [loadWords, if_pos hn]
  cases sext with
  | false => simp
  | true => simp [signedOf_toNat, BitVec.signExtend]

theorem loadWords_wide {n : Nat} (hn : 4 < n) (sext : Bool) (s : State) (l : Loc) :
    loadWords n sext (s.numAt l n) = (List.range (n / 4)).map fun i => s.wordFrom l (4 * i) := by
  rw [loadWords, if_neg (by omega)]
  refine List.map_congr_left fun i hi => ofNat_numAt_div s l ?_
  have := List.mem_range.1 hi
  omega

/-! What a lane's load lands. -/

theorem valid_eq (l : Loc) : l.valid = decide (l ≠ .lost ∧ l ≠ .gone) := by cases l <;> simp [Loc.valid]

/-- Up to four bytes land in one register, extended. -/
theorem loadDests_narrow {s : State} {n : Nat} (hn : n ≤ 4) (sext : Bool) (d l : Nat) {loc : Loc} {x : BitVec (8 * n)}
    (hx : s.numAt loc n = x.toNat) :
    loadDests s n sext d l loc = [.vreg l (d + 0) (if sext then x.signExtend 32 else x.setWidth 32) (s.poisoned loc n),
      .pred l 7 (decide (loc ≠ .lost ∧ loc ≠ .gone)) false] := by
  rw [loadDests, hx, loadWords_narrow hn, valid_eq]
  rfl

/-- More bytes land in a register for every four of them. -/
theorem loadDests_wide {s : State} {n : Nat} (hn : 4 < n) (sext : Bool) (d l : Nat) (loc : Loc) :
    loadDests s n sext d l loc =
      ((List.range (n / 4)).map fun i => .vreg l (d + i) (s.wordFrom loc (4 * i)) (s.poisoned loc n)) ++
        [.pred l 7 (decide (loc ≠ .lost ∧ loc ≠ .gone)) false] := by
  rw [loadDests, loadWords_wide hn, valid_eq, List.length_map, List.length_range]
  congr 1
  refine List.map_congr_left fun i hi => ?_
  simp [wordAt, List.mem_range.1 hi]

/-! What a path sees of memory. -/

/-- A byte outside the accumulator windows is as before a write of bytes, or one of those written. -/
theorem byteAt_setBytes_cases {s : State} (l x : Loc) (bs : List Byte) (po : Bool) (h : BytesOk s) (hx : x.NoAcc) :
    (s.setBytes l bs po).byteAt x = s.byteAt x ∨
      ∃ i, i < bs.length ∧ l.plus i = x ∧ (s.setBytes l bs po).byteAt x = bs.getD i 0 := by
  by_cases hin : ∃ i, i < bs.length ∧ l.plus i = x
  · obtain ⟨i, hi, rfl⟩ := hin
    by_cases hl : l.Plain
    · exact .inr ⟨i, hi, rfl, byteAt_setBytes_same bs l po h hl i hi⟩
    · have hg : l.plus i = .lost ∨ l.plus i = .gone := by
        cases l <;> simp_all [Loc.Plain, Loc.NoAcc, Loc.plus]
      exact .inl (byteAt_setBytes_other bs l _ po h hx (hg.imp_right .inl))
  · exact .inl (byteAt_setBytes_other bs l x po h hx (.inr (.inr fun i hi e => hin ⟨i, hi, e⟩)))

/-- The same where the old bytes of several shadows are laid over memory: the byte is one of those of the last shadow that holds it. -/
theorem byteAt_overlay_cases (ys : List Shadow) {s : State} (x : Loc) (h : BytesOk s) (hx : x.NoAcc) :
    let t := ys.foldl (fun (t : State) y => t.setBytes y.loc y.old) s
    t.byteAt x = s.byteAt x ∨ ∃ y ∈ ys, ∃ i, i < y.old.length ∧ y.loc.plus i = x ∧ t.byteAt x = y.old.getD i 0 := by
  induction ys generalizing s with
  | nil => exact .inl rfl
  | cons y ys ih =>
    rcases ih (bytesOk_setBytes y.old y.loc false h) with he | ⟨z, hz, hi⟩
    · rcases byteAt_setBytes_cases y.loc x y.old false h hx with hs | ⟨i, hi, hp, hs⟩
      · exact .inl (he.trans hs)
      · exact .inr ⟨y, List.mem_cons_self, i, hi, hp, he.trans hs⟩
    · exact .inr ⟨z, List.mem_cons_of_mem y hz, hi⟩

theorem mem_behind_of_mem_stale {s : State} {r : PathRef} {y : Shadow} (h : y ∈ s.stale r) : y ∈ s.behind r :=
  (List.mem_filter.1 h).1

/-- A path reads a byte of memory, or one that stood there before a write that it has not seen (R135, R141). -/
theorem byteAt_view_cases {s : State} (r : PathRef) (x : Loc) (h : BytesOk s) (hx : x.NoAcc) :
    (s.view r).byteAt x = s.byteAt x ∨
      ∃ y ∈ s.behind r, ∃ i, i < y.old.length ∧ y.loc.plus i = x ∧ (s.view r).byteAt x = y.old.getD i 0 :=
  (byteAt_overlay_cases (s.stale r) x h hx).imp_right fun ⟨y, hy, hi⟩ => ⟨y, mem_behind_of_mem_stale hy, hi⟩

theorem bytesOk_of_memoryOk {s : State} (h : s.memoryOk = true) (hp : ∀ k, twf 0#8 (s.team k).pad = true) : BytesOk s := by
  obtain ⟨hm, hh⟩ := Bool.and_eq_true_iff.1 h
  exact ⟨hm, hh, hp⟩

/-- Settles O30: the words by the little-endian value of the bytes, what a path sees by induction over the shadows of the writes it has not seen. -/
theorem loadedValues : Obligations.LoadedValues := by
  unfold Obligations.LoadedValues
  intro s d l loc sext
  have hfour : s.numAt loc 4 = (s.wordFrom loc 0).toNat := by simpa using numAt_four s loc 0
  refine ⟨loadDests_narrow (n := 1) (by omega) sext d l (numAt_one s loc), loadDests_narrow (n := 2) (by omega) sext d l (numAt_two s loc),
    ?_, loadDests_wide (by omega) sext d l loc, loadDests_wide (by omega) sext d l loc, fun r => ⟨view_current, fun hm hp x hx => ?_⟩⟩
  · rw [loadDests_narrow (n := 4) (by omega) sext d l hfour]
    simp [State.wordFrom, State.poisoned]
  · exact byteAt_view_cases r x (bytesOk_of_memoryOk hm hp) hx

end Sys2Proof.Machine
end

section
/-! MWAIT arms the lines that its lanes name and parks (R153, R310); PREF fills the lines of the lanes whose address step succeeds
(R314); FENCE is issued as an operation of its kinds and scope (R140, R152). -/

namespace Sys2Proof.Machine

/-! The registers that MWAIT and PREF name. -/

/-- A pair of vector registers is not uniform. -/
theorem isS_of_vPair {g : Group} {x : BitVec 8} (h : isVPair g x = true) : isS x = false := by
  simp only [isVPair, isRun, Bool.and_eq_true, decide_eq_true_eq] at h
  obtain ⟨⟨hlow, -⟩, -⟩ := h
  simpa [isS] using hlow

theorem reads2_vPair {g : Group} {x : BitVec 8} (h : isVPair g x = true) : readsRun x 2 = { vr := [x.toNat, x.toNat + 1] } := by
  simp [readsRun, isS_of_vPair h, List.range_succ]

/-- A word that reads nothing finds no poison. -/
@[simp] theorem poison_of_only_writes (vw pw sw : List Nat) (g : Group) (ln : Lane) :
    ({ vw := vw, pw := pw, sw := sw } : Uses).poison g ln = false := rfl

/-- Where no lane has a cause, none stops, and every one passes. -/
theorem all_pass {ls : List Nat} {cause : Nat → Option Cause} (h : ∀ l ∈ ls, cause l = none) :
    (ls.filterMap fun l => (cause l).map fun x => ({ lane := l, cause := x } : Stop)) = [] ∧
      ls.filter (fun l => (cause l).isNone) = ls := by
  constructor
  · rw [List.filterMap_eq_nil_iff]
    intro l hl
    simp [h l hl]
  · rw [List.filter_eq_self]
    intro l hl
    simp [h l hl]

/-! MWAIT. -/

/-- MWAIT, where the address step succeeds in every active lane: it reads the words, then its path waits on their lines, or goes on
where no lane is active. -/
theorem mwaitOp_ok {s t : State} {r : PathRef} {a b : BitVec 8} {locs : List (Nat × Loc)}
    (ha : isVPair (s.group r.group) a = true) (hb : isS b = true) (hm : mMord (s.path r).mode ≠ 4)
    (h : Ready s r ((readsRun a 2).and (readsRun b 1)))
    (hr : Reaches s r .mwait 4 (fun l => laneAddr (s.group r.group) (s.path r) ((s.group r.group).lane l) a (.reg b)) t locs) :
    mwaitOp a b s = .next (wentBy t r
      (fun p => if locs.isEmpty then p.advance else p.park .barwait (.monitor (locs.filterMap fun e => e.2.line)))
      (t.readBy r (s.path r).mode 4 (locs.map (·.2)))) :=
  memOp_ok h (fun g p => { field := isVPair g a && isS b, mode := mMord p.mode != 4, uses := (readsRun a 2).and (readsRun b 1) })
    .mwait (fun _ => 4) (fun g p ln => laneAddr g p ln a (.reg b)) _ _ locs
    (by simp [ha, hb]) (by simpa using hm) (fun _ hz => hz) (fun _ _ hp => hp) (fun _ _ => rfl) hr

/-! PREF. -/

/-- PREF, where neither its guard nor a register that it names is pending: the address step of each active lane is taken, one that
fails leaving the lane out, and the operation is issued whatever they answer. -/
theorem prefOp_ok {s : State} {r : PathRef} {d a b : BitVec 8} (hi : Issuing s r) (hd : d.toNat ≤ 1)
    (ha : isVPair (s.group r.group) a = true) (hb : isS b = true)
    (hg : ∀ l ∈ lanesOf (s.path r).mask, (s.path r).guardPending ((s.group r.group).lane l) = false)
    (hz : ∀ l ∈ s.active r, ({ vw := [a.toNat, a.toNat + 1], sw := [sNum b], pw := [mGuard (s.path r).mode] } : Uses).hazard
      (s.group r.group) ((s.group r.group).lane l) = false) :
    prefOp d a b s = .next (went s r (
      let u := (s.active r).foldl (fun u l => (u.access ((u.group r.group).agent r.group (some l)) (if d = 1#8 then .load else .pref) 1
        (laneAddr (s.group r.group) (s.path r) ((s.group r.group).lane l) a (.reg b))).1) s
      if (s.active r).isEmpty then u.issueEmpty r ((s.path r).flagFor .nonReturning)
      else u.issueOp r ((s.path r).flagFor .nonReturning) [] (lane := (s.path r).lowLane))) := by
  have hc : ∀ l ∈ s.active r, ({
      field := d.toNat ≤ 1 && isVPair (s.group r.group) a && isS b,
      uses := { vw := [a.toNat, a.toNat + 1], sw := [sNum b], pw := [mGuard (s.path r).mode] } } : Checks).cause
      (s.group r.group) l ((s.group r.group).lane l) = none := fun l hl =>
    cause_none (by simp [hd, ha, hb]) rfl (hz l hl) (poison_of_only_writes _ _ _ _ _) rfl
  obtain ⟨hstops, hok⟩ := all_pass hc
  have hiss : ((s.active r).isEmpty || !(s.active r).isEmpty) = true := Bool.or_not_self _
  simp only [prefOp, issuing_of hi, applied_eq_active hg, reads2_vPair ha, reads1 hb, hstops, hok, hiss, conclude_none hi.lanes, went]

/-- PREF asks for the L1 too where its one bit is set (R314). -/
theorem setWidth_bit_eq_one (h : BitVec 1) : h.setWidth 8 = 1#8 ↔ h = 1#1 := by decide +revert

theorem setWidth_bit_le_one (h : BitVec 1) : (h.setWidth 8).toNat ≤ 1 := by decide +revert

/-! FENCE. -/

/-- Below device scope a fence leaves the memory-side operations, bit 2 of its mask, out of its kinds (R140). -/
theorem fenceKinds_eq (k sc : Nat) : fenceKinds k sc = if sc < 3 ∧ k / 4 % 2 = 1 then k - 4 else k := by
  unfold fenceKinds
  have hbit : k / 4 % 2 = 0 ∨ k / 4 % 2 = 1 := by omega
  rcases hbit with h | h <;> simp [h]

/-- A fence acquires under MORD 1 and 3; it does not take MORD 4. -/
theorem acquires_iff {m : Word} (h : mMord m ≠ 4) : acquires m = true ↔ mMord m = 1 ∨ mMord m = 3 := by
  simp [acquires, h]

/-- FENCE with a kind to order, and an order that it takes, is issued whatever its guard. -/
theorem fenceOp_ok {s : State} {r : PathRef} {k : BitVec 5} (hi : Issuing s r) (hk : k ≠ 0#5) (hm : mMord (s.path r).mode ≠ 4) :
    fenceOp k s = .next (went s r (
      let p := s.path r
      let sc := mScope p.mode
      let u := if mMord p.mode = 1 ∨ mMord p.mode = 3 then
        (if 2 ≤ sc then (s.seeWithin r sc).l1Discard (coreOf r.group) else s.seeWithin r sc) else s
      let t := u.issueOp r (p.flagFor .nonReturning) [] (work := .fence (fenceKinds k.toNat sc) sc) (lane := p.lowLane)
      if mMord p.mode = 2 ∨ mMord p.mode = 3 then (t.release r.group sc none).updPath r fun q => { q with relFence := some sc } else t)) := by
  have hc : passes (fun _ p => { field := k != 0, mode := mMord p.mode != 4 }) s r :=
    cause_none (by simpa using hk) (by simpa using hm) rfl rfl rfl
  rw [fenceOp, uniformOp_ok hi _ _ hc]
  by_cases hq : mMord (s.path r).mode = 1 ∨ mMord (s.path r).mode = 3
  · simp [(acquires_iff hm).2 hq, hq]
  · simp [Bool.eq_false_iff.2 (mt (acquires_iff hm).1 hq), hq]

/-- Settles O38: MWAIT by the guarded access that reaches its places, PREF by the checks that no poison fails, FENCE by the word that
acts once for its path. -/
theorem monitorPrefetchAndFenceResults : Obligations.MonitorPrefetchAndFenceResults := by
  unfold Obligations.MonitorPrefetchAndFenceResults
  intro s r
  refine ⟨fun h a b t locs ha hb => ⟨fun hm hready hr => mwaitOp_ok ha hb hm hready hr, fun hi hg hz => ?_⟩, fun k hi hk hm => ?_⟩
  · have hpref := prefOp_ok hi (setWidth_bit_le_one h) ha hb hg hz
    simp only [setWidth_bit_eq_one] at hpref
    exact hpref
  · have hfence := fenceOp_ok hi hk hm
    simp only [fenceKinds_eq] at hfence
    exact hfence

end Sys2Proof.Machine
end

section
/-! The barrier objects (R241, R277, R278) and the barriers of the team and the cluster (R283, R311, R345), where nothing stands in
their way. -/

namespace Sys2Proof.Machine

/-- Two uniform registers that are read are what a word that reads both of them uses. -/
theorem reads1_and_reads1 {a b : BitVec 8} (ha : isS a = true) (hb : isS b = true) :
    (readsRun a 1).and (readsRun b 1) = { sr := [sNum a, sNum b] } := by
  rw [reads1 ha, reads1 hb]; rfl

/-- The checks of a word that reads two uniform registers, and finds them free. -/
theorem cause_reads1_reads1 {g : Group} {a b : BitVec 8} (ha : isS a = true) (hb : isS b = true) (hf : SFree g [sNum a, sNum b] [])
    (l : Nat) (ln : Lane) :
    ({ field := isS a && isS b, uses := (readsRun a 1).and (readsRun b 1) } : Checks).cause g l ln = none :=
  cause_sfree hf (by simp [ha, hb]) rfl (reads1_and_reads1 ha hb) l ln rfl

/-! Barrier objects. -/

section
variable {s t : State} {r : PathRef} {a b : BitVec 8} {k off : Nat} (hi : Issuing s r) (ha : isS a = true)
  (ho : s.objectRef (s.group r.group) ((s.group r.group).sreg (sNum a)) = some (k, off)) (hp : s.poisoned (.pad k off) 16 = false)
include hi ha ho hp

theorem binitOp_ok (hb : isS b = true) (hf : SFree (s.group r.group) [sNum a, sNum b] [])
    (ht : s.reserve (s.group r.group).ctx 1 (s.group r.group).isHandler = some t)
    (hlow : 1 ≤ ((s.group r.group).sreg (sNum b)).toNat) (hhigh : ((s.group r.group).sreg (sNum b)).toNat ≤ 0x7FFFFFFF) :
    binitOp a b s = .next (went t r (t.updBarrier (t.writer r.group (s.path r).lowLane) 2 k off fun o =>
      { o with expect := (s.group r.group).sreg (sNum b), arrive := (s.group r.group).sreg (sNum b), bytes := 0 })) :=
  barrierOp_ok hi _ a _ _ false (cause_reads1_reads1 ha hb hf _ _) ho hp
    (by simp only [Bool.and_eq_true, decide_eq_true_eq]; exact ⟨hlow, hhigh⟩) ht

theorem bexpectOp_ok (hb : isS b = true) (hf : SFree (s.group r.group) [sNum a, sNum b] [])
    (ht : s.reserve (s.group r.group).ctx 1 (s.group r.group).isHandler = some t) :
    bexpectOp a b s = .next (went t r (t.updBarrier (t.writer r.group (s.path r).lowLane) 2 k off fun o =>
      { o with bytes := o.bytes + (s.group r.group).sreg (sNum b) })) :=
  barrierOp_ok hi _ a _ _ false (cause_reads1_reads1 ha hb hf _ _) ho hp rfl ht

/-- BARRIVE takes an arrival that is missing; a remote one publishes (R203). -/
theorem barriveOp_ok (hf : SFree (s.group r.group) [sNum a] [])
    (ht : s.reserve (s.group r.group).ctx 1 (s.group r.group).isHandler = some t) (hmiss : (s.barrier k off).arrive ≠ 0#32) :
    barriveOp a s = .next (went t r (
      let u := t.updBarrier (t.writer r.group (s.path r).lowLane) 2 k off fun o => { o with arrive := o.arrive - 1 }
      if bit ((s.group r.group).sreg (sNum a)) 31 = true ∧ (s.group r.group).isHandler = false
      then u.publish (s.group r.group).team else u)) := by
  rw [barriveOp, barrierOp_ok hi _ a _ _ true (cause_sfree hf ha rfl (reads1 ha) _ _ rfl) ho hp (by simpa using hmiss) ht]
  simp only [Bool.true_and, Bool.and_eq_true, Bool.not_eq_true']

/-- BWAIT parks in the phase that it names, and goes on in another, behind the events that stand attached (log 3). -/
theorem bwaitOp_ok (hb : isS b = true) (hf : SFree (s.group r.group) [sNum a, sNum b] []) :
    let n := (s.group r.group).sreg (sNum b)
    bwaitOp a b s = .next (wentBy s r
      (fun q => if s.objectWord k off 0 = n then q.park .barwait (.object k off n) else q.advance)
      (if s.objectWord k off 0 = n then s else s.seeAll r)) := by
  intro n
  have hover : s.phaseOver (s.group r.group) a b = (s.objectWord k off 0 != n) := by simp only [State.phaseOver, ho, n]
  rw [bwaitOp, checkedOp_ok hi _ _ _ _ (cause_reads1_reads1 ha hb hf _ _) (by simp only [ho, hp, Bool.false_eq_true, if_false])]
  simp only [hover, ho, bne_iff_ne, ne_eq, ite_not, n]

end

/-! Barriers of the team and the cluster. -/

theorem tsyncOp_ok {s : State} {r : PathRef} (hi : Issuing s r) :
    tsyncOp s = .next (moved s r (fun q => q.park .barwait .tsync) s) :=
  controlOp_ok hi _ _ (cause_none rfl rfl rfl rfl rfl)

theorem csyncOp_ok {s : State} {r : PathRef} (hi : Issuing s r) :
    csyncOp s = .next (moved s r (fun q => q.park .barwait .csync)
      (if (s.group r.group).isHandler then s else s.publish (s.group r.group).team)) :=
  controlOp_ok hi _ _ (cause_none rfl rfl rfl rfl rfl)

/-- A word below 256 has no bit above the eight roles of a team (R311). -/
theorem fld_31_8_of_lt {m : Word} (h : m.toNat < 256) : fld m 31 8 = 0 := by
  simp only [fld]; omega

/-- NBAR arrives at a barrier whose mask is free, or its own. A path that is being stepped fixes no mask. -/
theorem nbarOp_ok {s : State} {r : PathRef} {a b : BitVec 8} (hi : Issuing s r) (ha : isS a = true) (hb : isS b = true) :
    let g := s.group r.group
    let n := (g.sreg (sNum a)).toNat
    let m := g.sreg (sNum b)
    let fixed := tget 0#8 (s.team g.team).nbarMask n
    SFree g [sNum a, sNum b] [] → n ≤ 15 → m ≠ 0#32 → m.toNat < 256 → bit m g.role.toNat = true →
    (fixed = 0#8 ∨ g.isHandler = true ∨ fixed = m.setWidth 8) →
    nbarOp a b s = .next (wentBy s r (fun q => q.park .barwait (.nbar n) n)
      (if g.isHandler = true ∨ ((s.path r).state = .stepping ∧ (s.path r).freezer ≠ .rewind) then s
       else s.updTeam g.team fun t => { t with nbarMask := tput t.nbarMask n (m.setWidth 8) })) := by
  intro g n m fixed hf hn hm hroles hrole hfix
  have hown : (fixed != 0 && !g.isHandler && fixed != m.setWidth 8) = false := by
    rcases hfix with h | h | h <;> simp [h]
  have hlegal : (decide (n > 15) || m == 0 || fld m 31 8 != 0 || !bit m g.role.toNat ||
      (fixed != 0 && !g.isHandler && fixed != m.setWidth 8)) = false := by
    rw [hown]; simp [hn, hm, fld_31_8_of_lt hroles, hrole]
  rw [nbarOp, checkedOp_ok hi _ _ _ _ (cause_reads1_reads1 ha hb hf _ _) (if_neg (ne_true_of_eq_false hlegal))]
  simp only [Bool.or_eq_true, Bool.and_eq_true, decide_eq_true_eq, bne_iff_ne, g, n, m]

/-- Settles O44: the objects by the update that their reference names, the barriers by the checks of their words. -/
theorem barrierResults : Obligations.BarrierResults := by
  unfold Obligations.BarrierResults
  intro s t r a b hi
  refine ⟨fun k off ha ho hp => ⟨fun ht => ⟨fun hb hf => ⟨?_, ?_⟩, ?_⟩, ?_⟩, tsyncOp_ok hi, csyncOp_ok hi,
    fun ha hb => nbarOp_ok hi ha hb⟩
  · exact binitOp_ok hi ha ho hp hb hf ht
  · exact bexpectOp_ok hi ha ho hp hb hf ht
  · exact fun hf hmiss => barriveOp_ok hi ha ho hp hf ht hmiss
  · exact bwaitOp_ok hi ha ho hp

end Sys2Proof.Machine
end

section
/-! The frozen-state instructions of a handler (R180, R181, R243, R291 to R294), where its capability is valid and nothing stands in
their way. -/

namespace Sys2Proof.Machine

/-- A path of a handler issues a word, and the capability of the handler, `h`, is valid over a group that stands in its slot. -/
structure Handling (s : State) (r : PathRef) (h : HCap) : Prop extends Issuing s r where
  cap   : (s.group r.group).hcap = some h
  valid : s.capValid h = true
  holds : s.holdsGroup h = true

/-- The lanes in which a handler's word of a lane class acts: the active ones that lie in MASK and are still frozen (R180). -/
def State.frozenActive (s : State) (r : PathRef) (h : HCap) : List Nat :=
  (s.active r).filter fun l => bit (h.mask &&& (s.group h.group).frozenLanes h.given) l

theorem mem_active_of_frozenActive {s : State} {r : PathRef} {h : HCap} {l : Nat} (hl : l ∈ s.frozenActive r h) : l ∈ s.active r :=
  (List.mem_filter.1 hl).1

/-! The shared course of FRD and FWR. -/

/-- A word without a cause has its fields right. -/
theorem field_of_cause_none {c : Checks} {g : Group} {l : Nat} {ln : Lane} (hc : c.cause g l ln = none) : c.field = true := by
  rw [cause_order] at hc
  split at hc
  · cases hc
  · simpa using ‹¬ c.field = false›

/-- A class that acts once, none of whose checks fails, and for which nothing waits. -/
theorem frozenOp_whole {s : State} {r : PathRef} {h : HCap} (hw : Handling s r h) (write : Bool) (d a b : BitVec 8)
    {waits : Group → List Nat → Bool} {lane : Group → Group → Nat → State → PathRef → HCap → State}
    {whole : Group → Group → State → PathRef → HCap → State} (hcls : laneClass a.toNat = false)
    (hc : (frChecks write true d a.toNat b.toNat (s.group r.group) h (s.group h.group)).cause (s.group r.group) 0 {} = none)
    (hwait : waits (s.group h.group) [] = false) :
    frozenOp write d a b waits lane whole s = .next (went s r (whole (s.group r.group) (s.group h.group) s r h)) := by
  simp only [frozenOp, issuing_of hw.toIssuing, hw.cap, hw.valid, hw.holds, Bool.and_self, field_of_cause_none hc, hcls, hc, hwait,
    Bool.not_true, Bool.false_eq_true, if_false, conclude_none hw.lanes, went]

/-- A class that acts lane by lane, in which no lane that it acts in fails a check or waits. -/
theorem frozenOp_lanes {s : State} {r : PathRef} {h : HCap} (hw : Handling s r h) (write : Bool) (d a b : BitVec 8)
    {waits : Group → List Nat → Bool} {lane : Group → Group → Nat → State → PathRef → HCap → State}
    {whole : Group → Group → State → PathRef → HCap → State} (hcls : laneClass a.toNat = true)
    (hg : ∀ l ∈ lanesOf (s.path r).mask, (s.path r).guardPending ((s.group r.group).lane l) = false)
    (hf : (frChecks write true d a.toNat b.toNat (s.group r.group) h (s.group h.group)).field = true)
    (hc : ∀ l ∈ s.frozenActive r h, (frChecks write true d a.toNat b.toNat (s.group r.group) h (s.group h.group)).guardedCause
      (s.group r.group) (s.path r) l = none)
    (hwait : waits (s.group h.group) (s.frozenActive r h) = false) :
    frozenOp write d a b waits lane whole s = .next (went s r
      ((s.frozenActive r h).foldl (fun u l => lane (s.group r.group) (s.group h.group) l u r h) s)) := by
  have hnone : firstCause ([] ++ (s.frozenActive r h).filterMap fun l =>
      (frChecks write true d a.toNat b.toNat (s.group r.group) h (s.group h.group)).guardedCause (s.group r.group) (s.path r) l) =
      none := by
    rw [List.nil_append, List.filterMap_eq_nil_iff.2 hc]; rfl
  have hfrozen : (s.active r).filter (fun l => bit (h.mask &&& (s.group h.group).frozenLanes h.given) l) = s.frozenActive r h := rfl
  simp only [frozenOp, issuing_of hw.toIssuing, hw.cap, hw.valid, hw.holds, Bool.and_self, hf, hcls, applied_eq_active hg, hfrozen,
    hnone, hwait, Bool.not_true, Bool.false_eq_true, if_false, if_true, conclude_none hw.lanes, went]

/-- The frozen entry that a capability names is still frozen, and in its reach. -/
structure HeldEntry (s : State) (h : HCap) : Prop where
  frozen : ((s.group h.group).path h.path).state = .frozen
  held   : ((s.group h.group).path h.path).heldSince h.given = true

/-- What FRD and FWR check of what they would do (R180): PC, CLHDR, mask and mode ask that the entry be held. -/
theorem frChecks_late {s : State} {h : HCap} {write : Bool} {d : BitVec 8} {cls i : Nat} {g : Group} {l : Nat} {ln : Lane}
    (he : 3 ≤ cls → cls ≤ 5 → HeldEntry s h) (hb : write = true → fwrBad cls g d ((s.group h.group).path h.path) ln = false) :
    (frChecks write true d cls i g h (s.group h.group)).late l ln = none := by
  have hheld : ((decide (3 ≤ cls) && decide (cls ≤ 5)) && (((s.group h.group).path h.path).state != .frozen ||
      !((s.group h.group).path h.path).heldSince h.given)) = false := by
    by_cases h3 : 3 ≤ cls ∧ cls ≤ 5
    · simp [(he h3.1 h3.2).frozen, (he h3.1 h3.2).held]
    · simp only [Bool.and_eq_false_imp, Bool.and_eq_true, decide_eq_true_eq]
      exact fun hc => absurd hc h3
  have hbad : (write && fwrBad cls g d ((s.group h.group).path h.path) ln) = false := by
    cases write
    · rfl
    · simpa using hb rfl
  simp only [frChecks, Bool.not_true, Bool.false_or, hheld, hbad, Bool.false_eq_true, if_false]

/-- A uniform register that is only written, or only read, and free. -/
theorem hazard_writes1 {g : Group} {x : BitVec 8} (hx : isS x = true) (hf : SFree g [] [sNum x]) (ln : Lane) :
    (writesRun x 1).hazard g ln = false := by
  rw [writes1 hx]; exact (sfree_uses hf ln).1
theorem hazard_writes2 {g : Group} {x : BitVec 8} (hx : isSPair x = true) (hf : SFree g [] [sNum x, sNum x + 1]) (ln : Lane) :
    (writesRun x 2).hazard g ln = false := by
  rw [writes2 (isS_of_pair hx)]; exact (sfree_uses hf ln).1
theorem free_reads1 {g : Group} {x : BitVec 8} (hx : isS x = true) (hf : SFree g [sNum x] []) (ln : Lane) :
    (readsRun x 1).hazard g ln = false ∧ (readsRun x 1).poison g ln = false := by
  rw [reads1 hx]; exact sfree_uses hf ln
theorem free_reads2 {g : Group} {x : BitVec 8} (hx : isSPair x = true) (hf : SFree g [sNum x, sNum x + 1] []) (ln : Lane) :
    (readsRun x 2).hazard g ln = false ∧ (readsRun x 2).poison g ln = false := by
  rw [reads2 (isS_of_pair hx)]; exact sfree_uses hf ln

/-- FRD finds nothing in the way of a class whose index and register are right, where its register is not pending. -/
theorem frd_cause {s : State} {h : HCap} {d : BitVec 8} {cls i : Nat} {g : Group} {l : Nat} {ln : Lane}
    (hi : frIndexOk cls i (s.group h.group).window = true) (hd : frRegOk g d cls = true)
    (hz : (writesRun d (if cls = 3 ∨ cls = 8 then 2 else 1)).hazard g ln = false)
    (he : 3 ≤ cls → cls ≤ 5 → HeldEntry s h) : (frChecks false true d cls i g h (s.group h.group)).cause g l ln = none :=
  cause_none (by simp [frChecks, hi, hd]) rfl hz (poison_writes _ _ _ _) (frChecks_late he (by simp))

/-- FWR, of a class that it writes and a value that it takes, where its register is free. -/
theorem fwr_cause {s : State} {h : HCap} {d : BitVec 8} {cls i : Nat} {g : Group} {l : Nat} {ln : Lane}
    (hcls : (cls == 6 || cls == 8) = false) (hi : frIndexOk cls i (s.group h.group).window = true) (hd : frRegOk g d cls = true)
    (hf : (readsRun d (if cls = 3 ∨ cls = 8 then 2 else 1)).hazard g ln = false ∧
      (readsRun d (if cls = 3 ∨ cls = 8 then 2 else 1)).poison g ln = false)
    (he : 3 ≤ cls → cls ≤ 5 → HeldEntry s h) (hv : fwrBad cls g d ((s.group h.group).path h.path) ln = false) :
    (frChecks true true d cls i g h (s.group h.group)).cause g l ln = none :=
  cause_none (by simp [frChecks, hi, hd, hcls]) rfl hf.1 hf.2 (frChecks_late he fun _ => hv)

theorem pcOk_of {x : DWord} (hlt : x.toNat < 2 ^ 55) (h4 : x.toNat % 4 = 0) : pcOk x = true := by
  have hhigh : fld x 63 55 = 0 := by simp only [fld]; omega
  have hlow : fld x 1 0 = 0 := by simp only [fld]; omega
  simp [pcOk, hhigh, hlow]

/-- Two masks neither of which has a lane that the other lacks are one. -/
theorem eq_of_and_not {x m : BitVec 32} (hx : x &&& ~~~m = 0#32) (hm : m &&& ~~~x = 0#32) : x = m := by
  refine BitVec.eq_of_getLsbD_eq fun i hi => ?_
  have hxi := congrArg (·.getLsbD i) hx
  have hmi := congrArg (·.getLsbD i) hm
  simp only [BitVec.getLsbD_and, BitVec.getLsbD_not, hi, decide_true, Bool.true_and, BitVec.getLsbD_zero] at hxi hmi
  cases hb : m.getLsbD i <;> simp_all

/-- A mask that keeps some of an entry's lanes, and no others, sheds the rest where there is a rest. -/
theorem shed_of_subset {g : Group} {i : Nat} {x : BitVec 32} (hx : x &&& ~~~(g.path i).mask = 0#32) :
    g.shed i x = if x = (g.path i).mask then g
      else (g.setPath i { g.path i with mask := (g.path i).mask &&& x }).setPath g.emptyEntry
        { g.path i with mask := (g.path i).mask &&& ~~~x } := by
  have hrest : (g.path i).mask &&& ~~~x = 0#32 ↔ x = (g.path i).mask :=
    ⟨eq_of_and_not hx, fun h => by simp [h]⟩
  simp only [Group.shed, BitVec.ofNat_eq_ofNat, hrest]

section
variable {s : State} {r : PathRef} {h : HCap} (hw : Handling s r h) {d i : BitVec 8}
include hw

/-! A uniform register, and a wait flag. -/

theorem frd_sreg (hd : isS d = true) (hf : SFree (s.group r.group) [] [sNum d]) (hi : i.toNat < 128)
    (hp : bit (s.group h.group).sPend i.toNat = false) :
    execFrd d 1 i s = .next (went s r (s.setGroup r.group ((s.group r.group).setSreg (sNum d)
      ((s.group h.group).sreg i.toNat) (bit (s.group h.group).sPoison i.toNat)))) := by
  rw [execFrd, frozenOp_whole hw false d 1 i rfl (frd_cause (by simpa [frIndexOk] using hi) hd (hazard_writes1 hd hf _)
    (fun h1 => absurd h1 (by decide)))]
  · rfl
  · exact hp

theorem frd_flag (hd : isS d = true) (hf : SFree (s.group r.group) [] [sNum d]) (hi : i.toNat ≤ 11) :
    execFrd d 6 i s = .next (went s r (s.setGroup r.group ((s.group r.group).setSreg (sNum d)
      (((s.group h.group).flag i.toNat).setWidth 32)))) := by
  rw [execFrd, frozenOp_whole hw false d 6 i rfl (frd_cause (by simpa [frIndexOk] using hi) hd (hazard_writes1 hd hf _)
    (fun _ h6 => absurd h6 (by decide)))] <;> rfl

theorem fwr_sreg (hd : isS d = true) (hf : SFree (s.group r.group) [sNum d] []) (hi : i.toNat < 128) :
    execFwr d 1 i s = .next (went s r ((s.disown h.group [.sreg i.toNat 0 false]).updGroup h.group fun f =>
      { f.setSreg i.toNat ((s.group r.group).sreg (sNum d)) with sPend := setBit f.sPend i.toNat false })) := by
  rw [execFwr, frozenOp_whole hw true d 1 i rfl (fwr_cause rfl (by simpa [frIndexOk] using hi) hd (free_reads1 hd hf _)
    (fun h1 => absurd h1 (by decide)) rfl)]
  · rfl
  · rfl

/-! PC, CLHDR, mask and mode of the frozen entry. -/

variable (he : HeldEntry s h)
include he

theorem frd_pc (hd : isSPair d = true) (hf : SFree (s.group r.group) [] [sNum d, sNum d + 1]) :
    execFrd d 3 0 s = .next (went s r (s.setGroup r.group ((s.group r.group).setSpair (sNum d)
      ((s.group h.group).path h.path).pc))) := by
  rw [execFrd, frozenOp_whole hw false d 3 0 rfl (frd_cause rfl hd (hazard_writes2 hd hf _) (fun _ _ => he))] <;> rfl

theorem frd_clhdr (hd : isSPair d = true) (hf : SFree (s.group r.group) [] [sNum d, sNum d + 1]) :
    execFrd d 3 1 s = .next (went s r (s.setGroup r.group ((s.group r.group).setSpair (sNum d)
      ((s.group h.group).path h.path).clhdr))) := by
  rw [execFrd, frozenOp_whole hw false d 3 1 rfl (frd_cause rfl hd (hazard_writes2 hd hf _) (fun _ _ => he))] <;> rfl

theorem frd_mask (hd : isS d = true) (hf : SFree (s.group r.group) [] [sNum d]) :
    execFrd d 4 0 s = .next (went s r (s.setGroup r.group ((s.group r.group).setSreg (sNum d)
      ((s.group h.group).path h.path).mask))) := by
  rw [execFrd, frozenOp_whole hw false d 4 0 rfl (frd_cause rfl hd (hazard_writes1 hd hf _) (fun _ _ => he))] <;> rfl

theorem frd_mode (hd : isS d = true) (hf : SFree (s.group r.group) [] [sNum d]) :
    execFrd d 5 0 s = .next (went s r (s.setGroup r.group ((s.group r.group).setSreg (sNum d)
      ((s.group h.group).path h.path).mode))) := by
  rw [execFrd, frozenOp_whole hw false d 5 0 rfl (frd_cause rfl hd (hazard_writes1 hd hf _) (fun _ _ => he))] <;> rfl

/-- The entry takes a PC or a CLHDR that holds bits [54:2] alone. -/
theorem fwr_movedTo (hd : isSPair d = true) (hf : SFree (s.group r.group) [sNum d, sNum d + 1] [])
    (hi : i.toNat ≤ 1) (hlt : ((s.group r.group).spair (sNum d)).toNat < 2 ^ 55)
    (h4 : ((s.group r.group).spair (sNum d)).toNat % 4 = 0) :
    execFwr d 3 i s = .next (went s r (s.updPath ⟨h.group, h.path⟩ fun e =>
      e.movedTo i.toNat ((s.group r.group).spair (sNum d)))) := by
  rw [execFwr, frozenOp_whole hw true d 3 i rfl (fwr_cause rfl (by simpa [frIndexOk] using hi) hd (free_reads2 hd hf _) (fun _ _ => he)
    (by simp [fwrBad, pcOk_of hlt h4]))] <;> rfl

theorem fwr_mode (hd : isS d = true) (hf : SFree (s.group r.group) [sNum d] [])
    (hm : modeLegal ((s.group r.group).sreg (sNum d)) = true) :
    execFwr d 5 0 s = .next (went s r (s.updPath ⟨h.group, h.path⟩ fun e =>
      { e with mode := (s.group r.group).sreg (sNum d) })) := by
  rw [execFwr, frozenOp_whole hw true d 5 0 rfl (fwr_cause rfl rfl hd (free_reads1 hd hf _) (fun _ _ => he) (by simp [fwrBad, hm]))] <;> rfl

theorem fwr_mask (hd : isS d = true) (hf : SFree (s.group r.group) [sNum d] []) (h0 : (s.group r.group).sreg (sNum d) ≠ 0#32)
    (hx : ((s.group r.group).sreg (sNum d) : BitVec 32) &&& ~~~((s.group h.group).path h.path).mask = 0#32) :
    execFwr d 4 0 s = .next (went s r (s.updGroup h.group fun f => f.shed h.path ((s.group r.group).sreg (sNum d)))) := by
  rw [execFwr, frozenOp_whole hw true d 4 0 rfl (fwr_cause rfl rfl hd (free_reads1 hd hf _) (fun _ _ => he)
    (by simp [fwrBad, h0, hx]))] <;> rfl

end

/-! The classes that act lane by lane. -/

/-- A lane class asks nothing of the frozen entry. -/
theorem not_entry_of_laneClass {c : Nat} (h : laneClass c = true) : ¬ (3 ≤ c ∧ c ≤ 5) := by
  simp only [laneClass, Bool.or_eq_true, beq_iff_eq] at h
  omega

/-- In no lane that a word of a lane class acts in does a register stand in its way: the guard predicate is pending in no lane of the
path and poisoned in none that it acts in, and there the registers `u` are free. -/
structure FrozenReady (s : State) (r : PathRef) (h : HCap) (u : Uses) : Prop where
  guard : ∀ l ∈ lanesOf (s.path r).mask, (s.path r).guardPending ((s.group r.group).lane l) = false
  free  : ∀ l ∈ s.frozenActive r h, (s.path r).guardPoisoned ((s.group r.group).lane l) = false ∧
            u.hazard (s.group r.group) ((s.group r.group).lane l) = false ∧ u.poison (s.group r.group) ((s.group r.group).lane l) = false

section
variable {s : State} {r : PathRef} {h : HCap} {d i : BitVec 8} (hw : Handling s r h)
include hw

/-- FRD of a lane class, where its register is free in the lanes that it acts in. -/
theorem frozenOp_frd_lanes (d a i : BitVec 8) {waits : Group → List Nat → Bool}
    {lane : Group → Group → Nat → State → PathRef → HCap → State} {whole : Group → Group → State → PathRef → HCap → State}
    (hcls : laneClass a.toNat = true) (hr : FrozenReady s r h (writesRun d (if a.toNat = 3 ∨ a.toNat = 8 then 2 else 1)))
    (hi : frIndexOk a.toNat i.toNat (s.group h.group).window = true) (hd : frRegOk (s.group r.group) d a.toNat = true)
    (hwait : waits (s.group h.group) (s.frozenActive r h) = false) :
    frozenOp false d a i waits lane whole s = .next (went s r
      ((s.frozenActive r h).foldl (fun u l => lane (s.group r.group) (s.group h.group) l u r h) s)) := by
  refine frozenOp_lanes hw false d a i hcls hr.guard (by simp [frChecks, hi, hd]) (fun l hl => ?_) hwait
  obtain ⟨hsure, hz, -⟩ := hr.free l hl
  rw [guardedCause_of (hr.guard l (mem_active (mem_active_of_frozenActive hl))) hsure]
  exact frd_cause hi hd hz fun h3 h5 => absurd ⟨h3, h5⟩ (not_entry_of_laneClass hcls)

/-- FWR of a lane class that it writes, where its register is free in the lanes that it acts in, and holds values that it takes. -/
theorem frozenOp_fwr_lanes (d a i : BitVec 8) {waits : Group → List Nat → Bool}
    {lane : Group → Group → Nat → State → PathRef → HCap → State} {whole : Group → Group → State → PathRef → HCap → State}
    (hcls : laneClass a.toNat = true) (hno : (a.toNat == 6 || a.toNat == 8) = false)
    (hr : FrozenReady s r h (readsRun d (if a.toNat = 3 ∨ a.toNat = 8 then 2 else 1)))
    (hi : frIndexOk a.toNat i.toNat (s.group h.group).window = true) (hd : frRegOk (s.group r.group) d a.toNat = true)
    (hv : ∀ l ∈ s.frozenActive r h, fwrBad a.toNat (s.group r.group) d ((s.group h.group).path h.path)
      ((s.group r.group).lane l) = false)
    (hwait : waits (s.group h.group) (s.frozenActive r h) = false) :
    frozenOp true d a i waits lane whole s = .next (went s r
      ((s.frozenActive r h).foldl (fun u l => lane (s.group r.group) (s.group h.group) l u r h) s)) := by
  refine frozenOp_lanes hw true d a i hcls hr.guard (by simp [frChecks, hi, hd, hno]) (fun l hl => ?_) hwait
  obtain ⟨hsure, hfree⟩ := hr.free l hl
  rw [guardedCause_of (hr.guard l (mem_active (mem_active_of_frozenActive hl))) hsure]
  exact fwr_cause hno hi hd hfree (fun h3 h5 => absurd ⟨h3, h5⟩ (not_entry_of_laneClass hcls)) (hv l hl)

theorem frd_vreg (hr : FrozenReady s r h (writesRun d 1)) (hd : isV (s.group r.group) d = true) (hi : i.toNat < 128)
    (hwin : i.toNat < (s.group h.group).window)
    (hp : ∀ l ∈ s.frozenActive r h, bit ((s.group h.group).lane l).vPend i.toNat = false) :
    execFrd d 0 i s = .next (went s r ((s.frozenActive r h).foldl (fun u l => u.onLanes r.group [l] fun _ ln =>
      ln.setReg d.toNat (((s.group h.group).lane l).reg i.toNat) (bit ((s.group h.group).lane l).vPoison i.toNat)) s)) := by
  rw [execFrd, frozenOp_frd_lanes hw d 0 i rfl hr (by simp [frIndexOk, hi, hwin]) hd]
  · rfl
  · simpa using hp

theorem frd_preds (hr : FrozenReady s r h (writesRun d 1)) (hd : isV (s.group r.group) d = true) :
    execFrd d 2 0 s = .next (went s r ((s.frozenActive r h).foldl (fun u l => u.onLanes r.group [l] fun _ ln =>
      ln.setReg d.toNat ((((s.group h.group).lane l).p ||| 1#8).setWidth 32)) s)) := by
  rw [execFrd, frozenOp_frd_lanes hw d 2 0 rfl hr rfl hd] <;> rfl

theorem frd_mark (hr : FrozenReady s r h (writesRun d 1)) (hd : isV (s.group r.group) d = true) (hi : i.toNat ≤ 17) :
    execFrd d 7 i s = .next (went s r ((s.frozenActive r h).foldl (fun u l => u.onLanes r.group [l] fun _ ln =>
      ln.setReg d.toNat ((tget 0 ((s.group h.group).lane l).marks i.toNat).setWidth 32)) s)) := by
  rw [execFrd, frozenOp_frd_lanes hw d 7 i rfl hr (by simpa [frIndexOk] using hi) hd] <;> rfl

theorem frd_faultAddr (hr : FrozenReady s r h (writesRun d 2)) (hd : isVPair (s.group r.group) d = true) :
    execFrd d 8 0 s = .next (went s r ((s.frozenActive r h).foldl (fun u l => u.onLanes r.group [l] fun _ ln =>
      ln.setPair d.toNat ((s.group h.group).lane l).faultAddr) s)) := by
  rw [execFrd, frozenOp_frd_lanes hw d 8 0 rfl hr rfl hd] <;> rfl

theorem fwr_vreg (hr : FrozenReady s r h (readsRun d 1)) (hd : isV (s.group r.group) d = true) (hi : i.toNat < 128)
    (hwin : i.toNat < (s.group h.group).window) :
    execFwr d 0 i s = .next (went s r ((s.frozenActive r h).foldl (fun u l =>
      (u.disown h.group [.vreg l i.toNat 0 false]).onLanes h.group [l] fun _ ln =>
        { ln.setReg i.toNat (((s.group r.group).lane l).reg d.toNat) with vPend := setBit ln.vPend i.toNat false }) s)) := by
  rw [execFwr, frozenOp_fwr_lanes hw d 0 i rfl rfl hr (by simp [frIndexOk, hi, hwin]) hd (fun _ _ => rfl)]
  · rfl
  · rfl

theorem fwr_preds (hr : FrozenReady s r h (readsRun d 1)) (hd : isV (s.group r.group) d = true) :
    execFwr d 2 0 s = .next (went s r ((s.frozenActive r h).foldl (fun u l =>
      (u.disown h.group ((List.range 7).map fun n => .pred l (n + 1) false false)).onLanes h.group [l] fun _ ln =>
        { ln with p := (((s.group r.group).lane l).reg d.toNat).setWidth 8 ||| 1#8, pPend := 0, pPoison := 0 }) s)) := by
  rw [execFwr, frozenOp_fwr_lanes hw d 2 0 rfl rfl hr rfl hd (fun _ _ => rfl)] <;> rfl

theorem fwr_mark (hr : FrozenReady s r h (readsRun d 1)) (hd : isV (s.group r.group) d = true) (hi : i.toNat ≤ 17)
    (hv : ∀ l ∈ s.frozenActive r h, ((s.group r.group).lane l).reg d.toNat = 1#32 ∨ ((s.group r.group).lane l).reg d.toNat = 2#32) :
    execFwr d 7 i s = .next (went s r ((s.frozenActive r h).foldl (fun u l => u.onLanes h.group [l] fun _ ln =>
      { ln with marks := tset 0 ln.marks i.toNat ((((s.group r.group).lane l).reg d.toNat).setWidth 2) }) s)) := by
  rw [execFwr, frozenOp_fwr_lanes hw d 7 i rfl rfl hr (by simpa [frIndexOk] using hi) hd
    (fun l hl => by rcases hv l hl with hl | hl <;> simp [fwrBad, hl])] <;> rfl

end

/-! FRESUME and FKILL. -/

section
variable {s : State} {r : PathRef} {h : HCap} (hw : Handling s r h) {a : BitVec 8} (ha : isS a = true)
  (hf : SFree (s.group r.group) [sNum a] [])
include hw ha hf

/-- A word of a handler alone whose one register is free has no cause but its own. -/
theorem cause_handlerWord (late : Nat → Lane → Option Cause) :
    ({ field := isS a && (s.group r.group).isHandler, uses := readsRun a 1, late := late } : Checks).cause (s.group r.group) 0 {} =
      late 0 {} := by
  obtain ⟨hz, hp⟩ := free_reads1 ha hf {}
  simp only [cause_order, ha, Group.isHandler, hw.cap, hz, hp, Option.isSome_some, Bool.and_self, Bool.true_eq_false,
    Bool.false_eq_true, if_false]

/-- The word acts in every group that the capability reaches, where it names no other lane. -/
theorem reachOp_ok (act : HCap → Group → BitVec 32 → Nat → Group)
    (hm : ((s.group r.group).sreg (sNum a) : BitVec 32) &&& ~~~(s.named h) = 0#32) :
    reachOp a act s = .next (went s r ((s.reach h).foldl (fun u e => u.updGroup e.1 fun f =>
      act h f (((s.group r.group).sreg (sNum a) : BitVec 32) &&& e.2 &&& f.frozenLanes h.given) u.clock) s)) := by
  simp only [reachOp, issuing_of hw.toIssuing, cause_handlerWord hw ha hf, hw.cap, hw.valid, hm]
  exact congrArg _ (conclude_none hw.lanes _ _ _)

/-- A lane beyond the capability makes it a HANDLER-FAULT. -/
theorem reachOp_fault (act : HCap → Group → BitVec 32 → Nat → Group)
    (hm : ((s.group r.group).sreg (sNum a) : BitVec 32) &&& ~~~(s.named h) ≠ 0#32) :
    reachOp a act s = .next (s.stopAll r (s.path r) .handlerFault) := by
  have hbeyond : (!s.capValid h || ((s.group r.group).sreg (sNum a) : BitVec 32) &&& ~~~(s.named h) != 0) = true := by
    simp [hm]
  simp only [reachOp, issuing_of hw.toIssuing, cause_handlerWord hw ha hf, hw.cap, hbeyond, if_true]

/-! FSTEP and ESCALATE. -/

/-- FSTEP of lanes of one frozen entry of another group: the entry is stepped, and the handler waits. -/
theorem execFstep_ok {i : Nat} (hm : ((s.group r.group).sreg (sNum a) : BitVec 32) &&& ~~~h.mask = 0#32)
    (h0 : (s.group r.group).sreg (sNum a) ≠ 0#32)
    (he : (s.group h.group).frozenEntry ((s.group r.group).sreg (sNum a)) h.given = some i) (hne : h.group ≠ r.group) :
    let m : BitVec 32 := (s.group r.group).sreg (sNum a)
    let u := s.updGroup h.group fun f => f.beginStep i m .stop
    execFstep a s = .next (wentBy u r (fun q => q.park .flagwait (.fstep m)) u) := by
  intro m u
  have hlanes : (u.path r).mask ≠ 0#32 := by
    have hpath : u.path r = s.path r := by simp only [State.path, u, group_updGroup, if_neg hne.symm]
    rw [hpath]; exact hw.lanes
  have hin : (!s.capValid h || m &&& ~~~h.mask != 0) = false := by simp [hw.valid, m, hm]
  have hone : (m == 0 || (some i).isNone) = false := by simp [m, h0]
  simp only [m] at hin hone
  simp only [execFstep, issuing_of hw.toIssuing, cause_handlerWord hw ha hf, hw.cap, he, hin, hone, Bool.false_eq_true, if_false]
  exact congrArg _ (conclude_none hlanes _ _ _)

end

theorem execEscalate_ok {s : State} {r : PathRef} {h : HCap} (hw : Handling s r h) :
    execEscalate s = .next (s.escalate (s.group r.group).ctx (some h) (some r.group) 1) := by
  simp only [execEscalate, issuing_of hw.toIssuing, hw.cap]

/-- Settles O50: FRD and FWR by their shared course, class by class; FRESUME and FKILL by the lanes that they name; FSTEP by the one
entry that holds its lanes. -/
theorem handlerResults : Obligations.HandlerResults := by
  unfold Obligations.HandlerResults
  intro s r d a h g p f e m wrote entry hcap hvalid hholds
  refine ⟨fun hi => ?uniform, ?lanes, fun hi ha hf => ?reach, fun hi => execEscalate_ok ⟨hi, hcap, hvalid, hholds⟩⟩
  case uniform =>
    have hw : Handling s r h := ⟨hi, hcap, hvalid, hholds⟩
    refine ⟨fun i h128 hd => ⟨fun hf hp => frd_sreg hw hd hf h128 hp, fun hf => fwr_sreg hw hd hf h128,
      fun h11 hf => frd_flag hw hd hf h11⟩, fun hfrozen hheld => ?_⟩
    have he : HeldEntry s h := ⟨hfrozen, hheld⟩
    refine ⟨fun hd => ⟨fun hf => ⟨frd_pc hw he hd hf, frd_clhdr hw he hd hf⟩, fun hf hlt h4 => ⟨?_, ?_⟩⟩,
      fun hd => ⟨fun hf => ⟨frd_mask hw he hd hf, frd_mode hw he hd hf⟩, fun hf => ⟨fwr_mode hw he hd hf, fun h0 hx => ?_⟩⟩⟩
    · exact fwr_movedTo (i := 0) hw he hd hf (by decide) hlt h4
    · exact fwr_movedTo (i := 1) hw he hd hf (by decide) hlt h4
    · exact (fwr_mask hw he hd hf h0 hx).trans (congrArg (fun f => wrote (s.setGroup h.group f)) (shed_of_subset hx))
  case lanes =>
    intro frozen ready reads writes v hd
    have hready {u : Uses} : ready u → Handling s r h ∧ FrozenReady s r h u := fun ⟨hi, hguard, hfree⟩ =>
      ⟨⟨hi, hcap, hvalid, hholds⟩, ⟨hguard, hfree⟩⟩
    refine ⟨fun i h128 hwin => ⟨fun hr hp => ?_, fun hr => ?_⟩, fun hr => ?_, fun hr => ?_,
      fun i h17 => ⟨fun hr => ?_, fun hr hv => ?_⟩, fun hpair hr => ?_⟩ <;> obtain ⟨hw, hr⟩ := hready hr
    · exact frd_vreg hw hr hd h128 hwin hp
    · exact fwr_vreg hw hr hd h128 hwin
    · exact frd_preds hw hr hd
    · exact fwr_preds hw hr hd
    · exact frd_mark hw hr hd h17
    · exact fwr_mark hw hr hd h17 hv
    · exact frd_faultAddr hw hr hpair
  case reach =>
    have hw : Handling s r h := ⟨hi, hcap, hvalid, hholds⟩
    exact ⟨fun hm => ⟨reachOp_ok hw ha hf (fun h f m now => f.resumeLanes m h.given now) hm,
        reachOp_ok hw ha hf (fun _ f m _ => f.exitLanes m) hm⟩,
      fun hm => ⟨reachOp_fault hw ha hf (fun h f m now => f.resumeLanes m h.given now) hm,
        reachOp_fault hw ha hf (fun _ f m _ => f.exitLanes m) hm⟩,
      fun i hm h0 he hne => execFstep_ok hw ha hf hm h0 he hne⟩

end Sys2Proof.Machine
end

section
/-! The mailbox commands (R262 to R270): each has its effect where its stage is reached, its unnamed bytes are zero and its operands
are legal. -/

namespace Sys2Proof.Machine

/-- A mailbox command is in progress, its stage is reached, the bytes that it does not name are zero, and its context is one of the
part (R262 to R264). -/
structure Commanded (s : State) (i : Instr) (stage : Nat) (named : List (Nat × Nat)) : Prop where
  command : s.host.command = some i
  stage   : stage ≤ s.host.stage
  zero    : s.host.unnamedZero named = true
  ctx     : s.host.cmdCtx ≤ 4095

/-- With legal operands a command takes its effect. -/
theorem mailbox_ok {s : State} {i : Instr} {stage : Nat} {named : List (Nat × Nat)} (hc : Commanded s i stage named)
    (ok : State → Nat → Bool) (eff : State → Nat → State) (hok : ok s s.host.cmdCtx = true) :
    mailbox i stage named ok eff s = .next (eff s s.host.cmdCtx) := by
  have hstage : ¬ s.host.stage < stage := by have := hc.stage; omega
  have hctx : ¬ s.host.cmdCtx > 4095 := by have := hc.ctx; omega
  simp [mailbox, hc.command, hstage, hc.zero, hctx, hok]

/-- Before its stage a command ends with status 2 (R264). -/
theorem mailbox_early {s : State} {i : Instr} {stage : Nat} (named : List (Nat × Nat)) (hc : s.host.command = some i)
    (hs : s.host.stage < stage) (ok : State → Nat → Bool) (eff : State → Nat → State) :
    mailbox i stage named ok eff s = .next (s.mbEnd 2) := by
  simp [mailbox, hc, hs]

section
variable {s t : State}

/-! Identity, signers and seals. -/

theorem execIdent_ok (hc : Commanded s .ident 0 []) : execIdent s = .next (s.mbDone 0 identityKey) := mailbox_ok hc _ _ rfl

theorem execAttest_ok (hc : Commanded s .attest 0 [(0, 32)]) :
    let r := s.report s.host.cmdCtx (s.host.buf 0 32)
    execAttest s = .next { s.mbDone 0 (r ++ identitySignature (sha256 r) s.free) with free := s.free + 1 } := mailbox_ok hc _ _ rfl

theorem execKeyset_ok (hc : Commanded s .keyset 1 [(0, 1), (8, 32)]) (hslot : s.host.num 0 1 ≤ 3) :
    execKeyset s = .next ((s.updCtx s.host.cmdCtx fun c =>
      { c with keys := tset 0 c.keys (s.host.num 0 1) (BitVec.ofNat 256 (s.host.num 8 32)) }).mbEnd 0) :=
  mailbox_ok hc _ _ (by simpa using hslot)

theorem execSignonly_ok (hc : Commanded s .signonly 1 [(0, 1)]) (hflag : s.host.num 0 1 ≤ 1) :
    execSignonly s = .next ((s.updCtx s.host.cmdCtx fun c => { c with signonly := s.host.num 0 1 == 1 }).mbEnd 0) :=
  mailbox_ok hc _ _ (by simpa using hflag)

/-- The operands of SEAL: where the file and the image stand, and how long the file is (R264). -/
structure SealOperands (s : State) : Prop where
  file : s.host.num 0 8 < 2 ^ 55
  size : s.host.num 8 8 ≤ 2 ^ 32
  load : s.host.num 16 8 < 2 ^ 55

section
variable (ho : SealOperands s) (hc : Commanded s .seal 1 [(0, 24)])
include ho hc

theorem execSeal_sealed {x : Seal} (hv : s.verifySeal s.host.cmdCtx (BitVec.ofNat 64 (s.host.num 0 8))
      (BitVec.ofNat 64 (s.host.num 16 8)) (s.host.num 8 8) = (t, some x)) :
    execSeal s = .next ((({ t with sealed := x.frames.foldl (fun p f => tset false p f true) t.sealed } : State).updCtx
      s.host.cmdCtx fun c => { c with seals := c.seals ++ [x] }).mbEnd 0) := by
  rw [execSeal, mailbox_ok hc _ _ (by simp only [ho.file, ho.size, ho.load]; rfl)]
  simp only [hv]

theorem execSeal_refused (hv : s.verifySeal s.host.cmdCtx (BitVec.ofNat 64 (s.host.num 0 8))
      (BitVec.ofNat 64 (s.host.num 16 8)) (s.host.num 8 8) = (t, none)) : execSeal s = .next (t.mbEnd 3) := by
  rw [execSeal, mailbox_ok hc _ _ (by simp only [ho.file, ho.size, ho.load]; rfl)]
  simp only [hv]

end

theorem execUnseal_ok (hc : Commanded s .unseal 1 [(0, 8)])
    (hsome : ∃ x ∈ (s.ctx s.host.cmdCtx).seals, x.load.toNat = s.host.num 0 8) :
    execUnseal s = .next ((s.updCtx s.host.cmdCtx fun c =>
      { c with seals := c.seals.filter fun x => x.load.toNat != s.host.num 0 8 }).resealed.mbEnd 0) :=
  mailbox_ok hc _ _ (by simpa using hsome)

/-! Records and answers. -/

theorem execEvent_eq (hc : Commanded s .event 1 []) :
    execEvent s = .next (({ s with host := s.host.takeEvent.1 } : State).mbDone 0 s.host.takeEvent.2) := mailbox_ok hc _ _ rfl

theorem takeEvent_cons {h : Mgmt} {r : List Byte} {rest : List (List Byte)} (he : h.events = r :: rest) :
    h.takeEvent = ({ h with events := rest, lost := 0 }.refill, patch r 1 (bytesOfNat 1 h.lost)) := by
  simp only [Mgmt.takeEvent, he]

theorem takeEvent_nil {h : Mgmt} (he : h.events = []) :
    h.takeEvent = ({ h with lost := 0 }, patch (List.replicate 64 0) 1 (bytesOfNat 1 h.lost)) := by
  simp only [Mgmt.takeEvent, he]

/-- What an escalated context is given back to: its paths go on, its stops are sent on their way, and its saved teams come home (log 50). -/
theorem answerRestore_of {ctx : Nat} {x : Escal} (hx : (s.ctx ctx).escal = some x) :
    let back := (s.unsuspend (s.ctxGroups ctx) .management).resumeStops x.stops
    let routed := (back.ctxGroups ctx).foldl (fun (u : State) k =>
      if (u.group k).isHandler then (u.group k).entries.foldl (fun (u : State) e =>
        if u.isStop k e.1 then u.post .handlerSpawn { a := k, b := e.1 } else u) u
      else u) back
    s.answerRestore ctx = (routed.updCtx ctx fun c => { c with
      escal := none, saving := c.saving.filter (·.mailbox),
      resuming := c.resuming ++ x.stops.filter fun y => c.homing.contains y.1 }).placeHoming ctx := by
  simp only [State.answerRestore, hx]

/-- ANSWER 0 gives an escalated context back to its stops. -/
theorem execAnswer_restore {x : Escal} (hx : (s.ctx s.host.cmdCtx).escal = some x) (hc : Commanded s .answer 1 [(0, 1)])
    (h0 : s.host.num 0 1 = 0) : execAnswer s = .next ((s.answerRestore s.host.cmdCtx).mbEnd 0) := by
  rw [execAnswer, mailbox_ok hc _ _ (by simp [h0, hx])]
  simp [h0]

/-- ANSWER 1 kills it. -/
theorem execAnswer_kill {x : Escal} (hx : (s.ctx s.host.cmdCtx).escal = some x) (hc : Commanded s .answer 1 [(0, 1)])
    (h1 : s.host.num 0 1 = 1) : execAnswer s = .next ((s.killWhole s.host.cmdCtx).1.mbEnd 0) := by
  rw [execAnswer, mailbox_ok hc _ _ (by simp [h1, hx])]
  simp [h1]

theorem execCtxkill_ok (hc : Commanded s .ctxkill 1 []) :
    execCtxkill s = .next ((s.killWhole s.host.cmdCtx).1.mbDone 0 (bytesOfNat 4 (s.killWhole s.host.cmdCtx).2)) :=
  mailbox_ok hc _ _ rfl

/-! Special registers (R267). -/

section
variable {sc : Nat} (hsc : selScope (s.host.num 4 4) = some sc)
include hsc

theorem execCtxregRead_eq (hc : Commanded s .ctxregRead 1 [(0, 1), (2, 2), (4, 4), (8, 8)])
    (hcore : coreFieldOk sc (s.host.num 2 2) false = true) :
    execCtxregRead s = .next (s.mbDone 0 (bytesOfNat 8 (if sc = 0 then (s.ctx s.host.cmdCtx).special (s.host.num 4 4)
      else s.coreSpecial (s.host.num 2 2) (s.host.num 4 4)).toNat)) := by
  rw [execCtxregRead, mailbox_ok hc _ _ (by simp only [hsc, hcore])]
  simp only [hsc, Option.some.injEq]

/-- A register of one core or of the context takes the value where its rule does; else the status is 1. -/
theorem execCtxregWrite_eq (hop : s.host.num 0 1 = 1) (hc : Commanded s .ctxregWrite 1 [(0, 1), (2, 2), (4, 4), (8, 8)])
    (hcore : coreFieldOk sc (s.host.num 2 2) true = true) (hone : s.host.num 2 2 ≠ 0xFFFF) {u : Option State}
    (hu : s.hostReg s.host.cmdCtx (s.host.num 2 2) (s.host.num 4 4) (BitVec.ofNat 32 (s.host.num 8 4)) = u) :
    execCtxregWrite s = .next ((u.map (·.mbEnd 0)).getD (s.mbEnd 1)) := by
  rw [execCtxregWrite, mailbox_ok hc _ _ (by simp only [hop, hsc, hcore]; rfl)]
  simp only [State.hostRegs, if_neg hone, hu]
  cases u <;> rfl

end

/-- The registers of a core are read and written at cores of the part, every other register at core 0. -/
theorem coreFieldOk_core {core : Nat} (h : core < 96) (write : Bool) : coreFieldOk 1 core write = true := by
  simp [coreFieldOk, h]
theorem coreFieldOk_zero {sc : Nat} (h : sc ≠ 1) (write : Bool) : coreFieldOk sc 0 write = true := by
  simp [coreFieldOk, h]

theorem execCtxregRead_context (hc : Commanded s .ctxregRead 1 [(0, 1), (2, 2), (4, 4), (8, 8)])
    (ho : selScope (s.host.num 4 4) = some 0 ∧ s.host.num 2 2 = 0) :
    execCtxregRead s = .next (s.mbDone 0 (bytesOfNat 8 ((s.ctx s.host.cmdCtx).special (s.host.num 4 4)).toNat)) := by
  obtain ⟨hsc, hcore⟩ := ho
  rw [execCtxregRead_eq hsc hc (by rw [hcore]; exact coreFieldOk_zero (by decide) _), if_pos rfl]

theorem execCtxregRead_core (hc : Commanded s .ctxregRead 1 [(0, 1), (2, 2), (4, 4), (8, 8)])
    (ho : selScope (s.host.num 4 4) = some 1 ∧ s.host.num 2 2 < 96) :
    execCtxregRead s = .next (s.mbDone 0 (bytesOfNat 8 (s.coreSpecial (s.host.num 2 2) (s.host.num 4 4)).toNat)) := by
  obtain ⟨hsc, hcore⟩ := ho
  rw [execCtxregRead_eq hsc hc (coreFieldOk_core hcore _), if_neg (by decide)]

theorem execCtxregRead_device (hc : Commanded s .ctxregRead 1 [(0, 1), (2, 2), (4, 4), (8, 8)])
    (ho : selScope (s.host.num 4 4) = some 2 ∧ s.host.num 2 2 = 0) :
    execCtxregRead s = .next (s.mbDone 0 (bytesOfNat 8 (s.coreSpecial 0 (s.host.num 4 4)).toNat)) := by
  obtain ⟨hsc, hcore⟩ := ho
  rw [execCtxregRead_eq hsc hc (by rw [hcore]; exact coreFieldOk_zero (by decide) _), if_neg (by decide), hcore]

/-- A register of the context, or of the part, is written at core 0. -/
theorem execCtxregWrite_zero (hop : s.host.num 0 1 = 1) (hsc : selScope (s.host.num 4 4) = some 0 ∨ selScope (s.host.num 4 4) = some 2)
    (hcore : s.host.num 2 2 = 0) (hc : Commanded s .ctxregWrite 1 [(0, 1), (2, 2), (4, 4), (8, 8)]) {u : Option State}
    (hu : s.hostReg s.host.cmdCtx 0 (s.host.num 4 4) (BitVec.ofNat 32 (s.host.num 8 4)) = u) :
    execCtxregWrite s = .next ((u.map (·.mbEnd 0)).getD (s.mbEnd 1)) := by
  rw [← hcore] at hu
  rcases hsc with hsc | hsc <;>
    exact execCtxregWrite_eq hsc hop hc (by rw [hcore]; exact coreFieldOk_zero (by decide) _) (by rw [hcore]; decide) hu

/-! Memory. -/

/-- The operands of TLBINV: bit 0 of the flags asks for everything, and then no address and no count stands there; bit 1 for every
context (R264, R342). -/
def State.tlbinvLegal (s : State) : Prop :=
  ((s.host.num 0 1 = 1 ∨ s.host.num 0 1 = 3) ∧ s.host.num 8 8 = 0 ∧ s.host.num 16 4 = 0) ∨
    ((s.host.num 0 1 = 0 ∨ s.host.num 0 1 = 2) ∧ s.host.num 8 8 < 2 ^ 55 ∧ 0 < s.host.num 16 4 ∧
      s.host.num 8 8 / 65536 + s.host.num 16 4 ≤ 2 ^ 39)

theorem tlbinvLegal_ok (hl : s.tlbinvLegal) :
    (s.host.num 0 1 ≤ 3 && (if s.host.num 0 1 % 2 = 1 then s.host.num 8 8 == 0 && s.host.num 16 4 == 0
      else s.host.num 8 8 < 2 ^ 55 && s.host.num 16 4 != 0 && s.host.num 8 8 / pageSize + s.host.num 16 4 ≤ 2 ^ 39)) = true := by
  rcases hl with ⟨hf, hva, hn⟩ | ⟨hf, hva, hn, hend⟩
  · rcases hf with hf | hf <;> simp [hf, hva, hn]
  · have hcount : (s.host.num 16 4 != 0) = true := by simp; omega
    rcases hf with hf | hf <;> simp only [hf, hva, hcount, pageSize, hend] <;> rfl

section
variable (hc : Commanded s .mailboxTlbinv 1 [(0, 1), (8, 8), (16, 4)]) (hl : s.tlbinvLegal)
include hc hl

/-- TLBINV drops the translations, and then waits for the accesses that were issued before. -/
theorem execMailboxTlbinv_drops (hnew : s.host.tlbAfter = none) :
    let range := if s.host.num 0 1 % 2 = 1 then none else some (s.host.num 8 8 / 65536, s.host.num 16 4)
    execMailboxTlbinv s = .next ((s.invalidate s.host.cmdCtx range (s.host.num 0 1 ≥ 2)).updHost fun h =>
      { h with tlbAfter := some s.nextOp, operands := some h.given }) := by
  rw [execMailboxTlbinv, mailbox_ok hc _ _ (tlbinvLegal_ok hl)]
  simp only [hnew]
  rfl

theorem execMailboxTlbinv_waits {k : Nat} (hk : s.host.tlbAfter = some k)
    (hbusy : s.accessing k s.host.cmdCtx (s.host.num 0 1 ≥ 2) = true) :
    execMailboxTlbinv s = .next s.mbWait := by
  rw [execMailboxTlbinv, mailbox_ok hc _ _ (tlbinvLegal_ok hl)]
  simp only [hk, hbusy, if_true]

theorem execMailboxTlbinv_ends {k : Nat} (hk : s.host.tlbAfter = some k)
    (hdone : s.accessing k s.host.cmdCtx (s.host.num 0 1 ≥ 2) = false) : execMailboxTlbinv s = .next (s.mbEnd 0) := by
  rw [execMailboxTlbinv, mailbox_ok hc _ _ (tlbinvLegal_ok hl)]
  simp only [hk, hdone, Bool.false_eq_true, if_false]

end

theorem framesMeet_eq_false {a n b m : Nat} : framesMeet a n b m = false ↔ a + n ≤ b ∨ b + m ≤ a := by
  simp only [framesMeet, Bool.and_eq_false_iff, decide_eq_false_iff_not]
  omega

/-- POOLADD takes frames that the part has made usable and that no range of the pool holds (R264). -/
theorem execPooladd_ok (hc : Commanded s .pooladd 1 [(0, 8)]) (h1 : 1 ≤ s.host.num 4 4) (hmax : s.host.num 4 4 ≤ 2 ^ 24)
    (hend : s.host.num 0 4 + s.host.num 4 4 ≤ deviceFrames)
    (huse : ∀ i : Nat, i < min (s.host.num 4 4) 12 → s.frameUsable (s.host.num 0 4 + i) = true)
    (hnew : ∀ e ∈ s.pool, s.host.num 0 4 + s.host.num 4 4 ≤ e.1 ∨ e.1 + e.2 ≤ s.host.num 0 4) :
    let u : State := { s with pool := s.pool ++ [(s.host.num 0 4, s.host.num 4 4)] }
    execPooladd s = .next (u.mbDone 0 (bytesOfNat 4 u.poolFree)) := by
  refine mailbox_ok hc _ _ ?_
  have hall : (List.range (min (s.host.num 4 4) 12)).all (fun i => s.frameUsable (s.host.num 0 4 + i)) = true :=
    List.all_eq_true.2 fun i hi => huse i (List.mem_range.1 hi)
  have hmeet : (s.pool.all fun e => !framesMeet (s.host.num 0 4) (s.host.num 4 4) e.1 e.2) = true :=
    List.all_eq_true.2 fun e he => by rw [framesMeet_eq_false.2 (hnew e he)]; rfl
  simp only [hall, hmeet, h1, hmax, hend]; rfl

theorem execObjregion_ok (hc : Commanded s .objregion 1 [(0, 16)]) (hlt : s.host.num 0 8 < 2 ^ 55) (hb : s.host.num 0 8 % 65536 = 0)
    (hn : s.host.num 8 8 % 65536 = 0) (hmax : s.host.num 8 8 ≤ 2 ^ 54)
    (hdead : ∀ r ∈ (s.ctx s.host.cmdCtx).ranges, (s.obj s.host.cmdCtx r.2.2).alive = false) :
    execObjregion s = .next ((s.updCtx s.host.cmdCtx fun c =>
      { c with objBase := BitVec.ofNat 64 (s.host.num 0 8), objSize := BitVec.ofNat 64 (s.host.num 8 8) }).mbEnd 0) := by
  refine mailbox_ok hc _ _ ?_
  have hnone : ((s.ctx s.host.cmdCtx).ranges.any fun r => (s.obj s.host.cmdCtx r.2.2).alive) = false :=
    List.any_eq_false.2 fun r hr => by simp [hdead r hr]
  simp only [hnone, hlt, hmax, pageSize, hb, hn]; rfl

/-! Pre-emption (R188, R268). -/

/-- The pages of a size, rounded up. -/
theorem pages_up (n : Nat) : (n + pageSize - 1) / pageSize = (n + 65535) / 65536 := by
  have h : n + pageSize - 1 = n + 65535 := by simp only [pageSize]; omega
  rw [h]; rfl

theorem areaOk_of {base size : Nat} (hb : base % 65536 = 0) (hend : base + size ≤ deviceFrames * 65536)
    (huse : ∀ i : Nat, i < min ((size + 65535) / 65536) 12 → s.frameUsable (base / 65536 + i) = true) :
    s.areaOk base size = true := by
  have hall : ((List.range (min ((size + pageSize - 1) / pageSize) 12)).all fun i => s.frameUsable (base / pageSize + i)) = true := by
    rw [pages_up]
    exact List.all_eq_true.2 fun i hi => huse i (List.mem_range.1 hi)
  simp only [State.areaOk, hall, Bool.and_true, Bool.and_eq_true, beq_iff_eq, decide_eq_true_eq]
  exact ⟨hb, hend⟩

theorem execPreempt_ok (hidle : ∀ x : Saving, (s.ctx s.host.cmdCtx).saving = some x → x.mailbox = false)
    (hc : Commanded s .preempt 1 [(0, 16)]) (hb : s.host.num 0 8 % 65536 = 0)
    (hend : s.host.num 0 8 + s.host.num 8 8 ≤ deviceFrames * 65536)
    (huse : ∀ i : Nat, i < min ((s.host.num 8 8 + 65535) / 65536) 12 → s.frameUsable (s.host.num 0 8 / 65536 + i) = true)
    (hfit : s.planSize (s.preemptPlan s.host.cmdCtx) ≤ s.host.num 8 8) :
    let plan := s.preemptPlan s.host.cmdCtx
    execPreempt s = .next (plan.foldl
      (fun (u : State) e => if e.2 = 0 then u.updTeam e.1 fun x => { x with drain := some 0 }
        else if e.2 = 2 then u.holdTeam e.1 else u)
      (s.updCtx s.host.cmdCtx fun c => { c with suspended := true, saveArea := some (s.host.num 0 8, s.host.num 8 8),
                                                saving := some { waiting := plan, mailbox := true } })) := by
  have hfree : (s.ctx s.host.cmdCtx).saving.any (·.mailbox) = false := by
    cases hx : (s.ctx s.host.cmdCtx).saving with
    | none => rfl
    | some x => exact hidle x hx
  have harea : s.areaOk (s.host.num 0 8) (s.host.num 8 8) = true := areaOk_of hb hend huse
  rw [execPreempt, if_neg (ne_true_of_eq_false hfree), mailbox_ok hc _ _ (by simp only [harea, hfit]; rfl)]

/-- RESTORE of no image lets the context go on. -/
theorem execRestore_none (hc : Commanded s .restore 1 [(0, 9)]) (h0 : s.host.num 0 8 = 0) (h1 : s.host.num 8 1 = 1) :
    execRestore s = .next ((s.updCtx s.host.cmdCtx fun c => { c with suspended := false }).mbDone 0 [0]) := by
  rw [execRestore, mailbox_ok hc _ _ (by simp [h1])]
  simp [h0, h1]

section
variable (hc : Commanded s .restore 1 [(0, 9)]) (hle : s.host.num 8 1 ≤ 1) (h0 : s.host.num 0 8 ≠ 0)
include hc hle h0

/-- Where no image stands at the address, RESTORE answers the status of what does (R190). -/
theorem execRestore_status {k : Nat} (hs : s.restoreStatus s.host.cmdCtx (s.host.num 0 8) = (k, none)) :
    execRestore s = .next (s.mbDone 0 (bytesOfNat 1 k)) := by
  rw [execRestore, mailbox_ok hc _ _ (by simp [hle])]
  simp only [h0, false_and, if_false, hs]

/-- An image for whose team there is room is restored; with byte 8 set the context goes on. -/
theorem execRestore_image {im : Image} (hs : s.restoreStatus s.host.cmdCtx (s.host.num 0 8) = (0, some im))
    (ht : s.restoreSaved im = some t) :
    execRestore s = .next (
      (if s.host.num 8 1 = 1 then t.updCtx s.host.cmdCtx fun c => { c with suspended := false } else t).mbDone 0 [0]) := by
  rw [execRestore, mailbox_ok hc _ _ (by simp [hle])]
  simp only [h0, false_and, if_false, hs, ht, beq_iff_eq]

/-- Without room the status is 4 (R190). -/
theorem execRestore_full {im : Image} (hs : s.restoreStatus s.host.cmdCtx (s.host.num 0 8) = (0, some im))
    (ht : s.restoreSaved im = none) : execRestore s = .next (s.mbDone 0 [4]) := by
  rw [execRestore, mailbox_ok hc _ _ (by simp [hle])]
  simp only [h0, false_and, if_false, hs, ht]

end

/-! Before the first stage. -/

/-- Every command that needs a stage ends with status 2 before it (R264). -/
theorem exec_early (h0 : s.host.stage = 0) {i : Instr} (hi : i = .keyset ∨ i = .seal ∨ i = .unseal ∨ i = .signonly ∨ i = .event ∨
    i = .answer ∨ i = .ctxregRead ∨ i = .ctxregWrite ∨ i = .mailboxTlbinv ∨ i = .pooladd ∨ i = .objregion ∨ i = .ctxkill ∨
      i = .restore)
    (hc : s.host.command = some i) : exec i s = .next (s.mbEnd 2) := by
  have h1 : s.host.stage < 1 := by omega
  rcases hi with rfl | rfl | rfl | rfl | rfl | rfl | rfl | rfl | rfl | rfl | rfl | rfl | rfl
  · exact (mailbox_early _ hc h1 _ _ : execKeyset s = _)
  · exact (mailbox_early _ hc h1 _ _ : execSeal s = _)
  · exact (mailbox_early _ hc h1 _ _ : execUnseal s = _)
  · exact (mailbox_early _ hc h1 _ _ : execSignonly s = _)
  · exact (mailbox_early _ hc h1 _ _ : execEvent s = _)
  · exact (mailbox_early _ hc h1 _ _ : execAnswer s = _)
  · exact (mailbox_early _ hc h1 _ _ : execCtxregRead s = _)
  · exact (mailbox_early _ hc h1 _ _ : execCtxregWrite s = _)
  · exact (mailbox_early _ hc h1 _ _ : execMailboxTlbinv s = _)
  · exact (mailbox_early _ hc h1 _ _ : execPooladd s = _)
  · exact (mailbox_early _ hc h1 _ _ : execObjregion s = _)
  · exact (mailbox_early _ hc h1 _ _ : execCtxkill s = _)
  · exact (mailbox_early _ hc h1 _ _ : execRestore s = _)

end

/-- Settles O52: each command by the common course of the mailbox, with the bytes and the operands that it names. -/
theorem mailboxResults : Obligations.MailboxResults := by
  unfold Obligations.MailboxResults
  intro s t h ctx n runs ended waits gave onCtx
  have commanded {i stage named ok u} (hrun : Commanded s i stage named → ok → exec i s = .next u) : runs i stage named ok u :=
    fun hcmd hstage hzero hctx => hrun ⟨hcmd, hstage, hzero, hctx⟩
  refine ⟨commanded fun hc _ => execIdent_ok hc, commanded fun hc _ => execAttest_ok hc, commanded execKeyset_ok,
    commanded execSignonly_ok, fun hfile hsize hload => ?sealing, commanded execUnseal_ok,
    fun r rest => commanded fun hc he => ?event, commanded fun hc he => ?noEvent,
    fun x hx => ⟨commanded fun hc h0 => ?restored, commanded (execAnswer_kill hx)⟩, commanded fun hc _ => execCtxkill_ok hc,
    ?ctxreg, ?tlbinv, fun hidle hb hend huse => commanded fun hc hfit => execPreempt_ok hidle hc hb hend huse hfit,
    ?restore, ?pooladd, ?objregion, fun i hi hcmd h0 => exec_early h0 hi hcmd⟩
  case sealing =>
    exact ⟨fun x => commanded fun hc hv => execSeal_sealed ⟨hfile, hsize, hload⟩ hc hv,
      commanded fun hc hv => execSeal_refused ⟨hfile, hsize, hload⟩ hc hv⟩
  case event => exact (execEvent_eq hc).trans (by rw [takeEvent_cons he]; rfl)
  case noEvent => exact (execEvent_eq hc).trans (by rw [takeEvent_nil he]; rfl)
  case restored => exact (execAnswer_restore hx hc h0).trans (by rw [answerRestore_of hx]; rfl)
  case ctxreg =>
    exact ⟨commanded execCtxregRead_context, commanded execCtxregRead_core, commanded execCtxregRead_device,
      fun hop hsc hcore => ⟨commanded fun hc hu => execCtxregWrite_zero hop hsc hcore hc hu,
        commanded fun hc hu => execCtxregWrite_zero hop hsc hcore hc hu⟩,
      fun hop hsc hcore => commanded fun hc hu => execCtxregWrite_eq hsc hop hc (coreFieldOk_core hcore _)
        (Nat.ne_of_lt (Nat.lt_trans hcore (by decide))) hu⟩
  case tlbinv =>
    exact ⟨commanded fun hc ⟨hl, hnew⟩ => execMailboxTlbinv_drops hc hl hnew,
      fun k hk => ⟨commanded fun hc ⟨hl, hbusy⟩ => execMailboxTlbinv_waits hc hl hk hbusy,
        commanded fun hc ⟨hl, hdone⟩ => execMailboxTlbinv_ends hc hl hk hdone⟩⟩
  case restore =>
    refine ⟨commanded fun hc ⟨h0, h1⟩ => ?_, fun hle h0 => ⟨fun k => commanded fun hc => execRestore_status hc hle h0, fun im hs =>
      ⟨commanded fun hc => execRestore_image hc hle h0 hs, commanded fun hc => execRestore_full hc hle h0 hs⟩⟩⟩
    exact (execRestore_none hc h0 h1).trans (congrArg (fun u => (.next (gave u 0 [0]) : Res)) (if_pos h1).symm)
  case pooladd =>
    exact commanded fun hc ⟨h1, hmax, hend, huse, hnew⟩ => execPooladd_ok hc h1 hmax hend huse hnew
  case objregion =>
    exact commanded fun hc ⟨hlt, hb, hn, hmax, hdead⟩ => execObjregion_ok hc hlt hb hn hmax hdead

end Sys2Proof.Machine
end

section
/-! Stops, handlers and the ladder (R177, R178, R182, R183, R185), escalation (R184), and containment (R192, R193). -/

namespace Sys2Proof.Machine

/-! Routing (R177). -/

section
variable {s : State} {k e : Nat} {kernel : HKernel}

/-- A capability whose kernel fits, for whose group a frame and a slot are free, gets a handler at once. -/
theorem spawnFor_free {h : HCap} {slot : Nat} (hfit : kernel.fits = true) (hframes : s.framesFull h.group = false)
    (hslot : s.freeHandler h.group = some slot) : s.spawnFor h kernel = s.spawn slot h kernel := by
  simp only [State.spawnFor, hfit, hframes, hslot, Bool.not_true, Bool.false_eq_true, if_false]

/-- The ladder at a rung that has a handler: its set freezes, and the capability covers the live lanes of the group. -/
theorem climb_rung {r reason : Nat} (hr : (s.ctx (s.group k).ctx).rungFrom ((s.group k).path e).rung = some (r, kernel)) :
    s.climb k e reason = (s.freezeRung k e).spawnFor { (s.freezeRung k e).capFor k e with
      summary := 24 + r, rung := r, wide := decide (1 ≤ r), mask := ((s.freezeRung k e).group k).live } kernel := by
  simp only [State.climb, hr]

/-- Past its last rung the ladder escalates the stop. -/
theorem climb_past {reason : Nat} (hr : (s.ctx (s.group k).ctx).rungFrom ((s.group k).path e).rung = none) :
    s.climb k e reason = s.escalate (s.group k).ctx (some (s.capFor k e)) none reason := by
  simp only [State.climb, hr]

/-- A POISON stop is contained only where its context has no handler for POISON. -/
theorem not_contained_of_handler (hk : (s.ctx (s.group k).ctx).handler ((s.group k).summary ((s.group k).path e).mask) = some kernel) :
    (decide ((s.group k).summary ((s.group k).path e).mask = 12) && ((s.ctx (s.group k).ctx).handler 12).isNone) = false := by
  by_cases h12 : (s.group k).summary ((s.group k).path e).mask = 12
  · rw [h12] at hk; simp [hk]
  · simp [h12]

section
variable (hesc : (s.ctx (s.group k).ctx).escal = none) (hdbg : (s.group k).summary ((s.group k).path e).mask ≠ 15)
include hesc hdbg

theorem route_ladder (hbit : bit (s.ctx (s.group k).ctx).fltcfg 0 = true) : s.route k e = s.climb k e 4 := by
  simp only [State.route, hesc, hdbg, hbit, if_false, if_true]

variable (hbit : bit (s.ctx (s.group k).ctx).fltcfg 0 = false)
include hbit

/-- A stop goes to the handler of its cause. -/
theorem route_handler (hk : (s.ctx (s.group k).ctx).handler ((s.group k).summary ((s.group k).path e).mask) = some kernel) :
    s.route k e = s.spawnFor (s.capFor k e) kernel := by
  have hpoison := not_contained_of_handler hk
  have hfor : s.handlerFor k e = some kernel := by
    simp only [State.handlerFor, hesc, hdbg, hbit, hpoison, hk, Option.isSome_none, decide_false, Bool.or_self, Bool.false_eq_true,
      if_false, Option.some_or]
  simp only [State.route, hesc, hdbg, hbit, hpoison, hfor, Bool.false_eq_true, if_false]

section
variable (h12 : (s.group k).summary ((s.group k).path e).mask ≠ 12)
  (hown : (s.ctx (s.group k).ctx).handler ((s.group k).summary ((s.group k).path e).mask) = none)
  (hany : (s.ctx (s.group k).ctx).handler 31 = none)
include h12 hown hany

/-- A stop of a cause for which the context has no handler, nor one for any cause, has none. -/
theorem handlerFor_none : s.handlerFor k e = none := by
  simp [State.handlerFor, hesc, hdbg, hbit, h12, hown, hany]

/-- It goes to the management core. -/
theorem route_escalates (h14 : (s.group k).summary ((s.group k).path e).mask ≠ 14) :
    s.route k e = s.escalate (s.group k).ctx (some (s.capFor k e)) none 4 := by
  simp [State.route, hesc, hdbg, hbit, h12, h14, handlerFor_none hesc hdbg hbit h12 hown hany]

end
end
end

/-! HANDLER_SPAWN (R183). -/

section
variable {s : State} {k e : Nat}

/-- The state of a stop that waits: it stands in the pending queue, and its rung's set is frozen. -/
def State.queued (s : State) (k e : Nat) : State :=
  (if bit (s.ctx (s.group k).ctx).fltcfg 0 then s.freezeRung k e else s).enqueueStop k e

/-- A stop is routed as it leaves the queue. -/
theorem routeNext_stop {x : Nat × Nat} (h : (s.dequeueStop x.1 x.2).isStop x.1 x.2 = true) :
    s.routeNext x = (s.dequeueStop x.1 x.2).route x.1 x.2 := by
  simp only [State.routeNext, h, if_true]

/-- What is no stop leaves the queue. -/
theorem execHandlerSpawn_noStop (h : s.isStop s.ev.a s.ev.b = false) :
    execHandlerSpawn s = .next (s.dequeueStop s.ev.a s.ev.b) := by
  have hleft : (s.dequeueStop s.ev.a s.ev.b).isStop s.ev.a s.ev.b = false := h
  simp only [execHandlerSpawn, h, State.routeNext, hleft, Bool.not_false, Bool.true_or, if_true, Bool.false_eq_true, if_false]

/-- A stop that waits for no slot is sent on at once. -/
theorem execHandlerSpawn_direct (h : s.needsSlot s.ev.a s.ev.b = false) :
    execHandlerSpawn s = .next (s.routeNext (s.ev.a, s.ev.b)) := by
  simp only [execHandlerSpawn, h, Bool.not_false, Bool.or_true, if_true]

section
variable (hstop : s.isStop s.ev.a s.ev.b = true) (hneeds : s.needsSlot s.ev.a s.ev.b = true)
include hstop hneeds

/-- A stop that needs a slot waits where none can leave the queue. -/
theorem execHandlerSpawn_waits (hnext : (s.queued s.ev.a s.ev.b).nextPending (coreOf s.ev.a) = none) :
    execHandlerSpawn s = .next (s.queued s.ev.a s.ev.b) := by
  simp only [State.queued] at hnext
  simp only [execHandlerSpawn, hstop, hneeds, Bool.not_true, Bool.or_self, Bool.false_eq_true, if_false, hnext, State.queued]

/-- Else the one whose turn it is leaves it, and is routed. -/
theorem execHandlerSpawn_next {x : Nat × Nat} (hnext : (s.queued s.ev.a s.ev.b).nextPending (coreOf s.ev.a) = some x) :
    execHandlerSpawn s = .next ((s.queued s.ev.a s.ev.b).routeNext x) := by
  simp only [State.queued] at hnext
  simp only [execHandlerSpawn, hstop, hneeds, Bool.not_true, Bool.or_self, Bool.false_eq_true, if_false, hnext, State.queued]

end
end

/-! The ladder (R185). -/

/-- What is found first among consecutive numbers is found at none below. -/
theorem findSome?_range' {α : Type} {f : Nat → Option α} {x : α} {a n : Nat} (h : (List.range' a n).findSome? f = some x) :
    ∃ r, a ≤ r ∧ r < a + n ∧ f r = some x ∧ ∀ j, a ≤ j → j < r → f j = none := by
  induction n generalizing a with
  | zero => cases h
  | succ n ih =>
    rw [List.range'_succ, List.findSome?_cons] at h
    cases hf : f a with
    | some y =>
      rw [hf] at h
      exact ⟨a, Nat.le_refl a, by omega, hf.trans h, fun j hj hlt => by omega⟩
    | none =>
      rw [hf] at h
      obtain ⟨r, hr, hlt, hx, hbelow⟩ := ih h
      refine ⟨r, by omega, by omega, hx, fun j hj hjr => ?_⟩
      rcases Nat.eq_or_lt_of_le hj with rfl | hj
      · exact hf
      · exact hbelow j hj hjr

/-- The rung that the ladder takes is the first, from the one that it has reached, that has a handler. -/
theorem rungFrom_some {c : Ctx} {from_ r : Nat} {kernel : HKernel} (h : c.rungFrom from_ = some (r, kernel)) :
    from_ ≤ r ∧ r ≤ 3 ∧ c.handler (24 + r) = some kernel ∧ ∀ j : Nat, from_ ≤ j → j < r → c.handler (24 + j) = none := by
  have hlist : [0, 1, 2, 3].drop from_ = List.range' from_ (4 - from_) := by
    rw [show [0, 1, 2, 3] = List.range' 0 4 from rfl, List.drop_range']; simp
  rw [Ctx.rungFrom, hlist] at h
  obtain ⟨r', hle, hlt, hx, hbelow⟩ := findSome?_range' h
  simp only [Option.map_eq_some_iff, Prod.mk.injEq, Option.map_eq_none_iff] at hx hbelow
  obtain ⟨kernel', hk, rfl, rfl⟩ := hx
  exact ⟨hle, by omega, hk, hbelow⟩

theorem freezeRung_of {s : State} {k e r : Nat} {kernel : HKernel}
    (h : (s.ctx (s.group k).ctx).rungFrom ((s.group k).path e).rung = some (r, kernel)) :
    s.freezeRung k e = (s.suspend (s.rungSet k r) .ladder).updPath ⟨k, e⟩ fun p => { p with rung := r } := by
  simp only [State.freezeRung, h]

/-! Escalation (R184). -/

/-- No handler acts for one of no handlers. -/
theorem withNested_nil (s : State) (n : Nat) : s.withNested n [] = [] := by
  induction n with
  | zero => rfl
  | succ n ih =>
    rw [State.withNested, List.filter_eq_nil_iff.2]
    · exact ih
    · intro x _
      cases x.2.hcap <;> simp

/-- What the management core makes of an escalated stop: what its rungs froze stays frozen for it, the context freezes and its teams
are saved where they can be, the host is told with `reason`, and the stop joins those that wait for its answer. -/
def State.escalated (s : State) (ctx : Nat) (h : HCap) (reason : Nat) : State :=
  let body := bytesOfNat 1 h.summary ++ bytesOfNat 1 h.core ++ bytesOfNat 1 reason ++ [0] ++ h.bytes (s.capValid h) ctx
  let w := s.takeOver h []
  let w := (w.suspend (w.ctxGroups ctx) .management).saveForEscalation ctx
  (w.queueEvent 1 ctx body).updCtx ctx fun c =>
    let x := c.escal.getD { stops := [], queued := w.host.takesEvent }
    { c with escal := some { x with stops := x.stops ++ [(h.team, h.gid, h.path, h.mask)] } }

/-- The stop of a group that is no handler escalates without any frame that ends. -/
theorem escalate_root {s : State} {h : HCap} (hroot : (s.group h.group).hcap = none) (ctx reason : Nat) :
    s.escalate ctx (some h) none reason = s.escalated ctx h reason := by
  have hchain : s.chain 8 h.group = [] := by simp only [State.chain, hroot]
  have horiginal : s.original 8 h = h := by simp only [State.original, hroot]
  have hstart : ((none : Option Nat) <|> some h.group) = some h.group := rfl
  simp only [State.escalate, Option.map_some, hstart, Option.getD_some, hchain, withNested_nil, horiginal, List.foldl_nil,
    Option.toList_some, List.map_cons, List.map_nil, Option.any_some, State.escalated]

/-! Time-outs (R184, R185). -/

theorem execEscalation_frozen {s : State} (hu : (s.group s.ev.a).used = true) (hf : ((s.group s.ev.a).path s.ev.b).state = .frozen) :
    execEscalation s = .next (s.escalate (s.group s.ev.a).ctx (some (s.capFor s.ev.a s.ev.b)) none s.ev.c) := by
  simp only [execEscalation, hu, hf, Bool.not_true, Bool.false_eq_true, if_false, if_true]

theorem execEscalationTimeout_eq {s : State} {x : Escal} (hx : (s.ctx s.ev.a).escal = some x) :
    let t4 := fld (s.ctx s.ev.a).fltcfg 31 26
    execEscalationTimeout s = .next (if 2 ^ (if t4 = 0 then 32 else t4) ≤ clocks 96 x.elapsed then (s.killCtx s.ev.a).1 else s) := by
  simp only [execEscalationTimeout, hx, ge_iff_le]
  exact (apply_ite (Host.Outcome.next : State → Res) _ _ _).symm

/-- A handler that outlives its rung ends, and the stop that it held goes on from the next: the set of that rung freezes, or past the last
rung the stop escalates. -/
theorem execRungTimeout_due {s : State} {h : HCap} (hcap : (s.group s.ev.a).hcap = some h) (hrung : h.rung ≤ 3) {j x : Nat}
    (ht : fld (s.ctx (s.group s.ev.a).ctx).fltcfg (7 + 6 * h.rung) (2 + 6 * h.rung) ≠ 0)
    (hdue : 2 ^ fld (s.ctx (s.group s.ev.a).ctx).fltcfg (7 + 6 * h.rung) (2 + 6 * h.rung) ≤ clocks h.core h.elapsed)
    (hheld : s.heldEntry h = some (j, x)) :
    let v := ((s.withNested 8 [s.ev.a]).foldl State.endHandler s).updPath ⟨j, x⟩ fun p => { p with rung := h.rung + 1 }
    execRungTimeout s = .next (if ((v.ctx (s.group s.ev.a).ctx).rungFrom (h.rung + 1)).isNone then v.climb j x 2
      else (v.freezeRung j x).post .handlerSpawn { a := j, b := x }) := by
  have hdue' : (decide (h.rung > 3) || decide (fld (s.ctx (s.group s.ev.a).ctx).fltcfg (7 + 6 * h.rung) (2 + 6 * h.rung) = 0) ||
      decide (clocks h.core h.elapsed < 2 ^ fld (s.ctx (s.group s.ev.a).ctx).fltcfg (7 + 6 * h.rung) (2 + 6 * h.rung))) = false := by
    simp only [Bool.or_eq_false_iff, decide_eq_false_iff_not]
    exact ⟨⟨by omega, ht⟩, by omega⟩
  simp only [execRungTimeout, hcap, hheld, hdue', Bool.false_eq_true, if_false]
  exact (apply_ite (Host.Outcome.next : State → Res) _ _ _).symm

/-! Containment (R192). -/

section
variable {s v : State} {ctx team : Nat} {n w : Word} (again refused : State → State)

/-- A team whose rewind is done goes on. -/
theorem containBy_team (hr : (s.dropStops team).rewind ctx (some team) none n true = (v, some w)) (hw : fld w 7 0 = 0 ∨ fld w 7 0 = 7) :
    s.containBy ctx (some team) n again refused = v.unsuspend (v.teamGroups team) .rewound := by
  simp only [State.containBy, hr, if_pos hw]

/-- A refused rewind leaves the team to what follows. -/
theorem containBy_team_refused (hr : (s.dropStops team).rewind ctx (some team) none n true = (v, some w)) (h0 : fld w 7 0 ≠ 0)
    (h7 : fld w 7 0 ≠ 7) :
    s.containBy ctx (some team) n again refused = refused (s.unsuspend (s.teamGroups team) .rewind) := by
  simp only [State.containBy, hr, if_neg (not_or.2 ⟨h0, h7⟩)]

/-- A rewind that must wait is tried again. -/
theorem containBy_team_waits (hr : (s.dropStops team).rewind ctx (some team) none n true = (v, none)) :
    s.containBy ctx (some team) n again refused = again v := by
  simp only [State.containBy, hr]

/-- A context whose rewind is done launches again what it had launched since, and goes on. -/
theorem containBy_ctx {q : Nat} (hq : (s.ctx ctx).openSeq n = some q)
    (hr : ((s.ctxTeams ctx).foldl State.dropStops s).rewind ctx none none n true = (v, some w)) (hw : fld w 7 0 = 0 ∨ fld w 7 0 = 7) :
    s.containBy ctx none n again refused = (v.relaunchGrids ctx q).unsuspend (v.ctxGroups ctx) .rewound := by
  simp only [State.containBy, hr, if_pos hw, hq]

end

section
variable {s : State} {team : Nat} (again : State → State)

/-- A team with a window of its own is rewound to it. -/
theorem contain_rewound {v : State} {n w : Word} (only : Bool) (hn : s.teamWindow team = some n)
    (hr : (s.dropStops team).rewind (s.team team).ctx (some team) none n true = (v, some w)) (hw : fld w 7 0 = 0 ∨ fld w 7 0 = 7) :
    s.contain team only again = v.unsuspend (v.teamGroups team) .rewound := by
  simp only [State.contain, hn]
  exact containBy_team _ _ hr hw

theorem contain_waits {v : State} {n : Word} (only : Bool) (hn : s.teamWindow team = some n)
    (hr : (s.dropStops team).rewind (s.team team).ctx (some team) none n true = (v, none)) : s.contain team only again = again v := by
  simp only [State.contain, hn]
  exact containBy_team_waits _ _ hr

/-- Refused, and with no window of its context, it ends. -/
theorem contain_refused {v : State} {n w : Word} (hn : s.teamWindow team = some n)
    (hr : (s.dropStops team).rewind (s.team team).ctx (some team) none n true = (v, some w)) (h0 : fld w 7 0 ≠ 0) (h7 : fld w 7 0 ≠ 7)
    (hc : (s.unsuspend (s.teamGroups team) .rewind).ctxWindow (s.team team).ctx = none) :
    s.contain team false again = (s.unsuspend (s.teamGroups team) .rewind).failTeam team := by
  simp only [State.contain, hn, Bool.false_eq_true, if_false]
  rw [containBy_team_refused _ _ hr h0 h7]
  simp only [hc]

section
variable (hn : s.teamWindow team = none)
include hn

/-- Without a window of its own a team is contained by its context's. -/
theorem contain_ctx {v : State} {n w : Word} {q : Nat} (hc : s.ctxWindow (s.team team).ctx = some n)
    (hq : (s.ctx (s.team team).ctx).openSeq n = some q)
    (hr : ((s.ctxTeams (s.team team).ctx).foldl State.dropStops s).rewind (s.team team).ctx none none n true = (v, some w))
    (hw : fld w 7 0 = 0 ∨ fld w 7 0 = 7) :
    s.contain team false again = (v.relaunchGrids (s.team team).ctx q).unsuspend (v.ctxGroups (s.team team).ctx) .rewound := by
  simp only [State.contain, hn, Bool.false_eq_true, if_false, hc]
  exact containBy_ctx _ _ hq hr hw

/-- Without either it ends. -/
theorem contain_kill (hc : s.ctxWindow (s.team team).ctx = none) : s.contain team false again = s.failTeam team := by
  simp only [State.contain, hn, hc, Bool.false_eq_true, if_false]

/-- An error that the rewind of a context would not undo ends the team. -/
theorem contain_teamOnly : s.contain team true again = s.failTeam team := by
  simp only [State.contain, hn, if_true]

end
end

/-- A POISON stop that no handler takes has its team contained. -/
theorem execPoisonContainment_stop {s : State} (hc : s.ev.c ≠ 1) (hstop : s.isStop s.ev.a s.ev.b = true)
    (hsum : (s.group s.ev.a).summary ((s.group s.ev.a).path s.ev.b).mask = 12) :
    execPoisonContainment s = .next (s.contain (s.group s.ev.a).team false fun v =>
      v.post .poisonContainment { a := s.ev.a, b := s.ev.b, c := s.ev.c }) := by
  simp only [execPoisonContainment, if_neg hc, hstop, hsum, beq_self_eq_true, Bool.and_self, if_true]

/-- So has a team that lost tiles to a reset. -/
theorem execPoisonContainment_tiles {s : State} (hc : s.ev.c = 1) (hon : (s.team s.ev.a).onCore = true) :
    execPoisonContainment s = .next (s.contain s.ev.a true fun v =>
      v.post .poisonContainment { a := s.ev.a, b := s.ev.b, c := s.ev.c }) := by
  simp only [execPoisonContainment, if_pos hc, hon, if_true]

/-! The reset of a matrix pair (R193). -/

theorem mem_distinct {α : Type} [BEq α] [LawfulBEq α] (xs : List α) (x : α) : x ∈ distinct xs ↔ x ∈ xs := by
  have key : ∀ (xs acc : List α), x ∈ xs.foldl (fun l x => if l.contains x then l else l ++ [x]) acc ↔ x ∈ acc ∨ x ∈ xs := by
    intro xs
    induction xs with
    | nil => simp
    | cons y ys ih =>
      intro acc
      rw [List.foldl_cons, ih]
      by_cases hy : y ∈ acc
      · rw [if_pos (List.contains_iff_mem.2 hy)]
        constructor
        · rintro (h | h)
          · exact .inl h
          · exact .inr (List.mem_cons_of_mem _ h)
        · rintro (h | h)
          · exact .inl h
          · rcases List.mem_cons.1 h with rfl | h
            · exact .inl hy
            · exact .inr h
      · rw [if_neg (mt List.contains_iff_mem.1 hy)]
        simp [or_assoc]
  rw [distinct, key]
  simp

/-- Work of the matrix array of a pair that has not retired in its time. -/
def State.late (s : State) (pair : Nat) (o : Op) : Prop :=
  o.matrix ≠ 0 ∧ o.done = false ∧ 2 ^ 24 ≤ clocks (coreOf o.group) (s.clock - o.since) ∧ coreOf o.group / 2 = pair

theorem hungPairs_contains (s : State) (pair : Nat) : s.hungPairs.contains pair = true ↔ ∃ o ∈ s.ops, s.late pair o := by
  rw [List.contains_iff_mem, State.hungPairs, mem_distinct]
  simp only [List.mem_map, List.mem_filter, Bool.and_eq_true, bne_iff_ne, Bool.not_eq_true', decide_eq_true_eq, ge_iff_le, State.late]
  constructor
  · rintro ⟨o, ⟨ho, ⟨hm, hd⟩, ht⟩, hp⟩; exact ⟨o, ho, hm, hd, ht, hp⟩
  · rintro ⟨o, ho, hm, hd, ht, hp⟩; exact ⟨o, ⟨ho, ⟨hm, hd⟩, ht⟩, hp⟩

@[simp] theorem team_post (s : State) (i : Instr) (a : Args) (x : Nat) : (s.post i a).team x = s.team x := by
  unfold State.post; split <;> rfl

theorem mem_agenda_post (s : State) (i : Instr) (a : Args) : (⟨i, a⟩ : Event) ∈ (s.post i a).agenda := by
  unfold State.post
  split
  · exact List.contains_iff_mem.1 ‹_›
  · simp

theorem mem_agenda_post_of_mem {s : State} {x : Event} (i : Instr) (a : Args) (h : x ∈ s.agenda) : x ∈ (s.post i a).agenda := by
  unfold State.post
  split
  · exact h
  · exact List.mem_append_left _ h

/-- Steps each of which changes one team in a way that does nothing twice change the teams named, however often they are named. -/
theorem team_foldl {step : State → Nat → State} {f : Team → Team} (hf : ∀ t, f (f t) = f t)
    (hstep : ∀ s k x, (step s k).team x = if x = k then f (s.team k) else s.team x) (ks : List Nat) (s : State) (x : Nat) :
    (ks.foldl step s).team x = if x ∈ ks then f (s.team x) else s.team x := by
  induction ks generalizing s with
  | nil => simp
  | cons k ks ih =>
    rw [List.foldl_cons, ih, hstep]
    by_cases hx : x = k
    · subst hx; simp [hf]
    · simp [hx]

/-- Tiles whose operation is over are no longer in flight, and as valid as they were. -/
theorem tV_clearFlight (tiles : List (Nat × Nat)) (s : State) (x : Nat) :
    ((tiles.foldl (fun (u : State) e => u.updTeam e.1 fun t => { t with tF := setBit t.tF e.2 false }) s).team x).tV =
      (s.team x).tV := by
  induction tiles generalizing s with
  | nil => rfl
  | cons e tiles ih =>
    rw [List.foldl_cons, ih, team_updTeam]
    by_cases hx : x = e.1
    · subst hx; simp
    · simp [hx]

theorem team_countDown (s : State) (o : Op) (x : Nat) : (s.countDown o).team x = s.team x := by
  unfold State.countDown
  split
  · rfl
  · dsimp only
    split <;> rfl

theorem tV_complete (s : State) (id x : Nat) : ((s.complete id).team x).tV = (s.team x).tV := by
  unfold State.complete
  split
  · rfl
  · rename_i o _
    split
    · rfl
    · rw [team_countDown]
      refine (tV_clearFlight o.tiles _ x).trans ?_
      split <;> rfl

theorem tV_completes (ids : List Nat) (s : State) (x : Nat) : ((ids.foldl State.complete s).team x).tV = (s.team x).tV := by
  induction ids generalizing s with
  | nil => rfl
  | cons id ids ih => rw [List.foldl_cons, ih, tV_complete]

/-- The team has no tile in flight any more, and is to be contained. -/
def State.dropFlight (s : State) (team : Nat) : State :=
  (s.updTeam team fun t => { t with tF := 0 }).post .poisonContainment { a := team, c := 1 }

theorem team_dropFlight (s : State) (k x : Nat) :
    (s.dropFlight k).team x = if x = k then { s.team k with tF := 0 } else s.team x := by
  rw [State.dropFlight, team_post, team_updTeam]

/-- Every team named is to be contained. -/
theorem mem_agenda_dropFlights {ks : List Nat} {x : Nat} (hx : x ∈ ks) (s : State) :
    (⟨.poisonContainment, { a := x, c := 1 }⟩ : Event) ∈ (ks.foldl State.dropFlight s).agenda := by
  have keeps : ∀ (ks : List Nat) (s : State) (e : Event), e ∈ s.agenda → e ∈ (ks.foldl State.dropFlight s).agenda := by
    intro ks
    induction ks with
    | nil => exact fun s e he => he
    | cons k ks ih => exact fun s e he => ih _ e (mem_agenda_post_of_mem _ _ he)
  induction ks generalizing s with
  | nil => cases hx
  | cons k ks ih =>
    rcases List.mem_cons.1 hx with rfl | hx
    · exact keeps ks _ _ (mem_agenda_post _ _ _)
    · exact ih hx _

theorem execMatrixPairReset_idle {s : State} (h : ∀ o ∈ s.ops, ¬ s.late s.ev.a o) : execMatrixPairReset s = .next s := by
  have hno : s.hungPairs.contains s.ev.a = false :=
    Bool.eq_false_iff.2 fun hc => by obtain ⟨o, ho, hl⟩ := (hungPairs_contains s _).1 hc; exact h o ho hl
  simp only [execMatrixPairReset, hno, Bool.not_false, if_true]

/-- The teams on a core of the pair that have a tile in flight. -/
def State.flying (s : State) (pair : Nat) : List Nat :=
  (s.teams.filter fun e => e.2.onCore && e.2.core / 2 == pair && e.2.tF != 0).map (·.1)

theorem mem_flying {s : State} {pair : Nat} {x : Nat × Team} (hx : x ∈ s.teams) (hon : x.2.onCore = true)
    (hcore : x.2.core / 2 = pair) (hF : x.2.tF ≠ 0) : x.1 ∈ s.flying pair :=
  List.mem_map.2 ⟨x, List.mem_filter.2 ⟨hx, by simpa [hon, hcore] using hF⟩, rfl⟩

/-- A tile in flight holds nothing valid any more. -/
def Team.loseFlight (t : Team) : Team := { t with tV := t.tV &&& ~~~t.tF }

theorem loseFlight_twice (t : Team) : t.loseFlight.loseFlight = t.loseFlight := by
  simp [Team.loseFlight, BitVec.and_assoc]

/-- A pair that hangs is reset: the teams with tiles in flight lose them, the work on the tiles completes, and the teams are to be
contained. -/
theorem execMatrixPairReset_eq {s : State} (h : ∃ o ∈ s.ops, s.late s.ev.a o) : ∃ (ops : List Op) (ids : List Nat),
    execMatrixPairReset s = .next ((s.flying s.ev.a).foldl State.dropFlight (ids.foldl State.complete
      { (s.flying s.ev.a).foldl (fun (u : State) team => u.updTeam team Team.loseFlight) s with ops := ops })) := by
  have hyes : s.hungPairs.contains s.ev.a = true := (hungPairs_contains s _).2 h
  rw [execMatrixPairReset, if_neg (by rw [hyes]; decide)]
  exact ⟨_, _, rfl⟩

/-- Every team with a tile in flight on a core of the pair has lost those tiles, and is to be contained. -/
theorem execMatrixPairReset_hung {s : State} (h : ∃ o ∈ s.ops, s.late s.ev.a o) :
    ∃ t : State, execMatrixPairReset s = .next t ∧
      ∀ x ∈ s.teams, x.2.onCore = true → x.2.core / 2 = s.ev.a → x.2.tF ≠ 0 →
        (t.team x.1).tV = (s.team x.1).tV &&& ~~~(s.team x.1).tF ∧ (t.team x.1).tF = 0 ∧
        ⟨.poisonContainment, { a := x.1, c := 1 }⟩ ∈ t.agenda := by
  obtain ⟨ops, ids, heq⟩ := execMatrixPairReset_eq h
  refine ⟨_, heq, fun x hx hon hcore hF => ?_⟩
  have hin := mem_flying hx hon hcore hF
  have hlost : (((s.flying s.ev.a).foldl (fun (u : State) team => u.updTeam team Team.loseFlight) s).team x.1) =
      (s.team x.1).loseFlight := by
    rw [team_foldl loseFlight_twice (fun u k j => team_updTeam u k j _), if_pos hin]
  rw [team_foldl (step := State.dropFlight) (f := fun t => { t with tF := 0 }) (fun _ => rfl) team_dropFlight, if_pos hin]
  refine ⟨?_, rfl, mem_agenda_dropFlights hin _⟩
  exact (tV_completes ids _ x.1).trans (congrArg Team.tV hlost)

/-! Handlers at once, and stops without one. -/

/-- In the ladder's absence a waiting stop whose turn it is gets the handler of its cause. -/
theorem routeNext_handler {s : State} {k e slot : Nat} {kernel : HKernel} (hstop : (s.dequeueStop k e).isStop k e = true)
    (hesc : (s.ctx (s.group k).ctx).escal = none) (hdbg : (s.group k).summary ((s.group k).path e).mask ≠ 15)
    (hbit : bit (s.ctx (s.group k).ctx).fltcfg 0 = false)
    (hk : (s.ctx (s.group k).ctx).handler ((s.group k).summary ((s.group k).path e).mask) = some kernel)
    (hfit : kernel.fits = true) (hframes : (s.dequeueStop k e).framesFull k = false)
    (hslot : (s.dequeueStop k e).freeHandler k = some slot) :
    s.routeNext (k, e) = (s.dequeueStop k e).spawn slot ((s.dequeueStop k e).capFor k e) kernel := by
  rw [routeNext_stop hstop, route_handler (s := s.dequeueStop k e) hesc hdbg hbit hk]
  exact spawnFor_free hfit hframes hslot

/-- The trap stack has room for a group that is no handler, and for one whose root has fewer than four frames (R182). -/
theorem framesFull_eq_false {s : State} {k : Nat} (h : (s.group k).isHandler = false ∨ s.framesOf (s.rootOf 8 k) < 4) :
    s.framesFull k = false := by
  rcases h with h | h
  · simp [State.framesFull, h]
  · simp [State.framesFull, h]

/-- Settles O56: a stop by the queue and its route, the ladder by the first rung that has a handler, escalation and containment by the
course of each, the reset of a pair by what each of its steps does to a team. -/
theorem stopAndContainmentEvents : Obligations.StopAndContainmentEvents := by
  unfold Obligations.StopAndContainmentEvents
  intro s e k g c p sum leaves held queued u raised
  refine ⟨execHandlerSpawn_noStop, fun hstop hneeds => ⟨execHandlerSpawn_waits hstop hneeds, fun x hnext => ?next, ?handler, ?rung⟩,
    fun r kernel hr => ⟨rungFrom_some hr, ?frozen⟩, ?direct, execEscalation_frozen, ?escalated, fun x hx => execEscalationTimeout_eq hx,
    ?rungTimeout, ?contained, fun hc hon hn => ?tiles, fun hno => ?idle, fun hlate => execMatrixPairReset_hung hlate⟩
  case next => exact execHandlerSpawn_next hstop hneeds hnext
  case handler =>
    intro kernel slot hnext hu hfit hframes hesc hdbg hbit hk hslot
    have hqueued : s.queued k e.b = s.enqueueStop k e.b := by
      rw [State.queued, if_neg (ne_true_of_eq_false hbit)]
    have hfull : ((s.queued k e.b).dequeueStop k e.b).framesFull k = false :=
      framesFull_eq_false (hframes.imp_left fun h => by rw [hqueued]; exact h)
    refine (execHandlerSpawn_next hstop hneeds hnext).trans (congrArg _ (routeNext_handler hu ?_ ?_ ?_ ?_ hfit hfull hslot)) <;>
      rw [hqueued]
    · exact hesc
    · exact hdbg
    · exact hbit
    · exact hk
  case rung =>
    intro kernel slot r v hnext hu hfit hfull hesc hdbg hctx hbit hr hslot
    rw [← hctx] at hesc hbit hr
    have hroute : u.route k e.b = u.climb k e.b 4 := route_ladder hesc hdbg hbit
    exact (execHandlerSpawn_next hstop hneeds hnext).trans (congrArg _ ((routeNext_stop hu).trans
      (hroute.trans ((climb_rung hr).trans (spawnFor_free hfit hfull hslot)))))
  case frozen => exact (freezeRung_of hr).trans rfl
  case direct =>
    intro v hstop hv hesc h12 h14 hdbg hbit hown hany hroot
    have hneeds : s.needsSlot k e.b = false := by
      rw [State.needsSlot, handlerFor_none hesc hdbg hbit h12 hown hany]; rfl
    have hroute : v.route k e.b = v.escalate g.ctx (some (v.capFor k e.b)) none 4 :=
      route_escalates (s := v) hesc hdbg hbit h12 hown hany h14
    exact (execHandlerSpawn_direct hneeds).trans (congrArg _ ((routeNext_stop hv).trans
      (hroute.trans (escalate_root (s := v) (h := v.capFor k e.b) hroot _ _))))
  case escalated => exact fun hused hfrozen hroot => (execEscalation_frozen hused hfrozen).trans (congrArg _ (escalate_root hroot _ _))
  case rungTimeout =>
    intro h hcap hrung t ht hdue j x hheld v
    have hev := execRungTimeout_due hcap hrung ht hdue hheld
    refine ⟨fun hsome => hev.trans (congrArg _ (if_neg (mt Option.isNone_iff_eq_none.1 hsome))), fun hnone hctx hat => ?_⟩
    refine hev.trans (congrArg _ ((if_pos (Option.isNone_iff_eq_none.2 hnone)).trans ?_))
    exact (climb_past (s := v) (by rw [hctx, hat]; exact hnone)).trans (by rw [hctx])
  case contained =>
    intro hc hstop hsum again
    have hev := execPoisonContainment_stop hc hstop hsum
    exact ⟨fun hn hctx => hev.trans (congrArg _ (contain_kill _ hn hctx)),
      fun n v w hn hr hw => hev.trans (congrArg _ (contain_rewound _ _ hn hr hw)),
      fun n v w hn hr h0 h7 hctx => hev.trans (congrArg _ (contain_refused _ hn hr h0 h7 hctx)),
      fun n v w q hn hctx hq hr hw => hev.trans (congrArg _ (contain_ctx _ hn hctx hq hr hw)),
      fun n v hn hr => hev.trans (congrArg _ (contain_waits _ _ hn hr))⟩
  case tiles => exact (execPoisonContainment_tiles hc hon).trans (congrArg _ (contain_teamOnly _ hn))
  case idle => exact execMatrixPairReset_idle hno

end Sys2Proof.Machine
end

section
/-! The frame of a store to memory (R194, R335), where the context takes no log entries. -/

namespace Sys2Proof.Machine

/-- The bytes of the state stand in canonical form, and the context of a group takes no log entries. -/
structure Unlogged (s : State) (k : Nat) : Prop extends BytesOk s where
  quiet : (s.ctx (s.group k).ctx).logging = false

theorem unlogged_setBytes {s : State} {k : Nat} (l : Loc) (bs : List Byte) (h : Unlogged s k) : Unlogged (s.setBytes l bs) k := by
  obtain ⟨hgroups, hctxs, -⟩ := setBytes_others bs s l false
  refine ⟨bytesOk_setBytes bs l false h.toBytesOk, ?_⟩
  simpa only [State.group, State.ctx, hgroups, hctxs] using h.quiet

section
variable (kind : Nat) {r : PathRef} (data : Nat → List Byte)

/-- Without a log the first lane's store is a write of its bytes. -/
theorem storeLanes_cons {s : State} (h : Unlogged s r.group) (e : Nat × Loc) (locs : List (Nat × Loc)) :
    storeLanes kind r data (e :: locs) s = storeLanes kind r data locs (s.setBytes e.2 (data e.1)) := by
  simp only [storeLanes, List.foldl_cons, store_unlogged _ _ _ _ h.quiet]

theorem storeLanes_append (s : State) (pre post : List (Nat × Loc)) :
    storeLanes kind r data (pre ++ post) s = storeLanes kind r data post (storeLanes kind r data pre s) :=
  List.foldl_append

theorem unlogged_storeLanes {s : State} (h : Unlogged s r.group) (locs : List (Nat × Loc)) :
    Unlogged (storeLanes kind r data locs s) r.group := by
  induction locs generalizing s with
  | nil => exact h
  | cons e locs ih =>
    rw [storeLanes_cons kind data h]
    exact ih (unlogged_setBytes _ _ h)

/-- Stores change no group, no context and no operation in flight. -/
theorem storeLanes_others {s : State} (h : Unlogged s r.group) (locs : List (Nat × Loc)) :
    let t := storeLanes kind r data locs s
    t.groups = s.groups ∧ t.ctxs = s.ctxs ∧ t.ops = s.ops := by
  induction locs generalizing s with
  | nil => exact ⟨rfl, rfl, rfl⟩
  | cons e locs ih =>
    obtain ⟨hgroups, hctxs, hops⟩ := ih (unlogged_setBytes e.2 (data e.1) h)
    obtain ⟨hgroups', hctxs', hops'⟩ := setBytes_others (data e.1) s e.2 false
    rw [storeLanes_cons kind data h]
    exact ⟨hgroups.trans hgroups', hctxs.trans hctxs', hops.trans hops'⟩

/-- A byte to which no lane stores reads as before. -/
theorem byteAt_storeLanes_other {s : State} (h : Unlogged s r.group) (locs : List (Nat × Loc)) {x : Loc} (hx : x.NoAcc)
    (hn : ∀ e ∈ locs, ∀ i, i < (data e.1).length → e.2.plus i ≠ x) : (storeLanes kind r data locs s).byteAt x = s.byteAt x := by
  induction locs generalizing s with
  | nil => rfl
  | cons e locs ih =>
    rw [storeLanes_cons kind data h, ih (unlogged_setBytes _ _ h) fun e' he' => hn e' (List.mem_cons_of_mem e he')]
    exact byteAt_setBytes_other (data e.1) e.2 x false h.toBytesOk hx (.inr (.inr (hn e List.mem_cons_self)))

/-- A byte of a lane's run to which no later lane stores holds what the lane stored. -/
theorem byteAt_storeLanes_last {s : State} (h : Unlogged s r.group) (pre post : List (Nat × Loc)) (l : Nat) {x : Loc} (hx : x.Plain)
    {i : Nat} (hi : i < (data l).length) (hpost : ∀ e ∈ post, ∀ j, j < (data e.1).length → e.2.plus j ≠ x.plus i) :
    (storeLanes kind r data (pre ++ (l, x) :: post) s).byteAt (x.plus i) = (data l).getD i 0 := by
  have hpre := unlogged_storeLanes kind data h pre
  rw [storeLanes_append, storeLanes_cons kind data hpre,
    byteAt_storeLanes_other kind data (unlogged_setBytes _ _ hpre) post (plus_plain i hx).1 hpost]
  exact byteAt_setBytes_same (data l) x false hpre.toBytesOk hx i hi

end

/-- Settles O32, by induction over the lanes: each store writes its own run of bytes, and the runs of the lanes behind it leave a byte
that none of them holds. -/
theorem storesChangeOnlyTheirBytes : Obligations.StoresChangeOnlyTheirBytes := by
  unfold Obligations.StoresChangeOnlyTheirBytes
  intro s r kind data locs t c stored hmem hhmem hpad hquiet
  have h : Unlogged s r.group := ⟨⟨hmem, hhmem, hpad⟩, hquiet⟩
  have hother {x : Loc} (hx : x.NoAcc) (hn : ¬ stored x) : t.byteAt x = s.byteAt x :=
    byteAt_storeLanes_other kind data h locs hx fun e he i hi hp => hn ⟨e, he, i, hi, hp⟩
  refine ⟨fun pa => hother nofun, fun pa => hother nofun, fun k off => hother nofun, ?last, storeLanes_others kind data h locs⟩
  case last =>
    rintro l x pre post hlocs hacc hlost hgone i hi hpost
    have hlast := byteAt_storeLanes_last kind data h pre post l ⟨hacc, hlost, hgone⟩ hi hpost
    rwa [← hlocs] at hlast

end Sys2Proof.Machine
end

section
/-! The debugger's commands (R199, R202, R204, R205, R208, R209, R266, R356), on an attached context. -/

namespace Sys2Proof.Machine

/-- With operands that do not pass, a command ends with status 1 (R264). -/
theorem mailbox_refused {s : State} {i : Instr} {stage : Nat} {named : List (Nat × Nat)} (hc : Commanded s i stage named)
    (ok : State → Nat → Bool) (eff : State → Nat → State) (hok : ok s s.host.cmdCtx = false) :
    mailbox i stage named ok eff s = .next (s.mbEnd 1) := by
  have hstage : ¬ s.host.stage < stage := Nat.not_lt.2 hc.stage
  simp [mailbox, hc.command, hstage, hok]

theorem pcOk_iff {x : DWord} : pcOk x = true ↔ fld x 63 55 = 0 ∧ fld x 1 0 = 0 := by simp [pcOk]

/-- A vector register that is pending in no lane of a mask holds READ up in none of them (R291). -/
theorem frPending_vector {g : Group} {i : Nat} {m : BitVec 32} (h : ∀ l ∈ lanesOf m, bit (g.lane l).vPend i = false) :
    g.frPending 0 i m = false :=
  List.any_eq_false.2 fun l hl => by simp [h l hl]

section
variable {s t : State}

theorem execAttach_ok (hc : Commanded s .attach 1 []) (hfree : (s.ctx s.host.cmdCtx).attached = false) :
    execAttach s = .next ((s.updCtx s.host.cmdCtx fun c => { c with attached := true }).mbEnd 0) :=
  mailbox_ok hc _ _ (by simp [hfree])

section
variable (ha : (s.ctx s.host.cmdCtx).attached = true)
include ha

/-- With legal operands a debugger's command takes its effect on an attached context. -/
theorem boroivi_ok {i : Instr} {named : List (Nat × Nat)} (hc : Commanded s i 1 named) (ok : State → Nat → Bool)
    (eff : State → Nat → State) (hok : ok s s.host.cmdCtx = true) :
    boroivi i named ok eff s = .next (eff s s.host.cmdCtx) :=
  mailbox_ok hc _ eff (by simp [ha, hok])

/-! Debug registers (R208). -/

/-- SETREG writes a register that takes the value. -/
theorem execSetreg_ok {kind : Nat} (hkind : s.host.num 0 1 = kind) (hi : s.host.num 1 1 ≤ 15)
    (hok : (s.ctx s.host.cmdCtx).debugRegOk kind (s.host.num 1 1) (BitVec.ofNat 64 (s.host.num 8 8)) = true)
    (hc : Commanded s .setreg 1 [(0, 2), (8, 8)]) :
    execSetreg s = .next ((s.updCtx s.host.cmdCtx fun c =>
      c.setDebugReg kind (s.host.num 1 1) (BitVec.ofNat 64 (s.host.num 8 8))).mbEnd 0) := by
  subst hkind
  exact boroivi_ok ha hc _ _ (by simp [hi, hok])

/-! FREEZE, RESUME and STEP. -/

/-- FREEZE of a context freezes its groups, and those in its images (log 23). -/
theorem execFreeze_ctx (hc : Commanded s .freeze 1 [(0, 1), (4, 6)]) (h0 : s.host.num 0 1 = 0) :
    execFreeze s = .next (((s.suspend (s.ctxGroups s.host.cmdCtx) .debugger).updCtx s.host.cmdCtx fun c =>
      c.mapImages fun _ g => g.mapPaths (·.suspend .debugger s.clock)).mbEnd 0) := by
  rw [execFreeze, boroivi_ok ha hc _ _ (by simp [State.freezeOk, h0])]
  simp only [h0]

theorem execFreeze_path {r : PathRef} (hc : Commanded s .freeze 1 [(0, 1), (4, 6)])
    (ho : s.host.num 0 1 = 2 ∧ s.namedPath s.host.cmdCtx = some r) :
    execFreeze s = .next ((s.updPath r (·.suspend .debugger s.clock)).mbEnd 0) := by
  obtain ⟨h2, hr⟩ := ho
  rw [execFreeze, boroivi_ok ha hc _ _ (by simp [State.freezeOk, h2, hr])]
  simp only [h2, hr]

/-- RESUME lets go the named lanes of an entry that the debugger holds. -/
theorem execResume_ok {r : PathRef} (hc : Commanded s .resume 1 [(4, 6), (12, 4)])
    (ho : s.debugFrozen s.host.cmdCtx = some r ∧ s.host.mask &&& ~~~(s.path r).mask = 0#32) :
    let g := s.group r.group
    let u := s.setGroup r.group (g.letGo r.path s.host.mask s.clock)
    execResume s = .next ((if s.isStop r.group r.path && u.isStop r.group g.emptyEntry
      then u.post .handlerSpawn { a := r.group, b := g.emptyEntry } else u).mbEnd 0) := by
  obtain ⟨hr, hm⟩ := ho
  rw [execResume, boroivi_ok ha hc _ _ (by simp [hr, hm])]
  simp only [hr]

theorem execStep_ok {r : PathRef} (hc : Commanded s .step 1 [(4, 6)]) (hr : s.steppable s.host.cmdCtx = some r) :
    execStep s = .next ((s.updGroup r.group fun g => g.beginStep r.path (g.path r.path).mask .debugger).mbEnd 0) := by
  rw [execStep, boroivi_ok ha hc _ _ (by simp [hr])]
  simp only [hr]

/-! RSTEP (R205). -/

section
variable {k : Nat} (hc : Commanded s .rstep 1 [(4, 5), (12, 12)])
  (ho : s.namedGroup s.host.cmdCtx = some k ∧ s.rstepOk s.host.cmdCtx = true)
include hc ho

/-- RSTEP ends with the word of its rewind, and replays where the rewind was accepted. -/
theorem execRstep_ends {w : Word} (hr : s.rewind s.host.cmdCtx (some (s.replayOf s.host.cmdCtx k).team) none
      (BitVec.ofNat 32 (s.host.num 16 4)) false = (t, some w)) :
    let x := s.replayOf s.host.cmdCtx k
    execRstep s = .next (
      if fld w 7 0 = 0 then (t.beginReplay s.host.cmdCtx ((t.groupAt x.team x.gid).getD k) x).mbDone 0 (bytesOfNat 4 0)
      else t.mbDone 0 (bytesOfNat 4 w.toNat)) := by
  obtain ⟨hk, hok⟩ := ho
  rw [execRstep, boroivi_ok ha hc _ _ hok]
  simp only [hk, hr, bne_iff_ne, ite_not]

theorem execRstep_waits (hr : s.rewind s.host.cmdCtx (some (s.replayOf s.host.cmdCtx k).team) none
      (BitVec.ofNat 32 (s.host.num 16 4)) false = (t, none)) : execRstep s = .next t.mbWait := by
  obtain ⟨hk, hok⟩ := ho
  rw [execRstep, boroivi_ok ha hc _ _ hok]
  simp only [hk, hr]

end

/-! WINDOW (R199, R356). -/

section
variable {u : State} (hu : s.suspend (s.ctxGroups s.host.cmdCtx) .management = u)
  (hc : Commanded s .boroiviWindow 1 [])
include hu hc

/-- WINDOW waits for the accesses of the teams that it freezes. -/
theorem execBoroiviWindow_waits (hq : u.quiet (u.ctxTeams s.host.cmdCtx) = false) : execBoroiviWindow s = .next u.mbWait := by
  rw [execBoroiviWindow, boroivi_ok ha hc _ _ rfl]
  simp only [hu, hq, Bool.not_false, if_true]

/-- Then, with room for its entries, it opens a window with a snapshot of every live team where the log runs. -/
theorem execBoroiviWindow_opens (hq : u.quiet (u.ctxTeams s.host.cmdCtx) = true)
    (ht : u.reserve s.host.cmdCtx (1 + (u.liveImages s.host.cmdCtx (u.ctx s.host.cmdCtx).nextWin.toNat).foldl
      (fun a i => a + i.pieces) 0) = some t) :
    let no := (u.ctx s.host.cmdCtx).nextWin
    execBoroiviWindow s = .next (
      if (t.ctx s.host.cmdCtx).logging then
        (((t.updLog s.host.cmdCtx fun c => c.openWindow 0 3).snapshotAll s.host.cmdCtx
          (u.liveImages s.host.cmdCtx no.toNat)).thaw s.host.cmdCtx).mbDone 0 (bytesOfNat 4 no.toNat)
      else (t.thaw s.host.cmdCtx).mbDone 0 (bytesOfNat 4 0xFFFFFFFF)) := by
  rw [execBoroiviWindow, boroivi_ok ha hc _ _ rfl]
  simp only [hu, hq, ht, Bool.not_true, Bool.not_eq_true', Bool.false_eq_true, if_false]
  simp only [← Bool.not_eq_true, ite_not]

end

/-! READ and WRITE. -/

section
variable {k e cls i : Nat} (hf : s.frozenArgs s.host.cmdCtx = some (k, e)) (hcls : s.host.num 9 1 = cls)
  (hi : s.host.num 10 1 = i)
include hf hcls

section
variable (hc : Commanded s .read 1 [(4, 7), (12, 4)])
  (hp : (s.group k).frPending cls i s.host.mask = false)
include hi hc hp

/-- READ of a lane class gives the values of the lanes, each at its place. -/
theorem execRead_lanes (hl : laneClass cls = true) :
    execRead s = .next (((lanesOf s.host.mask).foldl (fun (u : State) l => u.updHost fun h =>
      h.setBuf (64 + 8 * l) (((s.group k).lane l).frRead cls i)) s).mbEnd 0) := by
  rw [execRead, boroivi_ok ha hc _ _ (by simp [hf])]
  simp only [hf, hcls, hi, hp, hl, Bool.false_eq_true, if_false, if_true]

/-- READ of another class gives one value. -/
theorem execRead_whole (hl : laneClass cls = false) :
    execRead s = .next (s.mbDone 64 ((s.group k).frRead ((s.group k).path e) cls i)) := by
  rw [execRead, boroivi_ok ha hc _ _ (by simp [hf])]
  simp only [hf, hcls, hi, hp, hl, Bool.false_eq_true, if_false]

end

section
variable (hc : Commanded s .write 1 [(4, 7), (12, 4)])
include hc

omit ha in
/-- Flags and fault addresses are read only (R291). -/
theorem execWrite_refused (hro : cls = 6 ∨ cls = 8) : execWrite s = .next (s.mbEnd 1) := by
  have hbad : (cls != 6 && cls != 8) = false := by rcases hro with rfl | rfl <;> rfl
  rw [execWrite, boroivi, mailbox_refused hc _ _ (by simp only [hf, hcls, hbad, Bool.false_and, Bool.and_false])]

include hi

/-- WRITE of a lane class, of values that it takes. -/
theorem execWrite_lanes (hrw : (cls != 6 && cls != 8) = true) (hl : laneClass cls = true)
    (hv : ∀ l ∈ lanesOf s.host.mask, frValueOk cls ((s.group k).path e) (s.host.frValue cls l) = true) :
    execWrite s = .next (((lanesOf s.host.mask).foldl (fun (u : State) l =>
      u.frWriteLane k cls i l (loWord (s.host.frValue cls l))) s).mbEnd 0) := by
  rw [execWrite, boroivi_ok ha hc _ _ (by simp only [hf, hcls, hrw, hl, if_true, Bool.true_and]; exact List.all_eq_true.2 hv)]
  simp only [hf, hcls, hi, hl, if_true]

/-- WRITE of another class, of a value that it takes. -/
theorem execWrite_whole (hrw : (cls != 6 && cls != 8) = true) (hl : laneClass cls = false)
    (hv : frValueOk cls ((s.group k).path e) (s.host.frValue cls 0) = true) :
    execWrite s = .next ((s.frWriteWhole k e cls i (s.host.frValue cls 0)).mbEnd 0) := by
  rw [execWrite, boroivi_ok ha hc _ _ (by
    simp only [hf, hcls, hrw, hl, hv, Bool.false_eq_true, if_false, List.all_cons, List.all_nil, Bool.and_self])]
  simp only [hf, hcls, hi, hl, Bool.false_eq_true, if_false]

end
end

/-! REWIND (R202, R204). -/

/-- What a rewind that was made froze is the debugger's to resume. -/
def State.heldFor (t : State) (w : Word) (ks : List Nat) : State := if fld w 7 0 = 0 ∨ fld w 7 0 = 7 then t.toDebugger ks else t

/-- A team that REWIND can name: it has been placed, and is not in an image. -/
structure Rewindable (s : State) : Prop where
  tid    : s.host.tid < 4194304
  placed : (s.team (teamKey s.host.cmdCtx s.host.tid)).stage ≠ .none
  here   : (s.team (teamKey s.host.cmdCtx s.host.tid)).stage ≠ .saved

section
variable (hc : Commanded s .boroiviRewind 1 [(0, 1), (4, 4), (16, 4)])
include hc

section
variable (hflag : s.host.num 0 1 ≤ 1) (ho : Rewindable s) {w : Option Word}
  (hr : s.rewind s.host.cmdCtx (some (teamKey s.host.cmdCtx s.host.tid)) none (BitVec.ofNat 32 (s.host.num 16 4))
    (s.host.num 0 1 == 1) = (t, w))
include hflag ho hr

/-- REWIND of a team, which flag 1 forces, ends with the word of the rewind, or waits. -/
theorem execBoroiviRewind_team : execBoroiviRewind s = .next (w.elim t.mbWait fun w =>
    (t.heldFor w (t.teamGroups (teamKey s.host.cmdCtx s.host.tid))).mbDone 0 (bytesOfNat 4 w.toNat)) := by
  have hteam : ¬ s.host.num 0 1 / 2 = 1 := by omega
  have hforce : s.host.num 0 1 % 2 = s.host.num 0 1 := by omega
  have hle : s.host.num 0 1 ≤ 3 := by omega
  rw [execBoroiviRewind, boroivi_ok ha hc _ _ (by simp [hle, hteam, ho.tid, ho.placed, ho.here])]
  simp only [hteam, hforce, if_false, hr]
  cases w <;> rfl

end

/-- REWIND of the context, which flag 3 forces. -/
theorem execBoroiviRewind_ctx {w : Word} (hflag : s.host.num 0 1 = 2 ∨ s.host.num 0 1 = 3) (htid : s.host.tid = 0)
    (hr : s.rewind s.host.cmdCtx none none (BitVec.ofNat 32 (s.host.num 16 4)) (s.host.num 0 1 == 3) = (t, some w)) :
    execBoroiviRewind s = .next ((t.heldFor w (t.ctxGroups s.host.cmdCtx)).mbDone 0 (bytesOfNat 4 w.toNat)) := by
  have hwhole : s.host.num 0 1 / 2 = 1 := by omega
  have hforce : (s.host.num 0 1 % 2 == 1) = (s.host.num 0 1 == 3) := by rcases hflag with h | h <;> rw [h] <;> rfl
  have hle : s.host.num 0 1 ≤ 3 := by omega
  rw [execBoroiviRewind, boroivi_ok ha hc _ _ (by simp [hle, hwhole, htid])]
  simp only [hwhole, hforce, if_true, hr, State.heldFor]

end

/-! MEMREAD and MEMWRITE. -/

section
variable (hlt : s.host.num 0 8 < 2 ^ 63) (hlow : 1 ≤ s.host.num 8 4) (hhigh : s.host.num 8 4 ≤ 3072)
include hlt hlow hhigh

omit ha in
theorem memArgsOk_of : s.host.memArgsOk = true := by
  simp only [Mgmt.memArgsOk, hlt, hlow, hhigh, decide_true, Bool.and_self]

theorem execMemread_ok {segs : List (Loc × Nat)} (hc : Commanded s .memread 1 [(0, 12)])
    (hr : s.readRegion (distributor s.host.cmdCtx) 1 (BitVec.ofNat 64 (s.host.num 0 8)) (s.host.num 8 4) = (t, .ok segs)) :
    execMemread s = .next (t.mbDone 1024 (t.segBytes segs)) := by
  rw [execMemread, boroivi_ok ha hc (fun s _ => s.host.memArgsOk) _ (memArgsOk_of hlt hlow hhigh)]
  simp only [hr]

theorem execMemwrite_ok {ls : List Loc} (hc : Commanded s .memwrite 1 [(0, 12)])
    (hw : State.hostPlaces s.host.cmdCtx (s.host.num 8 4) (BitVec.ofNat 64 (s.host.num 0 8)) s = (t, some ls)) :
    execMemwrite s = .next (((ls.zip (t.host.buf 1024 (t.host.num 8 4))).foldl (fun (u : State) e => u.hostPut e.1 e.2) t).mbEnd 0) := by
  rw [execMemwrite, boroivi_ok ha hc (fun s _ => s.host.memArgsOk) _ (memArgsOk_of hlt hlow hhigh)]
  simp only [hw]

end
end
end

/-- Settles O53: each command by the common course of the mailbox on an attached context, with the operands that it names. -/
theorem boroiviResults : Obligations.BoroiviResults := by
  unfold Obligations.BoroiviResults
  intro s t r k e h ctx c n runs ended waits gave onCtx
  have commanded {i named ok u} (hrun : Commanded s i 1 named → ok → exec i s = .next u) : runs i named ok u :=
    fun hcmd hstage hzero hctx => hrun ⟨hcmd, hstage, hzero, hctx⟩
  refine ⟨commanded execAttach_ok, fun ha => ⟨commanded fun hc _ => ?detach, ?setreg, commanded (execFreeze_ctx ha),
    commanded (execFreeze_path ha), commanded (execResume_ok ha), commanded (execStep_ok ha),
    ⟨fun w hr => commanded fun hc ho => execRstep_ends ha hc ho hr, fun hr => commanded fun hc ho => execRstep_waits ha hc ho hr⟩,
    ?window, commanded fun hc hq => execBoroiviWindow_waits ha rfl hc hq, ?frozen, ?rewind, fun hlt hlow hhigh =>
      ⟨fun segs => commanded (execMemread_ok ha hlt hlow hhigh), fun ls => commanded (execMemwrite_ok ha hlt hlow hhigh)⟩⟩⟩
  case detach => exact (boroivi_ok ha hc _ _ rfl : execDetach s = _)
  case setreg =>
    intro v sets i
    have written {kind : Nat} {ok : Prop} (hok : ok → c.debugRegOk kind i v = true) : sets kind ok fun c => c.setDebugReg kind i v :=
      commanded fun hc ⟨hkind, hi, hlegal⟩ => execSetreg_ok ha hkind hi (hok hlegal) hc
    exact ⟨written (kind := 0) pcOk_iff.2, written (kind := 1) fun h => by simp [Ctx.debugRegOk, h],
      written (kind := 2) fun h => by simp [Ctx.debugRegOk, h], written (kind := 3) fun _ => rfl,
      written (kind := 4) fun h => by simp [Ctx.debugRegOk, Ctx.wpAligned, h],
      written (kind := 5) fun h => by simp [Ctx.debugRegOk, h], written (kind := 6) fun h => by simp [Ctx.debugRegOk, h],
      written (kind := 7) fun _ => rfl⟩
  case window =>
    intro u hq no ims ht
    exact ⟨commanded fun hc hlog => (execBoroiviWindow_opens ha rfl hc hq ht).trans (congrArg _ (if_pos hlog)),
      commanded fun hc hlog => (execBoroiviWindow_opens ha rfl hc hq ht).trans (congrArg _ (if_neg (ne_true_of_eq_false hlog)))⟩
  case frozen =>
    intro cls i g m hf reads lanes
    have readLanes {v : Nat} {ok : Prop} (hl : laneClass v = true) (hv : ok → cls = v ∧ g.frPending v i m = false) :
        reads ok (ended (lanes fun ln => ln.frRead v i) 0) :=
      commanded fun hc hok => have ⟨hcls, hp⟩ := hv hok; execRead_lanes ha hf hcls rfl hc hp hl
    have readWhole {v j : Nat} {ok : Prop} (hl : laneClass v = false) (hv : ok → cls = v ∧ i = j ∧ g.frPending v j m = false) :
        reads ok (gave s 64 (g.frRead (g.path e) v j)) :=
      commanded fun hc hok => have ⟨hcls, hi, hp⟩ := hv hok; execRead_whole ha hf hcls hi hc hp hl
    refine ⟨readLanes (v := 0) rfl fun ⟨hcls, hp⟩ => ⟨hcls, frPending_vector hp⟩, readLanes (v := 2) rfl fun hcls => ⟨hcls, rfl⟩,
      readLanes (v := 8) rfl fun hcls => ⟨hcls, rfl⟩, readLanes (v := 7) rfl fun hcls => ⟨hcls, rfl⟩,
      readWhole (v := 1) rfl fun ⟨hcls, hp⟩ => ⟨hcls, rfl, hp⟩, readWhole (v := 3) (j := 0) rfl fun ⟨hcls, hi⟩ => ⟨hcls, hi, rfl⟩,
      readWhole (v := 3) (j := 1) rfl fun ⟨hcls, hi⟩ => ⟨hcls, hi, rfl⟩, readWhole (v := 4) rfl fun hcls => ⟨hcls, rfl, rfl⟩,
      readWhole (v := 5) rfl fun hcls => ⟨hcls, rfl, rfl⟩, readWhole (v := 6) rfl fun hcls => ⟨hcls, rfl, rfl⟩, ?write⟩
    case write =>
      intro writes value whole first
      have writeWhole {v j : Nat} {ok : Prop} (hrw : (v != 6 && v != 8) = true) (hl : laneClass v = false)
          (hv : ok → cls = v ∧ i = j ∧ frValueOk v (g.path e) (h.frValue v 0) = true) :
          writes ok (s.frWriteWhole k e v j (h.frValue v 0)) :=
        commanded fun hc hok => have ⟨hcls, hi, hvalue⟩ := hv hok; execWrite_whole ha hf hcls hi hc hrw hl hvalue
      have writeLanes : writes (cls = 0) ((lanesOf m).foldl (fun (u : State) l =>
          u.frWriteLane k 0 i l (loWord (h.frValue 0 l))) s) :=
        commanded fun hc hcls => execWrite_lanes ha hf hcls rfl hc rfl rfl fun _ _ => rfl
      exact ⟨writeLanes, writeWhole (v := 1) rfl rfl fun hcls => ⟨hcls, rfl, rfl⟩,
        writeWhole (v := 3) (j := 0) rfl rfl fun ⟨hcls, hi, hpc⟩ => ⟨hcls, hi, pcOk_iff.2 hpc⟩,
        writeWhole (v := 3) (j := 1) rfl rfl fun ⟨hcls, hi, hpc⟩ => ⟨hcls, hi, pcOk_iff.2 hpc⟩,
        commanded fun hc hcls => execWrite_refused hf rfl hc hcls,
        writeWhole (v := 5) rfl rfl fun ⟨hcls, hmode⟩ => ⟨hcls, rfl, hmode⟩⟩
  case rewind =>
    intro f w word named held x
    exact ⟨fun hr => commanded fun hc ⟨hflag, htid, hplaced, hhere⟩ =>
        execBoroiviRewind_team ha hc hflag ⟨htid, hplaced, hhere⟩ hr,
      fun hr => commanded fun hc ⟨hflag, htid, hplaced, hhere⟩ =>
        execBoroiviRewind_team ha hc hflag ⟨htid, hplaced, hhere⟩ hr,
      fun hr => commanded fun hc ⟨hflag, htid⟩ => execBoroiviRewind_ctx ha hc hflag htid hr⟩

end Sys2Proof.Machine
end

section
/-! The tile moves and the row instructions of attention (R217, R228 to R230, R339, R340), on a tile that is not in flight. -/

namespace Sys2Proof.Machine

/-! The rows (R230). -/

/-- A fold that appends to a list what its element gives, and updates a value beside it, does the two apart. -/
theorem foldl_append_pair {α β γ : Type} {step : List β × γ → α → List β × γ} {f : α → β} {g : γ → α → γ}
    (h : ∀ acc x, step acc x = (acc.1 ++ [f x], g acc.2 x)) (xs : List α) (ys : List β) (z : γ) :
    xs.foldl step (ys, z) = (ys ++ xs.map f, xs.foldl g z) := by
  induction xs generalizing ys z with
  | nil => simp
  | cons x xs ih => simp [h, ih]

/-- TEXPSUB on one row: the codes are those of the elements, each by itself, and the sum takes the value of each code in their order. -/
theorem expSubStep_eq (half : Bool) (c m l : Word) (xs : List Word) :
    let f := if half then fmt16 else fmtB16
    let code (x : Word) : Nat :=
      let y := fmul32 c x
      (f.write 0 0 false false (val32 (if m = 0xFF800000#32 then 0#32 else if feq32 y m then 0x3F800000#32 else expL (fsub32 y m)))).1
    expSubStep half c m l xs = (xs.map code, xs.foldl (fun a x => fadd32 a (f32 (f.read false (code x)))) l) := by
  intro f code
  exact foldl_append_pair (f := code) (g := fun a x => fadd32 a (f32 (f.read false (code x)))) (fun _ _ => rfl) xs [] l

/-- TROWMAX, row by row: the new maximum, and the factor that the old one takes to it. -/
theorem rowmax_eq (s : State) (team d : Nat) (hs : List (Nat × Nat)) (x : RowBlock) :
    s.rowmax team d hs x = (List.range 128).foldl (fun u row =>
      let old := (s.team team).maxOf d row
      let new := ((List.range x.width).map (s.rowElem hs row)).foldl (fun m v => fmax32 m (fmul32 x.scale v)) old
      u.updTeam team fun t => (t.setMax d row new).setSum x.t2 row
        (if new = 0xFF800000#32 then 0x3F800000#32 else expL (fsub32 old new))) s := rfl

/-! What the checks ask of the log and of the region. -/

theorem reserve_zero (s : State) (ctx : Nat) (hnd quiet : Bool) : s.reserve ctx 0 hnd quiet = some s := by
  simp [State.reserve]

/-- A path finds every team's allocation as large as it is. -/
@[simp] theorem scratchOf_view (s : State) (r : PathRef) (g : Group) : (s.view r).scratchOf g = s.scratchOf g := by
  simp [State.scratchOf]

theorem moveOk_view {s : State} {r : PathRef} {g : Group} {b : BitVec 8} (ha : g.offset b % 16 = 0)
    (he : g.offset b + 24576 ≤ s.scratchOf g) : moveOk b (s.view r) g = true := by
  simp [moveOk, ha, he]

/-! The words. -/

section
variable {s t : State} {r : PathRef} {g : Group} {d b : BitVec 8} (hi : Issuing s r) (hg : s.group r.group = g)
  (hd : d.toNat < s.tilesOf g)
include hi hg hd

/-- TZERO waits for no register, and takes no log entry. -/
theorem execTzero_ok (hf : s.inFlight [(g.team, d.toNat)] = false) :
    execTzero d s = .next (went s r ((s.updTeam g.team fun t => t.zeroTile d.toNat).issueTile r (s.path r) [(g.team, d.toNat)])) := by
  subst hg
  simp only [execTzero, tzeroOp, issuing_of hi, ge_iff_le, Nat.not_le.2 hd, hf, Bool.false_eq_true, if_false, conclude_none hi.lanes,
    went]

variable (hb : isS b = true) (hp : bit g.sPend (sNum b) = false)
include hb hp

/-- TLD takes the bytes as its path sees them, and the poison of the offset as well as theirs. -/
theorem execTld_ok (hf : s.inFlight [(g.team, d.toNat)] = false) (ha : g.offset b % 16 = 0)
    (he : g.offset b + 24576 ≤ s.scratchOf g) :
    execTld d b s = .next (went s r (((s.saw r [(.pad g.team (g.offset b), 24576)] (s.staleIds r)).updTeam g.team fun x =>
      { x.setTile d.toNat (fun i => BitVec.ofNat 32 ((s.view r).numAt (.pad g.team (g.offset b + 4 * i)) 4)) false with
        tP := setBit x.tP d.toNat ((s.view r).poisoned (.pad g.team (g.offset b)) 24576 || bit g.sPoison (sNum b)) }).issueTile r
      (s.path r) [(g.team, d.toNat)])) := by
  subst hg
  rw [execTld, tldOp, tileOp_ok hi d b _ _ _ _ hb hd hp hf (moveOk_view ha he) (reserve_zero _ _ _ _)]
  rfl

/-- TST takes a log entry for each chunk of the region. -/
theorem execTst_ok (hf : s.inFlight [(g.team, d.toNat)] = false) (ha : g.offset b % 16 = 0)
    (he : g.offset b + 24576 ≤ s.scratchOf g)
    (ht : s.reserve g.ctx (chunkCount (g.offset b) 24576) g.isHandler = some t) :
    execTst d b s = .next (went t r ((((State.storeRegion (t.writer r.group (s.path r).lowLane) g.team
      (bit (t.team g.team).tP d.toNat || bit g.sPoison (sNum b)) 400 (g.offset b)
        ((List.range 6144).flatMap fun i => bytesOfNat 4 ((t.team g.team).elem d.toNat i).toNat) t).wroteRegion t r g.team
          (g.offset b) 24576).updTeam g.team fun x => { x with tD := setBit x.tD d.toNat false }).issueTile r (s.path r)
            [(g.team, d.toNat)])) := by
  subst hg
  rw [execTst, tstOp, tileOp_ok hi d b _ _ _ _ hb hd hp hf (moveOk_view ha he) ht]

/-- A row instruction takes log entries for the probabilities that TEXPSUB writes, and for nothing else. -/
theorem rowOp_ok (o : RowOp) {x : RowBlock} (hx : (s.view r).rowBlock g (g.offset b) = some x)
    (ho : rowOk o d.toNat (s.view r) g x = true) (hf : s.inFlight ((s.view r).halves g.team d.toNat x.pair) = false)
    (ht : s.reserve g.ctx (if o = .expsub then chunkCount x.poff (256 * x.width) else 0) g.isHandler = some t)
    (hxt : (t.view r).rowBlock g (g.offset b) = some x) :
    rowOp o d b s = .next (went t r ((rowEff o d.toNat
      (bit g.sPoison (sNum b) || (t.view r).poisoned (.pad g.team (g.offset b)) 16) r g (s.path r) x
      (t.saw r [(.pad g.team (g.offset b), 16)] (t.staleIds r))).issueTile r (s.path r)
        ((s.view r).halves g.team d.toNat x.pair))) := by
  subst hg
  rw [rowOp, tileOp_ok (t := t) hi d b _ _ _ _ hb hd hp (by simpa only [hx] using hf) (by simpa only [hx] using ho) ?entries]
  · simp only [hx, hxt]
  case entries =>
    rw [← ht]
    cases o <;> simp [hx]

end

/-- Settles O46: TEXPSUB's row by induction over its elements, the words by the shared course of a word on a tile that is not in
flight. -/
theorem tileResults : Obligations.TileResults := by
  unfold Obligations.TileResults
  refine ⟨fun s team d hs x => ⟨rowmax_eq s team d hs x, rfl⟩, expSubStep_eq, ?_⟩
  intro s t r d b hi hd g p k off one ends
  refine ⟨execTzero_ok hi rfl hd, fun hb hp => ⟨fun hf ha he => ?moves, ?rows⟩⟩
  case moves => exact ⟨execTld_ok hi rfl hd hb hp hf ha he, execTst_ok hi rfl hd hb hp hf ha he⟩
  case rows =>
    intro x hx hs rows
    exact ⟨rowOp_ok hi rfl hd hb hp .rowmax hx, rowOp_ok hi rfl hd hb hp .expsub hx, rowOp_ok hi rfl hd hb hp .scale hx⟩

end Sys2Proof.Machine
end

section
/-! The sampling engine at temperature 0, and the acceptance of a draft's token (R235, R236). -/

namespace Sys2Proof.Machine

/-! The order of the exact values. -/

@[simp] theorem FV.lt_irrefl (a : FV) : a.lt a = false := by cases a <;> simp [FV.lt]

theorem FV.eq_self {a : FV} (h : a.isNan = false) : a.eq a = true := by simp [FV.eq, h]

theorem FV.eq_of_lt {a b : FV} (h : a.lt b = true) : a.eq b = false := by simp [FV.eq, h]

/-- Minus infinity lies below every other number. -/
theorem FV.negInf_lt {a : FV} (hn : a.isNan = false) (h : a ≠ .inf true) : (FV.inf true).lt a = true := by
  cases a with
  | nan s => simp [FV.isNan] at hn
  | inf s => cases s <;> simp_all [FV.lt]
  | fin s m e => rfl

/-- An infinity has the largest exponent and no fraction (R86). -/
theorem Fmt.read_eq_inf {f : Fmt} {ftz neg : Bool} {x : Nat} (h : f.read ftz x = .inf neg) :
    x / 2 ^ (f.p - 1) % 2 ^ (f.width - f.p) = 2 ^ (f.width - f.p) - 1 ∧ x % 2 ^ (f.p - 1) = 0 ∧
      (x / 2 ^ (f.width - 1) % 2 == 1) = neg := by
  dsimp only [Fmt.read] at h
  split at h
  · rename_i he
    split at h
    · rename_i hm
      exact ⟨he, hm, FV.inf.inj h⟩
    · cases h
  · split at h <;> cases h

/-- Only one word stands for minus infinity. -/
theorem eq_negInf_of_val32 {w : Word} (h : val32 w = .inf true) : w = negInf := by
  obtain ⟨he, hm, hs⟩ := Fmt.read_eq_inf h
  have hlt := w.isLt
  refine BitVec.eq_of_toNat_eq ?_
  show w.toNat = 0xFF800000
  simp only [fmt32, beq_iff_eq] at he hm hs
  omega

/-! The largest value of a list. -/

/-- One step of the search for the largest value. -/
def larger (m x : Word) : Word := if (val32 m).lt (val32 x) then x else m

theorem largest32_eq (xs : List Word) : largest32 xs = xs.foldl larger negInf := rfl

theorem foldl_larger_lt {y : Word} {xs : List Word} (h : ∀ x ∈ xs, (val32 x).lt (val32 y) = true) {m : Word}
    (hm : (val32 m).lt (val32 y) = true) : (val32 (xs.foldl larger m)).lt (val32 y) = true := by
  induction xs generalizing m with
  | nil => exact hm
  | cons x xs ih =>
    refine ih (fun z hz => h z (List.mem_cons_of_mem x hz)) ?_
    unfold larger
    split
    · exact h x List.mem_cons_self
    · exact hm

theorem foldl_larger_stays {m : Word} {xs : List Word} (h : ∀ x ∈ xs, (val32 m).lt (val32 x) = false) : xs.foldl larger m = m := by
  induction xs with
  | nil => rfl
  | cons x xs ih =>
    rw [List.foldl_cons, larger, h x List.mem_cons_self]
    exact ih fun z hz => h z (List.mem_cons_of_mem x hz)

/-- Where every value is minus infinity, so is the largest. -/
theorem largest32_of_none {xs : List Word} (h : ∀ x ∈ xs, x = negInf) : largest32 xs = negInf :=
  foldl_larger_stays fun x hx => by rw [h x hx, FV.lt_irrefl]

/-- The first of the largest values of a list. -/
structure FirstLargest (xs : List Word) (j : Nat) (hj : j < xs.length) : Prop where
  number : (val32 xs[j]).isNan = false
  above  : xs[j] ≠ negInf
  upper  : ∀ x ∈ xs, (val32 xs[j]).lt (val32 x) = false
  first  : ∀ i (h : i < j), (val32 xs[i]).lt (val32 xs[j]) = true

section
variable {xs : List Word} {j : Nat} {hj : j < xs.length} (h : FirstLargest xs j hj)
include h

theorem FirstLargest.largest : largest32 xs = xs[j] := by
  have hbelow : (val32 ((xs.take j).foldl larger negInf)).lt (val32 xs[j]) = true := by
    refine foldl_larger_lt (fun x hx => ?_) (FV.negInf_lt h.number fun he => h.above (eq_negInf_of_val32 he))
    obtain ⟨i, hi, rfl⟩ := List.mem_iff_getElem.1 hx
    rw [List.length_take] at hi
    rw [List.getElem_take]
    exact h.first i (by omega)
  calc largest32 xs = (xs.drop j).foldl larger ((xs.take j).foldl larger negInf) := by
        rw [largest32_eq, ← List.foldl_append, List.take_append_drop]
    _ = (xs.drop (j + 1)).foldl larger xs[j] := by
        rw [List.drop_eq_getElem_cons hj, List.foldl_cons, larger, hbelow, if_pos rfl]
    _ = xs[j] := foldl_larger_stays fun x hx => h.upper x (List.mem_of_mem_drop hx)

theorem FirstLargest.index : xs.findIdx? (fun y => feq32 y xs[j]) = some j := by
  rw [List.findIdx?_eq_some_iff_getElem]
  exact ⟨hj, FV.eq_self h.number, fun i hi => by simp [feq32, FV.eq_of_lt (h.first i hi)]⟩

end

/-! The distribution at temperature 0 (R235). -/

/-- What a logit counts as: a NaN, or one that the mask shuts out, as minus infinity. -/
def countedLogit (logits : List Word) (allowed : Nat → Bool) (i : Nat) : Word :=
  if (val32 (logits.getD i 0)).isNan || !allowed i then negInf else logits.getD i 0

theorem isNan_countedLogit {logits : List Word} {allowed : Nat → Bool} {i : Nat} (h : countedLogit logits allowed i ≠ negInf) :
    (val32 (countedLogit logits allowed i)).isNan = false := by
  unfold countedLogit at *
  split at h
  · exact absurd rfl h
  · simp_all

/-- A list beside its indices is read by index. -/
theorem map_zip_range {α β : Type} (xs : List α) (z : α) (f : Nat × α → β) {n : Nat} (h : xs.length = n) :
    ((List.range n).zip xs).map f = (List.range n).map fun i => f (i, xs.getD i z) := by
  refine List.ext_getElem (by simp [h]) fun i hi _ => ?_
  have hlt : i < xs.length := by simpa [h] using hi
  simp [hlt]

section
variable {x : SBlock} {logits : List Word} (allowed : Nat → Bool) (hn : logits.length = x.n) (ht : (val32 x.temp).isZero = true)
include hn ht

/-- At temperature 0 the whole probability goes to the first of the largest logits that count, if any counts. -/
theorem distribution_cold :
    let ys := (List.range x.n).map (countedLogit logits allowed)
    distribution x logits allowed = if largest32 ys = negInf then ys.map fun _ => 0
      else (List.range x.n).map fun i => if i = (ys.findIdx? fun y => feq32 y (largest32 ys)).getD 0 then one32 else 0 := by
  simp only [distribution, ht, if_true, map_zip_range logits 0 _ hn]
  rfl

theorem distribution_shut_out (h : ∀ i, i < x.n → countedLogit logits allowed i = negInf) :
    distribution x logits allowed = List.replicate x.n 0 := by
  rw [distribution_cold allowed hn ht, largest32_of_none (by simpa using h), if_pos rfl]
  simp [List.eq_replicate_iff]

theorem distribution_greedy {j : Nat} (hj : j < x.n) (hy : countedLogit logits allowed j ≠ negInf)
    (hup : ∀ i, i < x.n → (val32 (countedLogit logits allowed j)).lt (val32 (countedLogit logits allowed i)) = false)
    (hfirst : ∀ i, i < j → (val32 (countedLogit logits allowed i)).lt (val32 (countedLogit logits allowed j)) = true) :
    distribution x logits allowed = (List.range x.n).map fun i => if i = j then one32 else 0 := by
  have hl : FirstLargest ((List.range x.n).map (countedLogit logits allowed)) j (by simpa using hj) := by
    constructor
    · simpa using isNan_countedLogit hy
    · simpa using hy
    · simpa using hup
    · simpa using hfirst
  rw [distribution_cold allowed hn ht, hl.largest, hl.index, if_neg hl.above]
  rfl

end

/-! SPECACC's verdict (R236). -/

/-- The target accepts the draft's token: u times the token's probability in the draft lies below that in the target, or the token has
none in the draft and one in the target. -/
def Accepted (g : Group) (x : SBlock) (p q : List Word) (token idx : Nat) : Prop :=
  let zero : FV := .fin false 0 0
  let pt := val32 (p.getD token 0)
  let qt := val32 (q.getD token 0)
  token < x.n ∧ ((zero.lt qt = true ∧ ((g.uniformDraw x.slot idx).mul qt).1.lt pt = true) ∨ (zero.lt qt = false ∧ zero.lt pt = true))

/-- What SPECACC draws from where it does not take the token: what the target has above the draft, or the target itself where that is
nothing. -/
def residual (n : Nat) (p q : List Word) : List Word :=
  let rest := (List.range n).map fun i =>
    let d := fsub32 (p.getD i 0) (q.getD i 0)
    if fpos32 d then d else 0
  if (val32 (fsum32 rest)).isZero then p else rest.map fun y => fdiv32 y (fsum32 rest)

section
variable {g : Group} {x : SBlock} {p q : List Word} {token idx : Nat}

theorem accepted_iff :
    (token < x.n && ((fpos32 (wordAt q token) && ((g.uniformDraw x.slot idx).mul (val32 (wordAt q token))).1.lt (val32 (wordAt p token))) ||
      (!fpos32 (wordAt q token) && fpos32 (wordAt p token)))) = true ↔ Accepted g x p q token idx := by
  simp [Accepted, fpos32, wordAt]

theorem accept_taken (h : Accepted g x p q token idx) : accept g x p q token idx = [BitVec.ofNat 32 token, 1] :=
  if_pos (accepted_iff.2 h)

theorem accept_refused (h : ¬ Accepted g x p q token idx) :
    accept g x p q token idx = [g.drawToken (residual x.n p q) x.slot x.idx, 0] :=
  if_neg (mt accepted_iff.1 h)

end

end Sys2Proof.Machine
end

section
/-! The tickets: what TICKET answers, and what a ticket comes to at its redemption (R247 to R250). -/

namespace Sys2Proof.Machine

/-! The entry that TICKET takes (R248). -/

theorem freeTicket_not_pending {s : State} {ctx e : Nat} (h : s.freeTicket ctx = some e) : s.tk ctx e 8 1 ≠ 1 := by
  have hfree := List.find?_some h
  obtain ⟨hstate, -⟩ := Bool.and_eq_true_iff.1 hfree
  exact bne_iff_ne.1 hstate

/-- One step of the search for the pending entry with the lowest SEQ. -/
def State.elder (s : State) (ctx : Nat) (m : Option Nat) (i : Nat) : Option Nat :=
  if s.tk ctx i 8 1 != 1 then m
  else match m with
    | none => some i
    | some j => if s.tk ctx i 0 8 / 2 ^ 20 < s.tk ctx j 0 8 / 2 ^ 20 then some i else some j

theorem oldestTicket_eq (s : State) (ctx : Nat) :
    s.oldestTicket ctx = (List.range (s.ctx ctx).tickets).foldl (s.elder ctx) none := rfl

theorem elder_pending {s : State} {ctx i : Nat} {m : Option Nat} (hm : ∀ j, m = some j → s.tk ctx j 8 1 = 1) :
    ∀ j, s.elder ctx m i = some j → s.tk ctx j 8 1 = 1 := by
  intro j h
  unfold State.elder at h
  split at h
  · exact hm j h
  · rename_i hi
    have hi : s.tk ctx i 8 1 = 1 := by simpa using hi
    split at h
    · cases h; exact hi
    · rename_i k
      split at h
      · cases h; exact hi
      · exact hm j h

theorem oldestTicket_pending {s : State} {ctx e : Nat} (h : s.oldestTicket ctx = some e) : s.tk ctx e 8 1 = 1 := by
  have keep (m : Option Nat) (hm : ∀ j, m = some j → s.tk ctx j 8 1 = 1) :
      ∀ j, (List.range (s.ctx ctx).tickets).foldl (s.elder ctx) m = some j → s.tk ctx j 8 1 = 1 := by
    induction List.range (s.ctx ctx).tickets generalizing m with
    | nil => exact hm
    | cons i is ih => exact ih _ (elder_pending hm)
  exact keep none (fun _ h => nomatch h) e h

/-! What TICKET answers (R247, R248). -/

section
variable {s t u : State} {r : PathRef} {p : Path} {g : Group} {b : List Byte} (region : List (Loc × Nat))

theorem ticket_replayed (h : g.replay = true) : s.ticket r p g b region = (s, ticketFail 4) := by
  simp only [State.ticket, h, if_true]

variable (hr : g.replay = false)
include hr

theorem ticket_weights_dead (h : s.objAlive g.ctx (BitVec.ofNat 64 (blkNum b 8 8)) = false) :
    s.ticket r p g b region = (s, ticketFail 3) := by
  simp [State.ticket, hr, h]

variable (hw : s.objAlive g.ctx (BitVec.ofNat 64 (blkNum b 8 8)) = true)
include hw

theorem ticket_inputs_gone (h : s.holdSome r p g.ctx (BitVec.ofNat 64 (blkNum b 24 8)) = (t, false)) :
    s.ticket r p g b region = (t, ticketFail 2) := by
  simp [State.ticket, hr, hw, h]

variable (hio : s.holdSome r p g.ctx (BitVec.ofNat 64 (blkNum b 24 8)) = (t, true))
include hio

theorem ticket_arena_gone (h : t.holdSome r p g.ctx (BitVec.ofNat 64 (blkNum b 32 8)) = (u, false)) :
    s.ticket r p g b region = (u.dropSome g.ctx (BitVec.ofNat 64 (blkNum b 24 8)), ticketFail 2) := by
  simp [State.ticket, hr, hw, hio, h]

variable (har : t.holdSome r p g.ctx (BitVec.ofNat 64 (blkNum b 32 8)) = (u, true))
include har

theorem ticket_full (hfree : u.freeTicket g.ctx = none) (hold : bit (u.ctx g.ctx).tkcfg 30 = false ∨ u.oldestTicket g.ctx = none) :
    s.ticket r p g b region = ((u.dropSome g.ctx (BitVec.ofNat 64 (blkNum b 32 8))).dropSome g.ctx (BitVec.ofNat 64 (blkNum b 24 8)),
      ticketFail 1) := by
  have hnone : (if bit (u.ctx g.ctx).tkcfg 30 then u.oldestTicket g.ctx else none) = none := by
    rcases hold with h | h <;> simp [h]
  simp [State.ticket, hr, hw, hio, har, hfree, hnone]

theorem ticket_free {e : Nat} (hfree : u.freeTicket g.ctx = some e) :
    (s.ticket r p g b region).2 = BitVec.ofNat 64 ((u.ctx g.ctx).tkseq * 2 ^ 20 + e) := by
  simp [State.ticket, hr, hw, hio, har, hfree, freeTicket_not_pending hfree]

theorem ticket_oldest {e : Nat} (hfree : u.freeTicket g.ctx = none) (hdrop : bit (u.ctx g.ctx).tkcfg 30 = true)
    (hold : u.oldestTicket g.ctx = some e) :
    (s.ticket r p g b region).2 = BitVec.ofNat 64 (((u.expire g.ctx e).ctx g.ctx).tkseq * 2 ^ 20 + e) := by
  simp [State.ticket, hr, hw, hio, har, hfree, hdrop, hold, oldestTicket_pending hold]

end

/-! What a redemption comes to (R249). -/

/-- The policy of a redemption: the block's, or the ticket's own where the block gives 255. -/
def State.policy (s : State) (ctx e : Nat) (b : List Byte) : Nat := if blkNum b 16 1 = 255 then s.tk ctx e 9 1 else blkNum b 16 1

/-- The latest version is looked at only where the policy asks for it, or allows it and the ticket's own is gone. -/
theorem latest_only {s : State} {ctx pol : Nat} {w : DWord} (h : pol = 1 ∨ (pol ≠ 0 ∧ s.objAlive ctx w = false)) :
    ¬ (pol ≠ 1 ∧ s.objAlive ctx w = true) ∧ pol ≠ 0 := by
  rcases h with h | ⟨h0, hw⟩
  · simp [h]
  · simp [h0, hw]

section
variable {s : State} {ctx e : Nat} {b : List Byte}

theorem redemption_unknown (h : s.findTicket ctx (BitVec.ofNat 64 (blkNum b 0 8)) = none) : (s.redemption ctx b).status = 1 := by
  simp only [State.redemption, h]

variable (he : s.findTicket ctx (BitVec.ofNat 64 (blkNum b 0 8)) = some e)
include he

theorem redemption_not_pending (h : s.tk ctx e 8 1 ≠ 1) :
    (s.redemption ctx b).status = 2 ∧ (s.redemption ctx b).stale = s.tk ctx e 8 1 := by
  simp [State.redemption, he, h]

variable (h1 : s.tk ctx e 8 1 = 1)
include h1

theorem redemption_feedback_dead (h0 : BitVec.ofNat 64 (blkNum b 8 8) ≠ 0#64)
    (hd : s.objAlive ctx (BitVec.ofNat 64 (blkNum b 8 8)) = false) : (s.redemption ctx b).status = 4 := by
  simp [State.redemption, he, h1, h0, hd]

variable (hfb : BitVec.ofNat 64 (blkNum b 8 8) = 0#64 ∨ s.objAlive ctx (BitVec.ofNat 64 (blkNum b 8 8)) = true)
include hfb

/-- A pending ticket whose feedback object may be held: the policy and the objects that are alive decide. -/
theorem redemption_pending : s.redemption ctx b =
    let w := s.tkD ctx e 16
    let l := s.tkD ctx e 24
    let held := [(BitVec.ofNat 64 (blkNum b 8 8) : DWord)].filter (· != 0)
    let held := if s.policy ctx e b = 1 then held else held ++ [w]
    if s.policy ctx e b ≠ 1 ∧ s.objAlive ctx w = true then { status := 0, w := w &&& ~~~0x2000000000000000#64, tries := held }
    else if s.policy ctx e b = 0 then { status := 3, tries := held }
    else if l = 0#64 then { status := 5, tries := held }
    else if s.objAlive ctx l = false then { status := 5, tries := held ++ [l] }
    else { status := 0, stale := s.staleness ctx e, w := l &&& ~~~0x2000000000000000#64, exact := false, tries := held ++ [l] } := by
  have hok : ¬ (BitVec.ofNat 64 (blkNum b 8 8) ≠ 0#64 ∧ s.objAlive ctx (BitVec.ofNat 64 (blkNum b 8 8)) = false) := by
    rintro ⟨h0, hd⟩
    rcases hfb with h | h
    · exact h0 h
    · simp [hd] at h
  simp only [State.redemption, he, h1, ne_eq, not_true, if_false, Bool.and_eq_true, bne_iff_ne, Bool.not_eq_true', decide_eq_true_eq]
  exact if_neg hok

theorem redemption_exact (hp : s.policy ctx e b ≠ 1) (hw : s.objAlive ctx (s.tkD ctx e 16) = true) :
    let x := s.redemption ctx b
    x.status = 0 ∧ x.exact = true ∧ x.stale = 0 ∧ x.w = s.tkD ctx e 16 &&& ~~~0x2000000000000000#64 := by
  simp [redemption_pending he h1 hfb, hp, hw]

theorem redemption_exact_gone (hp : s.policy ctx e b = 0) (hw : s.objAlive ctx (s.tkD ctx e 16) = false) :
    (s.redemption ctx b).status = 3 := by
  simp [redemption_pending he h1 hfb, hp, hw]

variable (hp : s.policy ctx e b = 1 ∨ (s.policy ctx e b ≠ 0 ∧ s.objAlive ctx (s.tkD ctx e 16) = false))
include hp

theorem redemption_latest_gone (hl : s.tkD ctx e 24 = 0#64 ∨ s.objAlive ctx (s.tkD ctx e 24) = false) :
    (s.redemption ctx b).status = 5 := by
  obtain ⟨hex, h0⟩ := latest_only hp
  rw [redemption_pending he h1 hfb]
  by_cases hz : s.tkD ctx e 24 = 0#64
  · simp only [if_neg hex, if_neg h0, if_pos hz]
  · simp only [if_neg hex, if_neg h0, if_neg hz, if_pos (hl.resolve_left hz)]

theorem redemption_latest (hz : s.tkD ctx e 24 ≠ 0#64) (hl : s.objAlive ctx (s.tkD ctx e 24) = true) :
    let x := s.redemption ctx b
    x.status = 0 ∧ x.exact = false ∧ x.stale = s.staleness ctx e ∧ x.w = s.tkD ctx e 24 &&& ~~~0x2000000000000000#64 := by
  obtain ⟨hex, h0⟩ := latest_only hp
  rw [redemption_pending he h1 hfb]
  simp only [if_neg hex, if_neg h0, if_neg hz, hl, Bool.true_eq_false, if_false]
  exact ⟨trivial, trivial, trivial, trivial⟩

end

end Sys2Proof.Machine
end

section
/-! The words of the sampling engine and of the tickets, where nothing stands in their way (R234, R247 to R251, R331, R341). -/

namespace Sys2Proof.Machine

/-! What the engines' reads leave alone. -/

theorem sameWork_of_access {s t : State} {ag : Agent} {kind : Acc} {n : Nat} {a : DWord} {x : Except Cause Loc}
    (h : s.access ag kind n a = (t, x)) : SameWork s t := by
  have hsame := sameWork_access s ag kind n a
  rwa [h] at hsame

/-- Each piece of a region is checked at its first and its last access. -/
theorem sameWork_readPieces {s t : State} {ag : Agent} {kind : Acc} {sz : Nat} {ps : List (DWord × Nat)}
    {x : Except (Cause × DWord) (List (Loc × Nat))} (h : State.readPieces ag kind sz ps s = (t, x)) : SameWork s t := by
  induction ps generalizing s t x with
  | nil => cases h; exact .refl s
  | cons e ps ih =>
    unfold State.readPieces at h
    dsimp only at h
    split at h
    · rename_i hfirst
      cases h
      exact sameWork_of_access hfirst
    · rename_i hfirst
      split at h
      · rename_i hlast
        cases h
        exact (sameWork_of_access hfirst).trans (sameWork_of_access hlast)
      · rename_i hlast
        have hends := (sameWork_of_access hfirst).trans (sameWork_of_access hlast)
        split at h <;> (rename_i hrest; cases h; exact hends.trans (ih hrest))

theorem sameWork_readRegion {s t : State} {ag : Agent} {sz n : Nat} {a : DWord} {kind : Acc}
    {x : Except (Cause × DWord) (List (Loc × Nat))} (h : s.readRegion ag sz a n kind = (t, x)) : SameWork s t :=
  sameWork_readPieces h

theorem sameWork_saw (s : State) (r : PathRef) (regions : List (Loc × Nat)) (stale : List Nat) : SameWork s (s.saw r regions stale) :=
  .of rfl rfl rfl rfl rfl rfl rfl rfl

/-- A region that need not be read. -/
theorem sameWork_ifReadRegion {b : Prop} [Decidable b] {s t : State} {ag : Agent} {sz n : Nat} {a : DWord} {kind : Acc}
    {x : Except (Cause × DWord) (List (Loc × Nat))} (h : (if b then (s, .ok []) else s.readRegion ag sz a n kind) = (t, x)) :
    SameWork s t := by
  split at h
  · cases h; exact .refl s
  · exact sameWork_readRegion h

/-- The distribution of a block reads its logits and its mask. -/
theorem sameWork_sampleDist {s t : State} {r : PathRef} {ag : Agent} {x : SBlock} {y : Except (Cause × DWord) (List Word × Bool)}
    (h : s.sampleDist r ag x = (t, y)) : SameWork s t := by
  unfold State.sampleDist at h
  split at h
  · rename_i hl
    cases h
    exact sameWork_readRegion hl
  · rename_i hl
    dsimp only at h
    split at h
    · rename_i hm
      cases h
      exact (sameWork_readRegion hl).trans (sameWork_ifReadRegion hm)
    · rename_i hm
      cases h
      exact ((sameWork_readRegion hl).trans (sameWork_ifReadRegion hm)).trans (sameWork_saw _ _ _ _)

theorem sameWork_sampleRun {s t : State} {r : PathRef} {g : Group} {ag : Agent} {b : List Byte}
    {y : Except (Cause × DWord) (List Word × Bool)} (h : sampleRun r g ag b s = some (t, y)) : SameWork s t := by
  obtain ⟨x, -, h⟩ := Option.map_eq_some_iff.1 h
  split at h <;> (rename_i hd; cases h; exact sameWork_sampleDist hd)

theorem sameWork_specaccRun {s t : State} {r : PathRef} {g : Group} {ag : Agent} {b : List Byte}
    {y : Except (Cause × DWord) (List Word × Bool)} (h : specaccRun r g ag b s = some (t, y)) : SameWork s t := by
  unfold specaccRun at h
  split at h
  · split at h
    · cases h
    · have h := Option.some.inj h
      split at h
      · rename_i htarget
        cases h
        exact sameWork_sampleDist htarget
      · rename_i htarget
        split at h <;> (rename_i hdraft; cases h; exact (sameWork_sampleDist htarget).trans (sameWork_sampleDist hdraft))
  · cases h

/-! The registers of a word that reads some and writes others. -/

theorem SFree.join {g : Group} {rd wr : List Nat} (hr : SFree g rd []) (hw : SFree g [] wr) : SFree g rd wr :=
  ⟨fun n hn => (List.mem_append.1 hn).elim (fun h => hr.pend n (by simpa using h)) (hw.pend n), hr.poison⟩

theorem reads1_and_writes {b d : BitVec 8} (hb : isS b = true) (hd : isS d = true) (n : Nat) :
    (readsRun b 1).and (writesRun d n) = { sr := [sNum b], sw := (List.range n).map (sNum d + ·) } := by
  rw [reads1 hb, writesRun_s hd]; rfl

theorem reads1_and_writes2 {b d : BitVec 8} (hb : isS b = true) (hd : isSPair d = true) :
    (readsRun b 1).and (writesRun d 2) = { sr := [sNum b], sw := [sNum d, sNum d + 1] } := by
  rw [reads1 hb, writes2 (isS_of_pair hd)]; rfl

/-- Where the registers of a word are free, its own cause alone is left. -/
theorem cause_late {field : Bool} {uses : Uses} {g : Group} {rd wr : List Nat} (hf : field = true) (hu : uses = { sr := rd, sw := wr })
    (h : SFree g rd wr) (late : Nat → Lane → Option Cause) (l : Nat) (ln : Lane) :
    ({ field := field, uses := uses, late := late } : Checks).cause g l ln = late l ln := by
  subst hf hu
  simp [cause_order, sfree_uses h]

/-! The checks of TICKET's and REDEEM's blocks. -/

theorem blockPoison_eq_false {s : State} {g : Group} {off n : Nat} (h : s.poisoned (.pad g.team off) n = false) :
    s.blockPoison g off n = false := by simp [State.blockPoison, h]

theorem blockOk_of {s : State} {g : Group} {off n al : Nat} (ha : off % al = 0) (hnd : g.isHandler = false)
    (he : off + n ≤ (s.team g.team).scratch) : s.blockOk g off n al = true := by simp [State.blockOk, ha, hnd, he]

/-- A hold is refused at issue only on an object that is named and whose count is full. -/
theorem hold_fits {s : State} {ctx : Nat} {a : DWord} (h : a ≠ 0#64 → s.holdFull ctx a = false) :
    (a != 0 && s.holdFull ctx a) = false := by
  by_cases ha : a = 0#64
  · simp [ha]
  · simp [h ha]

/-- A replayed TICKET takes no hold. -/
theorem request_fits {s : State} {ctx : Nat} {replay : Bool} {io ar : DWord}
    (h : replay = false → (io ≠ 0#64 → s.holdFull ctx io = false) ∧ (ar ≠ 0#64 → s.holdFull ctx ar = false)) :
    (!replay && ((io != 0 && s.holdFull ctx io) || (ar != 0 && s.holdFull ctx ar))) = false := by
  cases replay with
  | true => rfl
  | false =>
    obtain ⟨hio, har⟩ := h rfl
    rw [hold_fits hio, hold_fits har]
    rfl

/-- On an ID that no entry holds, REDEEM changes nothing and answers status 1. -/
theorem redeem_unknown {s : State} {r : PathRef} {g : Group} {p : Path} {d : BitVec 8} {b : List Byte} {rb : Loc} {ft bt : List Byte}
    (h : s.findTicket g.ctx (BitVec.ofNat 64 (blkNum b 0 8)) = none) :
    s.redeem r g p d b { status := 1 } rb ft bt =
      s.issueOp r (p.flagFor .returning) (pairDests d (dword 1#32 0#32)) (lane := p.lowLane) := by
  simp [State.redeem, h]

section
variable {s t u : State} {r : PathRef} {g : Group} {d b : BitVec 8} (hi : Issuing s r) (hg : s.group r.group = g)
include hi hg

/-! SAMPLE and SPECACC. -/

/-- A word of the sampling engine whose block its run takes. -/
theorem sampleOp_ok {regs n : Nat}
    {run : PathRef → Group → Agent → List Byte → State → Option (State × Except (Cause × DWord) (List Word × Bool))}
    {ws : List Word} {po : Bool} (hd : isS d = true) (hal : d.toNat % regs = 0) (hb : isS b = true)
    (hf : SFree g [sNum b] ((List.range regs).map (sNum d + ·))) (ha : g.offset b % 16 = 0) (he : g.offset b + n ≤ s.scratchOf g)
    (hrun : run r g (g.agent r.group none) (s.bytesAt (.pad g.team (g.offset b)) n) s = some (t, .ok (ws, po))) (hw : SameWork s t) :
    sampleOp regs n d b run s = .next (went t r ((t.saw r [(.pad g.team (g.offset b), n)]).issueOp r ((s.path r).flagFor .returning)
      ((List.range regs).map fun i => .sreg (sNum d + i) (wordAt ws i) (po || s.poisoned (.pad g.team (g.offset b)) n))
      (lane := (s.path r).lowLane))) := by
  subst hg
  have hc := cause_sfree (c := { field := isS d && d.toNat % regs == 0 && isS b, uses := (readsRun b 1).and (writesRun d regs) }) hf
    (by simp [hd, hal, hb]) rfl (reads1_and_writes hb hd regs) 0 {} rfl
  have hblock : ¬ ((s.group r.group).offset b % 16 ≠ 0 ∨ (s.group r.group).offset b + n > s.scratchOf (s.group r.group)) := by omega
  simp only [sampleOp, issuing_of hi, hc, if_neg hblock, hrun, conclude_reached hi hw, went]

section
variable (hd : isS d = true) (hb : isS b = true) (ha : g.offset b % 16 = 0) {ws : List Word} {po : Bool}
include hd hb ha

/-- SAMPLE lands the token that it draws. -/
theorem execSample_ok (hf : SFree g [sNum b] [sNum d]) (he : g.offset b + 48 ≤ s.scratchOf g)
    (hrun : sampleRun r g (g.agent r.group none) (s.bytesAt (.pad g.team (g.offset b)) 48) s = some (t, .ok (ws, po))) :
    execSample d b s = .next (went t r ((t.saw r [(.pad g.team (g.offset b), 48)]).issueOp r ((s.path r).flagFor .returning)
      [.sreg (sNum d) (ws.getD 0 0) (po || s.poisoned (.pad g.team (g.offset b)) 48)] (lane := (s.path r).lowLane))) := by
  rw [execSample, sampleOp_ok hi hg hd (Nat.mod_one _) hb (by simpa [List.range_succ] using hf) ha he hrun (sameWork_sampleRun hrun)]
  simp [List.range_succ, wordAt]

/-- SPECACC lands the token in the first register of the pair, and whether it took the draft's in the second. -/
theorem execSpecacc_ok (hpair : isSPair d = true) (hf : SFree g [sNum b] [sNum d, sNum d + 1]) (he : g.offset b + 112 ≤ s.scratchOf g)
    (hrun : specaccRun r g (g.agent r.group none) (s.bytesAt (.pad g.team (g.offset b)) 112) s = some (t, .ok (ws, po))) :
    execSpecacc d b s = .next (went t r ((t.saw r [(.pad g.team (g.offset b), 112)]).issueOp r ((s.path r).flagFor .returning)
      [.sreg (sNum d) (ws.getD 0 0) (po || s.poisoned (.pad g.team (g.offset b)) 112),
       .sreg (sNum d + 1) (ws.getD 1 0) (po || s.poisoned (.pad g.team (g.offset b)) 112)] (lane := (s.path r).lowLane))) := by
  obtain ⟨-, heven⟩ := Bool.and_eq_true_iff.1 hpair
  rw [execSpecacc, sampleOp_ok hi hg hd (beq_iff_eq.1 heven) hb (by simpa [List.range_succ] using hf) ha he hrun (sameWork_specaccRun hrun)]
  simp [List.range_succ, wordAt]

end

/-! TICKET and REDEEM. -/

section
variable (hd : isSPair d = true) (hb : isS b = true) (hf : SFree g [sNum b] [sNum d, sNum d + 1])
  (hcfg : bit (s.ctx g.ctx).tkcfg 31 = true) (hnd : g.isHandler = false)
  {off : Nat} (ho : (g.sreg (sNum b)).toNat = off) (ha : off % 16 = 0) {blk : List Byte}
include hd hb hf hcfg hnd ho ha

/-- TICKET, whose block passes its checks and whose region the engine reads. -/
theorem execTicket_ok {region : List (Loc × Nat)} (hblk : s.block g off 80 = blk)
    (he : off + 80 ≤ (s.team g.team).scratch) (hpo : s.poisoned (.pad g.team off) 80 = false)
    (hok : requestOk g.replay blk = true)
    (hfull : g.replay = false → ∀ o ∈ [24, 32], (BitVec.ofNat 64 (blkNum blk o 8) : DWord) ≠ 0#64 →
      s.holdFull g.ctx (BitVec.ofNat 64 (blkNum blk o 8)) = false)
    (hregion : s.readRegion (g.agent r.group none) 16 (BitVec.ofNat 64 (blkNum blk 56 8)) (blkNum blk 4 4) = (t, .ok region))
    (hlog : t.reserve g.ctx 1 false = some u) :
    let z := ((u.saw r ((.pad g.team off, 80) :: region)).logIrrev (u.writer r.group (s.path r).lowLane) 3).ticket r (s.path r) g
      blk region
    execTicket d b s = .next (went u r (z.1.issueOp r ((s.path r).flagFor .returning) (pairDests d z.2) (lane := (s.path r).lowLane))) := by
  subst hg ho hblk
  have hc := cause_late (field := isSPair d && isS b) (by simp [hd, hb]) (reads1_and_writes2 hb hd) hf
  have hfits := request_fits fun hrep => ⟨hfull hrep 24 (by simp), hfull hrep 32 (by simp)⟩
  simp only [execTicket, issuing_of hi, hc, blockPoison_eq_false hpo, blockOk_of ha hnd he, hcfg, hok, hfits, hregion, hnd,
    hlog, Bool.not_true, Bool.or_false, Bool.false_eq_true, if_false,
    conclude_reached hi ((sameWork_readRegion hregion).trans (sameWork_reserve hlog)), went]

section
variable (hblk : s.block g off 64 = blk) (he : off + 64 ≤ (s.team g.team).scratch)
  (hpo : s.poisoned (.pad g.team off) 64 = false) (hok : redemptionOk blk = true)
  (hq : s.queueOk (blkNum blk 17 1) g.ctx = true)
  (hfb : BitVec.ofNat 64 (blkNum blk 8 8) ≠ 0#64 → s.holdFull g.ctx (BitVec.ofNat 64 (blkNum blk 8 8)) = false)
include hblk he hpo hok hq hfb

/-- REDEEM of an ID that no entry holds reads no template, writes no block, and answers status 1. -/
theorem execRedeem_unknown (hid : s.findTicket g.ctx (BitVec.ofNat 64 (blkNum blk 0 8)) = none) (hlog : s.reserve g.ctx 1 false = some t)
    (hu : (t.saw r [(.pad g.team off, 64)]).logIrrev (t.writer r.group (s.path r).lowLane) 3 = u)
    (hid' : u.findTicket g.ctx (BitVec.ofNat 64 (blkNum blk 0 8)) = none) :
    execRedeem d b s = .next (went t r (u.issueOp r ((s.path r).flagFor .returning) (pairDests d (dword 1#32 0#32))
      (lane := (s.path r).lowLane))) := by
  subst hg ho hblk hu
  have hc := cause_late (field := isSPair d && isS b) (by simp [hd, hb]) (reads1_and_writes2 hb hd) hf
  have hx : s.redemption (s.group r.group).ctx (s.block (s.group r.group) ((s.group r.group).sreg (sNum b)).toNat 64) = { status := 1 } := by
    simp only [State.redemption, hid]
  simp only [execRedeem, issuing_of hi, hc, blockPoison_eq_false hpo, blockOk_of ha hnd he, hcfg, hok, hq, hid, hx, hnd,
    hold_fits hfb, List.any_cons, List.any_nil, hlog, Nat.one_ne_zero, decide_false, Bool.false_and, Bool.not_true, Bool.or_false,
    Bool.false_eq_true, if_false, List.append_nil, conclude_reached hi (sameWork_reserve hlog), redeem_unknown hid', went]

/-- REDEEM of an entry's ID reads both templates, and takes the place of the replay block where it launches. -/
theorem execRedeem_found {e : Nat} {v y : State} {fs bs : List (Loc × Nat)} {rb : Loc}
    (hid : s.findTicket g.ctx (BitVec.ofNat 64 (blkNum blk 0 8)) = some e)
    (hheld : ∀ z ∈ [s.tkD g.ctx e 16, s.tkD g.ctx e 24], z ≠ 0#64 → s.holdFull g.ctx z = false)
    (hfs : s.readRegion (g.agent r.group none) 16 (s.tkD g.ctx e 48) 128 = (t, .ok fs))
    (hbs : t.readRegion (g.agent r.group none) 16 (t.tkD g.ctx e 56) 128 = (u, .ok bs))
    (hrb : (if (s.redemption g.ctx blk).status = 0 then
        u.access (g.agent r.group none) .engineWrite 16 (BitVec.ofNat 64 (blkNum blk 48 8)) else (u, .ok .lost)) = (v, .ok rb))
    (hlog : v.reserve g.ctx (if (s.redemption g.ctx blk).status = 0 ∧ rb.logs = true then 2 else 1) false = some y) :
    execRedeem d b s = .next (went y r (((y.saw r ((.pad g.team off, 64) :: (fs ++ bs))).logIrrev
      (y.writer r.group (s.path r).lowLane) 3).redeem r g (s.path r) d blk (s.redemption g.ctx blk) rb (y.segBytes fs) (y.segBytes bs))) := by
  subst hg ho hblk
  have hc := cause_late (field := isSPair d && isS b) (by simp [hd, hb]) (reads1_and_writes2 hb hd) hf
  have hplace : SameWork u v := by
    split at hrb
    · exact sameWork_of_access hrb
    · cases hrb; exact .refl u
  have hsame : SameWork s y :=
    (sameWork_readRegion hfs).trans ((sameWork_readRegion hbs).trans (hplace.trans (sameWork_reserve hlog)))
  have hfits : ∀ z ∈ [s.tkD (s.group r.group).ctx e 16, s.tkD (s.group r.group).ctx e 24],
      (z != 0 && s.holdFull (s.group r.group).ctx z) = false := fun z hz => hold_fits (hheld z hz)
  simp only [List.forall_mem_cons] at hfits
  simp only [execRedeem, issuing_of hi, hc, blockPoison_eq_false hpo, blockOk_of ha hnd he, hcfg, hok, hq, hid, hnd,
    hold_fits hfb, hfits, List.any_cons, List.any_nil, hfs, hbs, hrb, Bool.and_eq_true, decide_eq_true_eq, hlog, Bool.not_true,
    Bool.or_false, Bool.false_eq_true, if_false, conclude_reached hi hsame, went]

end

end

end

/-! TKQUERY. -/

/-- What TKQUERY answers: STATE, with bit 8 where the weights are gone and bit 9 where the ticket is held, and the staleness. -/
def State.ticketState (s : State) (ctx : Nat) (id : DWord) : DWord :=
  match s.findTicket ctx id with
  | none => dword 0xFF#32 0xFFFFFFFF#32
  | some i => dword
      (BitVec.ofNat 32 (s.tk ctx i 8 1 + (if s.objAlive ctx (s.tkD ctx i 16) then 0 else 256) + (if s.tkHeld ctx i then 512 else 0)))
      (if s.tkD ctx i 24 = 0#64 ∨ s.objAlive ctx (s.tkD ctx i 24) = false then 0xFFFFFFFF#32 else BitVec.ofNat 32 (s.staleness ctx i))

theorem ticketState_unknown {s : State} {ctx : Nat} {id : DWord} (h : s.findTicket ctx id = none) :
    s.ticketState ctx id = dword 0xFF#32 0xFFFFFFFF#32 := by simp only [State.ticketState, h]

theorem ticketState_found {s : State} {ctx i : Nat} {id : DWord} (h : s.findTicket ctx id = some i) :
    s.ticketState ctx id = dword
      (BitVec.ofNat 32 (s.tk ctx i 8 1 + (if s.objAlive ctx (s.tkD ctx i 16) then 0 else 256) + (if s.tkHeld ctx i then 512 else 0)))
      (if s.tkD ctx i 24 = 0#64 ∨ s.objAlive ctx (s.tkD ctx i 24) = false then 0xFFFFFFFF#32
        else BitVec.ofNat 32 (s.staleness ctx i)) := by
  simp only [State.ticketState, h]

theorem execTkquery_ok {s : State} {r : PathRef} {g : Group} {d a : BitVec 8} (hi : Issuing s r) (hg : s.group r.group = g)
    (hd : isSPair d = true) (hpa : isSPair a = true) (hf : SFree g [sNum a, sNum a + 1] [sNum d, sNum d + 1])
    (hcfg : bit (s.ctx g.ctx).tkcfg 31 = true) :
    execTkquery d a s = .next (went s r (s.issueOp r ((s.path r).flagFor .returning) (pairDests d (s.ticketState g.ctx (g.spair (sNum a))))
      (lane := (s.path r).lowLane))) := by
  subst hg
  have hu : (readsRun a 2).and (writesRun d 2) = { sr := [sNum a, sNum a + 1], sw := [sNum d, sNum d + 1] } := by
    rw [reads2 (isS_of_pair hpa), writes2 (isS_of_pair hd)]; rfl
  rw [execTkquery, uniformOp_ok hi _ _ (cause_sfree hf (by simp [hd, hpa]) rfl hu 0 {} (if_pos hcfg))]
  cases hid : s.findTicket (s.group r.group).ctx ((s.group r.group).spair (sNum a)) <;> simp [State.ticketState, hid]

/-- Settles O47: the distribution by the first of the largest logits, the verdict and the two decisions of the tickets case by case, the
words by the reads of their engines, which leave the path and its registers alone. -/
theorem samplingAndTicketResults : Obligations.SamplingAndTicketResults := by
  unfold Obligations.SamplingAndTicketResults
  refine ⟨?distribution, ?verdict, ?ticket, ?redemption, fun s t u r d b hi hd => ?words⟩
  case distribution => exact fun x logits allowed hn ht => ⟨distribution_shut_out allowed hn ht, fun j => distribution_greedy allowed hn ht⟩
  case verdict => exact fun g x p q token idx => ⟨accept_taken, accept_refused⟩
  case ticket =>
    intro s r p g blk region ctx at8 fails result
    exact ⟨ticket_replayed region, ticket_weights_dead region, fun hr hw => ⟨fun t => ticket_inputs_gone region hr hw,
      fun t u => ticket_arena_gone region hr hw, fun t u hio har => ⟨ticket_full region hr hw hio har,
        fun e => ticket_free region hr hw hio har, fun e => ticket_oldest region hr hw hio har⟩⟩⟩
  case redemption =>
    intro s ctx blk id fb x
    refine ⟨redemption_unknown, fun e he => ?_⟩
    intro pol w l
    exact ⟨redemption_not_pending he, redemption_feedback_dead he, fun h1 hfb =>
      ⟨redemption_exact he h1 hfb, redemption_exact_gone he h1 hfb, fun hp =>
        ⟨redemption_latest_gone he h1 hfb hp, redemption_latest he h1 hfb hp⟩⟩⟩
  case words =>
    intro g p off ag pair answers
    refine ⟨fun hb hfb ha ws po => ?sampling, fun hb hfb ha hpd hfd hcfg hnd => ⟨?ticket, ?redeem⟩, fun a hpd hpa hf hcfg => ?tkquery⟩
    case sampling =>
      exact ⟨fun hfd => execSample_ok hi rfl hd hb ha (hfb.join hfd), fun hpd hfd => execSpecacc_ok hi rfl hd hb ha hpd (hfb.join hfd)⟩
    case ticket =>
      intro blk at8 region
      exact execTicket_ok hi rfl hpd hb (hfb.join hfd) hcfg hnd rfl ha rfl
    case redeem =>
      intro blk at8 he hpo hok hq hfull x
      have hf := hfb.join hfd
      exact ⟨fun hid hlog => execRedeem_unknown hi rfl hpd hb hf hcfg hnd rfl ha rfl he hpo hok hq hfull hid hlog rfl,
        fun e v y fs bs rb => execRedeem_found hi rfl hpd hb hf hcfg hnd rfl ha rfl he hpo hok hq hfull⟩
    case tkquery =>
      have := execTkquery_ok hi rfl hpd hpa hf hcfg
      constructor
      · intro hid
        rwa [ticketState_unknown hid] at this
      · intro i hid w l
        rwa [ticketState_found hid] at this

end Sys2Proof.Machine
end

section
/-! The vector integer instructions beside the two-source ones: one source, a field with its selector, a choice, a move and a
comparison (R243, R348, R349). -/

namespace Sys2Proof.Machine

/-! What their functions compute of an element. -/

theorem popCount_ofNat32 (x : Nat) : popCount (BitVec.ofNat 32 x) = ((List.range 32).filter fun i => x.testBit i).length := by
  refine congrArg List.length (List.filter_congr fun i hi => ?_)
  rw [BitVec.getLsbD_ofNat]
  simp [List.mem_range.1 hi]

theorem leadingZeros_eq (x : Nat) : leadingZeros x = if x = 0 then 32 else 31 - Nat.log2 x := by
  unfold leadingZeros
  split <;> omega

/-! The selector of a bit field. -/

/-- The bits of a selector outside bits 13 to 8 and 4 to 0 are zero exactly where it is this small. -/
theorem fieldOk_iff (y : Word) : fieldOk y = true ↔ y.toNat / 256 ≤ 32 ∧ y.toNat / 32 % 8 = 0 := by
  have := y.isLt
  simp only [fieldOk, Bool.and_eq_true, decide_eq_true_eq, beq_iff_eq]
  simp only [fld, Nat.reduceSub, Nat.reduceAdd, Nat.reducePow]
  omega

/-- Under i32 and n32 a B operand is the same single word. -/
theorem image_only32 {e : Nat} (he : e ≤ 1) (o : Opnd) (g : Group) (p : Path) (ln : Lane) : o.image e g p ln = o.image 0 g p ln := by
  obtain rfl | rfl : e = 0 ∨ e = 1 := by omega
  · rfl
  · cases o <;> rfl

theorem eWide_only32 {e : Nat} (he : e ≤ 1) : eWide e = false := by
  obtain rfl | rfl : e = 0 ∨ e = 1 := by omega
  all_goals rfl

theorem isVE_only32 {e : Nat} (he : e ≤ 1) (g : Group) (x : BitVec 8) : isVE e g x = isV g x := by
  simp [isVE, eWide_only32 he]

theorem fieldOk_image {e : Nat} (he : e ≤ 1) {o : Opnd} {g : Group} {p : Path} {ln : Lane}
    (h : (o.image e g p ln).toNat % 2 ^ 32 / 256 ≤ 32 ∧ (o.image e g p ln).toNat % 2 ^ 32 / 32 % 8 = 0) :
    fieldOk (loWord (o.image 0 g p ln)) = true := by
  rw [fieldOk_iff, ← image_only32 he]
  simpa [loWord] using h

/-! The choice of a lane. -/

theorem pred_iff (ln : Lane) (n : BitVec 3) : ln.pred n.toNat = true ↔ n = 0#3 ∨ bit ln.p n.toNat = true := by
  simp [Lane.pred, BitVec.toNat_eq]

/-- Which element a lane takes may be asked in each element: neither choice reads A. -/
theorem vecLane_choice (a : BitVec 8) (c : Prop) [Decidable c] (d : BitVec 8) (o : Opnd) (g : Group) (p : Path) (ln : Lane) :
    (if c then vecLane (fun _ _ _ y _ => y) d d o g p ln else vecLane (fun _ _ _ _ z => z) d d o g p ln) =
      vecLane (fun _ _ _ y z => if c then y else z) d a o g p ln := by
  by_cases h : c <;> simp only [h, if_true, if_false] <;> rfl

/-! The flags of a comparison. -/

@[simp] theorem raise_none (ln : Lane) : ln.raise {} = ln := by
  simp [Lane.raise, FFlags.bits]

theorem foldl_or_no_flags {α : Type} (xs : List α) (f : α → Bool) :
    (xs.map fun x => (f x, ({} : FFlags))).foldl (fun (fl : FFlags) r => fl.or r.2) {} = {} := by
  induction xs with
  | nil => rfl
  | cons x xs ih => exact ih

section
variable {s : State} {r : PathRef} {g : Group} {p : Path} {d a : BitVec 8} {o : Opnd}

/-! Their words, where their operands are of their kinds and nothing stands in the way. -/

/-- An instruction of one source: what would stand in the place of B is not read. -/
theorem vec2_ok {admits : Nat → Bool} (hg : s.group r.group = g) (hp : s.path r = p) (u : Nat → Bool → Nat → Nat) (o : Opnd)
    (hm : admits (mEtype p.mode) = true) (hd : isVE (pairType (admits 2) (mEtype p.mode)) g d = true)
    (ha : isVE (pairType (admits 2) (mEtype p.mode)) g a = true)
    (hr : Ready s r ((readsRun a (eRegs (mEtype p.mode))).and (writesRun d (eRegs (mEtype p.mode))))) :
    vec2 admits (fun e sat x _ _ => u e sat x) d a s = .next (went s r (s.onLanes r.group (s.active r) fun _ ln =>
      vecLane (fun e sat x _ _ => u e sat x) d a o g p ln)) := by
  subst hg hp
  exact laneOp_ready hr _ _ (by simp [hd, ha]) hm (fun _ h => h) (fun _ _ h => h) fun _ _ => rfl

/-- A bit field, whose selector is within its limits in every active lane. -/
theorem fieldOp_ok (hg : s.group r.group = g) (hp : s.path r = p) {readsD : Bool} (f : ElemFn) (he : mEtype p.mode ≤ 1)
    (hd : isVE (mEtype p.mode) g d = true) (ha : isV g a = true) (ho : o.okV (mEtype p.mode) g p = true)
    (hsel : ∀ l ∈ s.active r, fieldOk (loWord (o.image 0 g p (g.lane l))) = true)
    (hz : readsD = true → ∀ l ∈ s.active r, (readsRun d (eRegs (mEtype p.mode))).poison g (g.lane l) = false)
    (hr : Ready s r (vecUses (mEtype p.mode) d a o)) :
    fieldOp readsD f d a o s = .next (went s r (s.onLanes r.group (s.active r) fun _ ln => vecLane f d a o g p ln)) := by
  subst hg hp
  refine laneOp_ready hr _ _ ?field ?mode ?pend ?poison ?late
  case field => simp [vecChecks, pairType, only32, hd, isVE_only32 he, ha, ho]
  case mode => simpa [vecChecks, only32] using he
  case pend =>
    intro ln h
    simp only [vecUses, hazard_and, hazard_writes, Bool.or_eq_false_iff] at h
    cases readsD <;> simp [vecChecks, hazard_and, hazard_writes, h]
  case poison =>
    intro l hl h
    simp only [vecUses, poison_and, poison_writes, Bool.or_false, Bool.or_eq_false_iff] at h
    cases readsD with
    | false => simp [vecChecks, poison_and, h]
    | true => simp [vecChecks, poison_and, h, hz rfl l hl]
  case late => exact fun l hl => if_pos (hsel l hl)

/-- The predicate that VCMP writes; it raises no flag. -/
theorem vcmpOp_ok (hg : s.group r.group = g) (hp : s.path r = p) {c q : BitVec 3} (hc : c.toNat ≤ 5) (hq : q ≠ 0#3)
    (he : eInt (mEtype p.mode) = true) (ha : isVE (mEtype p.mode) g a = true) (ho : o.okV (mEtype p.mode) g p = true)
    (hr : Ready s r (((readsRun a (eRegs (mEtype p.mode))).and (o.uses (eRegs (mEtype p.mode)))).and { pw := [q.toNat] })) :
    vcmpOp c q a o s = .next (went s r (s.onLanes r.group (s.active r) fun _ ln => ln.setPred q.toNat
      ((List.range (eCount (mEtype p.mode))).all fun h => !eLive (mEtype p.mode) (mLive p.mode) h ||
        condHolds c.toNat (elemInt (mEtype p.mode) (elemOf (mEtype p.mode) h (ln.image (mEtype p.mode) a.toNat)))
          (elemInt (mEtype p.mode) (elemOf (mEtype p.mode) h (o.image (mEtype p.mode) g p ln)))))) := by
  subst hg hp
  have hpair : pairType (eInt 0) (mEtype (s.path r).mode) = mEtype (s.path r).mode := rfl
  rw [vcmpOp, cmpOp, laneOp_ready hr _ _ (by simp [hc, hq, hpair, ha, ho]) he (fun _ h => h) (fun _ _ h => h) fun _ _ => rfl]
  simp only [foldl_or_no_flags, raise_none, List.all_map, List.all_filter, Function.comp_def]

/-- The selection takes y or keeps z, lane by lane; p0 is true. -/
theorem vselOp_ok (hg : s.group r.group = g) (hp : s.path r = p) {n : BitVec 3} (a : BitVec 8)
    (hd : isVE (mEtype p.mode) g d = true) (ho : o.okV (mEtype p.mode) g p = true)
    (hr : Ready s r ((((o.uses (eRegs (mEtype p.mode))).and (readsRun d (eRegs (mEtype p.mode)))).and { pr := [n.toNat] }).and
      (writesRun d (eRegs (mEtype p.mode))))) :
    vselOp d n o s = .next (went s r (s.onLanes r.group (s.active r) fun _ ln =>
      vecLane (fun _ _ _ y z => if n = 0#3 ∨ bit ln.p n.toNat = true then y else z) d a o g p ln)) := by
  subst hg hp
  rw [vselOp, laneOp_ready hr _ _ (by simp [hd, ho]) rfl (fun _ h => h) (fun _ _ h => h) fun _ _ => rfl]
  simp only [vecLane_choice a, pred_iff]

theorem vmovOp_ok (hg : s.group r.group = g) (hp : s.path r = p) (a : BitVec 8)
    (hd : isVE (mEtype p.mode) g d = true) (ho : o.okV (mEtype p.mode) g p = true)
    (hr : Ready s r ((o.uses (eRegs (mEtype p.mode))).and (writesRun d (eRegs (mEtype p.mode))))) :
    vmovOp d o s = .next (went s r (s.onLanes r.group (s.active r) fun _ ln => vecLane (fun _ _ _ y _ => y) d a o g p ln)) := by
  subst hg hp
  exact laneOp_ready hr _ _ (by simp [hd, ho]) rfl (fun _ h => h) (fun _ _ h => h) fun _ _ => rfl

end

/-- Settles O11: one lemma for each shape of word, which serves both of its forms, and the two counts in closed form. -/
theorem vectorOtherResults : Obligations.VectorOtherResults := by
  unfold Obligations.VectorOtherResults
  intro s r d a o g p e num does fieldIn fields compares picks hd
  refine ⟨fun ha hi hr => ⟨?abs, ?neg, fun he => ⟨?popc, ?clz⟩⟩, fun ho => ?forms⟩
  case abs => exact vec2_ok rfl rfl (fun e sat x => intoType e sat (elemInt e x).natAbs) o hi hd ha hr
  case neg => exact vec2_ok rfl rfl (fun e sat x => intoType e sat (-elemInt e x)) o hi hd ha hr
  case popc =>
    simp only [does, ← popCount_ofNat32]
    exact vec2_ok rfl rfl (fun _ _ x => popCount (BitVec.ofNat 32 x)) o (decide_eq_true he)
      ((isVE_only32 he g d).symm.trans hd) ((isVE_only32 he g a).symm.trans ha) hr
  case clz =>
    simp only [does, ← leadingZeros_eq]
    exact vec2_ok rfl rfl (fun _ _ x => leadingZeros x) o (decide_eq_true he)
      ((isVE_only32 he g d).symm.trans hd) ((isVE_only32 he g a).symm.trans ha) hr
  case forms =>
    have hfields {bfe bfi : Instr} (h₁ : exec bfe s = fieldOp false elemBfe d a o s)
        (h₂ : exec bfi s = fieldOp true elemBfi d a o s) : fields bfe bfi := fun he ha hin hr => by
      have hsel := fun l hl => fieldOk_image he (hin l hl)
      exact ⟨h₁.trans (fieldOp_ok rfl rfl elemBfe he hd ha ho hsel (by simp) hr),
        fun hz => h₂.trans (fieldOp_ok rfl rfl elemBfi he hd ha ho hsel (fun _ => hz) hr)⟩
    have hcompares {i : BitVec 3 → BitVec 3 → Instr} (h : ∀ c q, exec (i c q) s = vcmpOp c q a o s) : compares i :=
      fun hi ha c q hc hq hr => (h c q).trans (vcmpOp_ok rfl rfl hc hq hi ha ho hr)
    have hpicks {sel : BitVec 3 → Instr} {mov : Instr} (h₁ : ∀ n, exec (sel n) s = vselOp d n o s)
        (h₂ : exec mov s = vmovOp d o s) : picks sel mov :=
      ⟨fun n hr => (h₁ n).trans (vselOp_ok rfl rfl a hd ho hr), fun hr => h₂.trans (vmovOp_ok rfl rfl a hd ho hr)⟩
    constructor
    · rintro b rfl
      exact ⟨hfields rfl rfl, hcompares fun _ _ => rfl, hpicks (fun _ => rfl) rfl⟩
    · rintro k rfl
      exact ⟨hfields rfl rfl, hcompares fun _ _ => rfl, hpicks (fun _ => rfl) rfl⟩

end Sys2Proof.Machine
end

section
/-! One lane's pair of an atomic (R274 to R276). -/

namespace Sys2Proof.Machine

/-! A result fits the format it is written in (R86). -/

/-- A number of `bitLen` bits is below that power of two. -/
theorem lt_two_pow_bitLen (k : Nat) : k < 2 ^ bitLen k := by
  unfold bitLen
  split
  · simp [*]
  · exact Nat.lt_log2_self

/-- The significand that a format keeps, its leading bit among its bits. -/
theorem significand_lt (p k : Nat) : (if bitLen k ≤ p then k * 2 ^ (p - bitLen k) else k / 2 ^ (bitLen k - p)) < 2 ^ p := by
  have hk := lt_two_pow_bitLen k
  split
  · next h =>
    calc k * 2 ^ (p - bitLen k) < 2 ^ bitLen k * 2 ^ (p - bitLen k) := Nat.mul_lt_mul_of_pos_right hk (Nat.two_pow_pos _)
      _ = 2 ^ p := by rw [← Nat.pow_add, Nat.add_sub_cancel' h]
  · next h =>
    rw [Nat.div_lt_iff_lt_mul (Nat.two_pow_pos _), ← Nat.pow_add, Nat.add_sub_cancel' (by omega)]
    exact hk

/-- The magnitude of a single-precision value that has not overflowed lies below the infinity. -/
theorem packMag_lt_infBits {k : Nat} {q : Int} (hq : -149 ≤ q) (hl : leadExp k q ≤ 127) :
    packMag 24 (-126) k q < fmt32.infBits := by
  have hinf : fmt32.infBits = 255 * 2 ^ 23 := by decide
  rw [hinf]
  unfold packMag
  dsimp only
  split
  · next hsub =>
    have hlen : bitLen k + (q - (-126 - (24 : Nat) + 1)).toNat ≤ 23 := by unfold leadExp at hsub; omega
    generalize (q - (-126 - (24 : Nat) + 1)).toNat = i at hlen ⊢
    calc k * 2 ^ i < 2 ^ bitLen k * 2 ^ i := Nat.mul_lt_mul_of_pos_right (lt_two_pow_bitLen k) (Nat.two_pow_pos i)
      _ = 2 ^ (bitLen k + i) := (Nat.pow_add ..).symm
      _ ≤ 2 ^ 23 := Nat.pow_le_pow_right (by omega) hlen
      _ < 255 * 2 ^ 23 := by decide
  · have hsig := significand_lt 24 k
    have hexp : (leadExp k q - -126 + 1).toNat ≤ 254 := by omega
    omega

/-- A result written in single precision is a word. -/
theorem write_fmt32_lt (rnd r16 : Nat) (ftz sat : Bool) (v : FV) : (fmt32.write rnd r16 ftz sat v).1 < 2 ^ 32 := by
  have hsign (s : Bool) : s.toNat * 2 ^ (fmt32.width - 1) ≤ 2 ^ 31 := by cases s <;> decide
  have hinf : fmt32.infBits < 2 ^ 31 := by decide
  have hmax : fmt32.maxBits < 2 ^ 31 := by decide
  have hnan : fmt32.nanBits < 2 ^ 32 := by decide
  unfold Fmt.write
  split
  · exact hnan
  · next s =>
    have := hsign s
    dsimp only
    split <;> omega
  · next s _ =>
    have := hsign s
    dsimp only
    omega
  · next s m e _ =>
    have := hsign s
    have hq : -149 ≤ max (leadExp m e - fmt32.p + 1) (fmt32.emin - fmt32.p + 1) := Int.le_max_right _ _
    generalize max (leadExp m e - fmt32.p + 1) (fmt32.emin - fmt32.p + 1) = q at hq ⊢
    dsimp only
    generalize roundAt s m e q rnd r16 = z
    by_cases hover : z.1 ≠ 0 ∧ leadExp z.1 q > fmt32.emax
    · rw [if_pos hover]
      dsimp only
      split <;> omega
    · rw [if_neg hover]
      by_cases hz : z.1 = 0
      · rw [if_pos hz]
        dsimp only
        omega
      · have hmag : packMag fmt32.p fmt32.emin z.1 q < fmt32.infBits :=
          packMag_lt_infBits hq (Int.not_lt.1 fun h => hover ⟨hz, h⟩)
        rw [if_neg hz]
        split <;> dsimp only <;> omega

/-! The functions of the atomics (R274). -/

/-- ATFADD's sum is that of the two values, rounded to nearest even. -/
theorem addRne_eq {x y : Nat} (hx : x < 2 ^ 32) (hy : y < 2 ^ 32) :
    addRne x y = (fmt32.write 0 0 false false (FV.add 0 (fmt32.read false x) (fmt32.read false y)).1).1 := by
  simp only [addRne, f32, val32, BitVec.toNat_ofNat, Nat.mod_eq_of_lt hx, Nat.mod_eq_of_lt hy]
  exact Nat.mod_eq_of_lt (write_fmt32_lt ..)

/-- ATMAX keeps one of its operands, and no smaller one. -/
theorem apply_max (e old x y : Nat) : ∃ z, AtOp.apply .max e old x y = some z ∧ (z = old ∨ z = x) ∧
    elemInt e old ≤ elemInt e z ∧ elemInt e x ≤ elemInt e z := by
  by_cases h : elemInt e old < elemInt e x
  · exact ⟨x, by simp [AtOp.apply, h], .inr rfl, Int.le_of_lt h, Int.le_refl _⟩
  · exact ⟨old, by simp [AtOp.apply, h], .inl rfl, Int.le_refl _, Int.not_lt.1 h⟩

/-- ATMIN keeps one of its operands, and no larger one. -/
theorem apply_min (e old x y : Nat) : ∃ z, AtOp.apply .min e old x y = some z ∧ (z = old ∨ z = x) ∧
    elemInt e z ≤ elemInt e old ∧ elemInt e z ≤ elemInt e x := by
  by_cases h : elemInt e x < elemInt e old
  · exact ⟨x, by simp [AtOp.apply, h], .inr rfl, Int.le_of_lt h, Int.le_refl _⟩
  · exact ⟨old, by simp [AtOp.apply, h], .inl rfl, Int.le_refl _, Int.not_lt.1 h⟩

/-- What an integer atomic writes is an element. -/
theorem apply_lt {e old x y z : Nat} (ho : old < 2 ^ eWidth e) (hx : x < 2 ^ eWidth e) (hy : y < 2 ^ eWidth e) {o : AtOp}
    (hf : o ≠ .fadd) (hz : o.apply e old x y = some z) : z < 2 ^ eWidth e := by
  cases o <;> simp only [AtOp.apply, Option.some.injEq] at hz
  case add => exact hz ▸ Nat.mod_lt _ (Nat.two_pow_pos _)
  case and => exact hz ▸ Nat.and_lt_two_pow _ hx
  case or => exact hz ▸ Nat.or_lt_two_pow ho hx
  case xor => exact hz ▸ Nat.xor_lt_two_pow ho hx
  case xchg => exact hz ▸ hx
  case cas =>
    split at hz
    · exact Option.some.inj hz ▸ hy
    · cases hz
  case fadd => exact absurd rfl hf
  case max | min => split at hz <;> omega

/-! The pair (R275, R276). -/

section
variable (o : AtOp) (b : BitVec 8) (r : PathRef) (g : Group) (p : Path) (s : State) (l : Nat) (loc : Loc)

/-- What the pair of a lane makes of the element that it finds: f of it, where f writes (R274). -/
def atomicNew : Option Nat :=
  let v := g.opNum (g.lane l) b (o.bRegs p)
  o.apply (mEtype p.mode) (s.numAt loc (opBytes p)) (v % 2 ^ (8 * opBytes p)) (v / 2 ^ (8 * opBytes p))

variable {o b g p s l loc}

/-- A poisoned element is left as it is. -/
theorem atomicLane_poisoned (h : s.poisoned loc (opBytes p) = true) :
    atomicLane o b r g p s l loc = (s, s.numAt loc (opBytes p), true, false) := by simp [atomicLane, h]

theorem atomicLane_writes {x : Nat} (h : s.poisoned loc (opBytes p) = false) (hx : atomicNew o b g p s l loc = some x) :
    atomicLane o b r g p s l loc =
      (s.store (s.writer r.group l) 2 loc (bytesOfNat (opBytes p) x), s.numAt loc (opBytes p), false, true) := by
  rw [atomicNew] at hx
  simp [atomicLane, h, hx]

theorem atomicLane_keeps (h : s.poisoned loc (opBytes p) = false) (hx : atomicNew o b g p s l loc = none) :
    atomicLane o b r g p s l loc = (s, s.numAt loc (opBytes p), false, false) := by
  rw [atomicNew] at hx
  simp [atomicLane, h, hx]

/-- A pair answers the old value and its poison. -/
theorem atomicLane_answers : (atomicLane o b r g p s l loc).2.1 = s.numAt loc (opBytes p) ∧
    (atomicLane o b r g p s l loc).2.2.1 = s.poisoned loc (opBytes p) := by
  cases hp : s.poisoned loc (opBytes p) with
  | true => simp [atomicLane_poisoned r hp]
  | false =>
    cases hx : atomicNew o b g p s l loc with
    | none => simp [atomicLane_keeps r hp hx]
    | some x => simp [atomicLane_writes r hp hx]

variable {r}

/-- Without a log the memory that a pair leaves is the one it found, or that with the new element written. -/
theorem atomicLane_memory (h : Unlogged s r.group) : (atomicLane o b r g p s l loc).1 = s ∨
    ∃ x, (atomicLane o b r g p s l loc).1 = s.setBytes loc (bytesOfNat (opBytes p) x) := by
  cases hp : s.poisoned loc (opBytes p) with
  | true => simp [atomicLane_poisoned r hp]
  | false =>
    cases hx : atomicNew o b g p s l loc with
    | none => simp [atomicLane_keeps r hp hx]
    | some x => exact .inr ⟨x, by rw [atomicLane_writes r hp hx, store_unlogged _ _ _ _ h.quiet]⟩

/-- The element that a pair leaves behind. -/
theorem numAt_atomicLane (h : Unlogged s r.group) (hl : loc.Plain) (hp : s.poisoned loc (opBytes p) = false) :
    (atomicLane o b r g p s l loc).2.2.2 = (atomicNew o b g p s l loc).isSome ∧
    (atomicLane o b r g p s l loc).1.numAt loc (opBytes p) =
      (atomicNew o b g p s l loc).getD (s.numAt loc (opBytes p)) % 2 ^ (8 * opBytes p) := by
  cases hx : atomicNew o b g p s l loc with
  | none =>
    rw [atomicLane_keeps r hp hx]
    exact ⟨rfl, (Nat.mod_eq_of_lt (numAt_lt s loc _)).symm⟩
  | some x =>
    have hread := numAt_setBytes loc (bytesOfNat (opBytes p) x) h.toBytesOk hl
    rw [length_bytesOfNat, natOfBytes_bytesOfNat] at hread
    rw [atomicLane_writes r hp hx, store_unlogged _ _ _ _ h.quiet]
    exact ⟨rfl, hread⟩

/-- A byte outside the element reads as before. -/
theorem byteAt_atomicLane_other (h : Unlogged s r.group) {x : Loc} (hx : x.NoAcc)
    (hn : ∀ i, i < opBytes p → loc.plus i ≠ x) : (atomicLane o b r g p s l loc).1.byteAt x = s.byteAt x := by
  rcases atomicLane_memory h with hs | ⟨y, hs⟩ <;> rw [hs]
  exact byteAt_setBytes_other _ loc x false h.toBytesOk hx (.inr (.inr (by simpa using hn)))

end

/-- Settles O40: the functions one by one, and the pair by whether its element is poisoned and whether f writes. -/
theorem atomicPairs : Obligations.AtomicPairs := by
  unfold Obligations.AtomicPairs
  refine ⟨fun e old x y _ ho hx hy => ?functions, fun old x y ho hx => congrArg some (addRne_eq ho hx),
    ?pair⟩
  case functions =>
    exact ⟨rfl, rfl, rfl, rfl, rfl, apply_max e old x y, apply_min e old x y, rfl, fun o z hz hf => apply_lt ho hx hy hf hz⟩
  case pair =>
    intro s o b r g p l loc n old v new z c within hmem hpad hquiet hacc hlost hgone
    have h : Unlogged s r.group := ⟨bytesOk_of_memoryOk hmem hpad, hquiet⟩
    obtain ⟨hold, hpoison⟩ : z.2.1 = old ∧ z.2.2.1 = s.poisoned loc n := atomicLane_answers r
    refine ⟨hold, hpoison, fun hp => ?_, numAt_atomicLane h ⟨hacc, hlost, hgone⟩, fun x hx hn => ?_⟩
    · have hz : z = (s, old, true, false) := atomicLane_poisoned r hp
      rw [hz]
      exact ⟨rfl, rfl⟩
    · exact byteAt_atomicLane_other h hx fun i hi he => hn ⟨i, hi, he⟩

end Sys2Proof.Machine
end

section
/-! Uniform arithmetic (R321, R322), where the operands are of their kinds and the uniform registers are free. -/

namespace Sys2Proof.Machine

/-! What the functions compute. -/

/-- A shift takes the low five bits of its amount. -/
theorem fld_4_0 (y : Word) : fld y 4 0 = y.toNat % 32 := by simp [fld]

/-- SMULH is the upper half of the product, of naturals under an n type and of integers under an i type. -/
theorem mulHigh_eq (p : Path) (x y : Word) : mulHigh p x y =
    if eUnsigned (mEtype p.mode) then BitVec.ofNat 32 (x.toNat * y.toNat / 2 ^ 32)
    else BitVec.ofInt 32 (x.toInt * y.toInt / 2 ^ 32) := by
  unfold mulHigh uniformInt unsignedMode
  cases eUnsigned (mEtype p.mode) with
  | false => rfl
  | true => exact BitVec.ofInt_natCast 32 (x.toNat * y.toNat / 2 ^ 32)

/-- Words are compared as naturals under an n type and as integers under an i type. -/
theorem uniformInt_le_iff (p : Path) (x y : Word) : uniformInt p x ≤ uniformInt p y ↔
    if eUnsigned (mEtype p.mode) then x.toNat ≤ y.toNat else x.toInt ≤ y.toInt := by
  unfold uniformInt unsignedMode
  cases eUnsigned (mEtype p.mode) <;> simp

theorem qpred_iff (g : Group) (n : BitVec 3) : g.qpred n.toNat = true ↔ n = 0#3 ∨ bit g.q n.toNat = true := by
  simp [Group.qpred, BitVec.toNat_eq]

theorem setQ_of_ne_zero (g : Group) {q : BitVec 3} (h : q ≠ 0#3) (v : Bool) :
    g.setQ q.toNat v = { g with q := setBit g.q q.toNat v } :=
  if_neg fun hz => h (BitVec.eq_of_toNat_eq hz)

/-- An immediate, sign-extended from seven bits (R63). -/
theorem immOf_eq_toInt (k : BitVec 8) : immOf k = (k.extractLsb' 0 7).toInt := by
  rw [← signedOf_toNat]
  simp [immOf, signedOf]

/-- A K operand as a 64-bit integer: the immediate or the literal, sign-extended (R63). -/
theorem kDword_eq (p : Path) (k : BitVec 8) : kDword p k = if k.toNat < 128 then (k.extractLsb' 0 7).signExtend 64
    else (p.cl.lits.getD (k.toNat - 128) 0).signExtend 64 := by
  unfold kDword
  rw [immOf_eq_toInt]
  rfl

/-! The words. -/

section
variable {s : State} {r : PathRef} {d a : BitVec 8} {o : Opnd} {rd : List Nat}

/-- An instruction of two sources that writes one register. -/
theorem uniformChecked_ok (hi : Issuing s r) {late : Word → Bool} (f : Path → Word → Word → Word) (hd : isS d = true)
    (ha : isS a = true) (ho : o.okS (s.path r) = true) (hu : o.uses 1 = { sr := rd })
    (hl : late (o.word (s.group r.group) (s.path r)) = true) (hf : SFree (s.group r.group) (sNum a :: rd) [sNum d]) :
    uniformChecked late f d a o s = .next (went s r (s.setGroup r.group ((s.group r.group).setSreg (sNum d)
      (f (s.path r) ((s.group r.group).sreg (sNum a)) (o.word (s.group r.group) (s.path r)))))) :=
  groupOp_ok hi _ _ (cause_sfree hf (by simp [hd, ha, ho]) rfl (by simp [reads1 ha, hu, writes1 hd, Uses.and]) 0 {} (if_pos hl))

theorem uniformMov_ok (hi : Issuing s r) (hd : isS d = true) (ho : o.okS (s.path r) = true) (hu : o.uses 1 = { sr := rd })
    (hf : SFree (s.group r.group) rd [sNum d]) :
    uniformMov d o s = .next (went s r (s.setGroup r.group ((s.group r.group).setSreg (sNum d)
      (o.word (s.group r.group) (s.path r))))) :=
  groupOp_ok hi _ _ (cause_sfree hf (by simp [hd, ho]) rfl (by simp [hu, writes1 hd, Uses.and]) 0 {} rfl)

/-- SSEL reads the register that it keeps. -/
theorem uniformSel_ok (hi : Issuing s r) (n : BitVec 3) (hd : isS d = true) (ho : o.okS (s.path r) = true)
    (hu : o.uses 1 = { sr := rd }) (hf : SFree (s.group r.group) (sNum d :: rd) [sNum d]) :
    uniformSel d n o s = .next (went s r (s.setGroup r.group ((s.group r.group).setSreg (sNum d)
      (if n = 0#3 ∨ bit (s.group r.group).q n.toNat = true then o.word (s.group r.group) (s.path r)
       else (s.group r.group).sreg (sNum d))))) := by
  have hc := cause_sfree (c := { field := isS d && o.okS (s.path r), uses := ((readsRun d 1).and (o.uses 1)).and (writesRun d 1) })
    hf (by simp [hd, ho]) rfl (by simp [reads1 hd, hu, writes1 hd, Uses.and]) 0 {} rfl
  rw [uniformSel, groupOp_ok hi _ _ hc]
  simp only [qpred_iff]

/-- SCMP writes a uniform predicate other than q0. -/
theorem uniformCmp_ok (hi : Issuing s r) {c q : BitVec 3} (hc : c.toNat ≤ 5) (hq : q ≠ 0#3) (ha : isS a = true)
    (ho : o.okS (s.path r) = true) (hu : o.uses 1 = { sr := rd }) (hf : SFree (s.group r.group) (sNum a :: rd) []) :
    uniformCmp c q a o s = .next (went s r (s.setGroup r.group { s.group r.group with
      q := setBit (s.group r.group).q q.toNat (condHolds c.toNat
        (uniformInt (s.path r) ((s.group r.group).sreg (sNum a)))
        (uniformInt (s.path r) (o.word (s.group r.group) (s.path r)))) })) := by
  rw [← setQ_of_ne_zero _ hq]
  exact groupOp_ok hi _ _ (cause_sfree hf (by simp [hc, hq, ha, ho]) rfl (by simp [reads1 ha, hu, Uses.and]) 0 {} rfl)

theorem execSpopc_ok (hi : Issuing s r) (hd : isS d = true) (ha : isS a = true)
    (hf : SFree (s.group r.group) [sNum a] [sNum d]) :
    execSpopc d a s = .next (went s r (s.setGroup r.group ((s.group r.group).setSreg (sNum d)
      (BitVec.ofNat 32 (popCount ((s.group r.group).sreg (sNum a))))))) :=
  groupOp_ok hi _ _ (cause_sfree hf (by simp [hd, ha]) rfl (by simp [reads1 ha, writes1 hd, Uses.and]) 0 {} rfl)

/-- SADD64 adds pairs. -/
theorem uniformAdd64_ok (hi : Issuing s r) (hd : isSPair d = true) (ha : isSPair a = true) (ho : o.okS64 (s.path r) = true)
    (hu : o.uses 2 = { sr := rd })
    (hf : SFree (s.group r.group) (sNum a :: (sNum a + 1) :: rd) [sNum d, sNum d + 1]) :
    uniformAdd64 d a o s = .next (went s r (s.setGroup r.group ((s.group r.group).setSpair (sNum d)
      ((s.group r.group).spair (sNum a) + o.dword (s.group r.group) (s.path r))))) :=
  groupOp_ok hi _ _ (cause_sfree hf (by simp [hd, ha, ho]) rfl
    (by simp [reads2 (isS_of_pair ha), hu, writes2 (isS_of_pair hd), Uses.and]) 0 {} rfl)

end

/-- Settles O7: every instruction is one function of two registers; the shifts, SMULH, SMIN and SMAX by what theirs compute. -/
theorem uniformRegisterFormResults : Obligations.UniformRegisterFormResults := by
  unfold Obligations.UniformRegisterFormResults
  intro s r d a b hi hd ha hb hf g x y u wrote
  have hdoes {i : Instr} (f : Path → Word → Word → Word) {v : Word} (h : exec i s = uniform2 f d a (.reg b) s)
      (hv : f (s.path r) x y = v) : exec i s = wrote v := by
    rw [h, ← hv]
    exact uniformChecked_ok hi f hd ha hb (reads1 hb) rfl hf
  have hamount := fld_4_0 y
  have hle := uniformInt_le_iff (s.path r) x y
  refine ⟨?add, ?sub, ?mul, ?mulh, ?and, ?or, ?xor, ?shl, ?shr, ?sra, ?min, ?max⟩
  case add => exact hdoes (fun _ x y => x + y) rfl rfl
  case sub => exact hdoes (fun _ x y => x - y) rfl rfl
  case mul => exact hdoes (fun _ x y => x * y) rfl rfl
  case mulh => exact hdoes mulHigh rfl (mulHigh_eq _ x y)
  case and => exact hdoes (fun _ x y => x &&& y) rfl rfl
  case or => exact hdoes (fun _ x y => x ||| y) rfl rfl
  case xor => exact hdoes (fun _ x y => x ^^^ y) rfl rfl
  case shl => exact hdoes (fun _ x y => x <<< fld y 4 0) rfl (congrArg (x <<< ·) hamount)
  case shr => exact hdoes (fun _ x y => x >>> fld y 4 0) rfl (congrArg (x >>> ·) hamount)
  case sra => exact hdoes (fun _ x y => x.sshiftRight (fld y 4 0)) rfl (congrArg x.sshiftRight hamount)
  case min => exact hdoes uniformMin rfl (ite_congr (propext hle) (fun _ => rfl) fun _ => rfl)
  case max => exact hdoes uniformMax rfl (ite_congr (propext hle) (fun _ => rfl) fun _ => rfl)

/-- Settles O9: one lemma for each shape of word; SADD64's K form by the 64-bit value of its constant. -/
theorem uniformOtherResults : Obligations.UniformOtherResults := by
  unfold Obligations.UniformOtherResults
  intro s r d a b k hi hd g p x y u wrote holds
  refine ⟨?mov, ?sel, ?cmp, ?field, ?count, ?pairs, ?pairK⟩
  case mov => exact fun hb hf => uniformMov_ok hi hd hb (reads1 hb) hf
  case sel => exact fun n hb hf => uniformSel_ok hi n hd hb (reads1 hb) hf
  case cmp => exact fun c q ha hb hc hq hf => uniformCmp_ok hi hc hq ha hb (reads1 hb) hf
  case field =>
    intro ha hb hin hf
    have hv : fieldExtract x y = BitVec.ofNat 32 (x.toNat / 2 ^ (y.toNat % 32) % 2 ^ (y.toNat / 256 % 64)) := by
      rw [fieldExtract, fld_4_0]
      rfl
    rw [← hv]
    exact uniformChecked_ok hi (fun _ => fieldExtract) hd ha hb (reads1 hb) hin hf
  case count => exact fun ha hf => execSpopc_ok hi hd ha hf
  case pairs => exact fun hd ha hb hf => uniformAdd64_ok hi hd ha hb (reads2 (isS_of_pair hb)) hf
  case pairK =>
    intro hd ha hk hf
    rw [← kDword_eq]
    exact uniformAdd64_ok hi hd ha hk rfl hf

end Sys2Proof.Machine
end

section
/-! The cross-lane instructions (R302), where nothing stands in their way. -/

namespace Sys2Proof.Machine

/-- A combination that has begun, or that has a lane to begin with, has a value. -/
theorem combineLanes_isSome (sel a : Nat) (p : Path) (out : Nat → Word → Group → Group) (x : Option Word) (ls : List Nat) (g : Group)
    (h : x.isSome = true ∨ ls ≠ []) : (combineLanes sel a p out x ls g).1.isSome = true := by
  induction ls generalizing x g with
  | nil => simpa [combineLanes] using h
  | cons l ls ih => cases x <;> exact ih _ _ (.inl rfl)

/-- A cross-lane word in whose way nothing stands, by what it makes of the group where a lane is active. -/
theorem crossOp_does {s : State} {r : PathRef} {field : Group → Path → Bool} {mode : Path → Bool}
    {uses : Group → List Nat → CrossUses} {late : Group → Bool} {eff : Group → Path → List Nat → Group}
    (h : CrossReady s r (uses (s.group r.group) (s.active r))) (hf : field (s.group r.group) (s.path r) = true)
    (hm : mode (s.path r) = true) (hl : late (s.group r.group) = true) (f : Group → Group)
    (he : s.active r ≠ [] → eff (s.group r.group) (s.path r) (s.active r) = f (s.group r.group)) :
    crossOp field mode uses late eff s = .next (went s r (s.updGroup r.group fun g => if (s.active r).isEmpty then g else f g)) := by
  rw [crossOp_ok field mode uses late eff h hf hm hl]
  by_cases hL : s.active r = []
  · simp [hL]
  · simp [State.updGroup, hL, he hL]

theorem reduces_iff (p : Path) : reduces p = true ↔ mEtype p.mode = 0 ∨ mEtype p.mode = 1 ∨ mEtype p.mode = 8 := by
  simp [reduces, or_assoc]

/-- LREDUCE with an active lane has a value to write; LFLAGS takes the flags as they stand before the combination. -/
theorem lreduceOp_ok {s : State} {r : PathRef} {d a b : BitVec 8} (hd : isS d = true) (ha : isV (s.group r.group) a = true)
    (hb : b.toNat ≤ 2) (hm : reduces (s.path r) = true)
    (h : CrossReady s r { reads := (s.active r).map fun l => (l, a.toNat), sw := [sNum d] }) :
    lreduceOp d a b s = .next (went s r (s.updGroup r.group fun g => if (s.active r).isEmpty then g else
      let z := combineLanes b.toNat a.toNat (s.path r) (fun _ _ g => g) none (s.active r)
        { g with lflags := (s.active r).foldl (fun f l => f ||| (g.lane l).fpstat) 0 }
      z.2.setSreg (sNum d) (z.1.getD 0))) := by
  refine crossOp_does h (by simp [hd, ha, hb]) hm rfl _ fun hL => ?_
  obtain ⟨x, hx⟩ := Option.isSome_iff_exists.1 (combineLanes_isSome b.toNat a.toNat (s.path r) (fun _ _ g => g) none (s.active r)
    { s.group r.group with lflags := (s.active r).foldl (fun f l => f ||| ((s.group r.group).lane l).fpstat) 0 } (.inr hL))
  simp only [hx, Option.getD_some]

/-- Settles O20: each word by its effect on a group with an active lane; LBCAST by the index of its uniform register, and LREDUCE by
the value that a lane to begin with gives it. -/
theorem crossLaneResults : Obligations.CrossLaneResults := by
  unfold Obligations.CrossLaneResults
  intro s r d a b n g p L index value idx sr wrote live
  refine ⟨fun hd h => ?ballot, fun hd ha hb hi h => ?bcast, fun hd ha hb => ?moves, fun ha hb he => ?combines⟩
  case ballot =>
    change lballotOp d n s = _
    exact crossOp_does h hd rfl rfl _ fun _ => rfl
  case bcast =>
    have hindex : index 0 = fld (g.sreg (sNum b)) 4 0 := by simp only [index, hb, if_true]
    have hfield : (isS d && isV g a && isS b) = true := by simp [hd, ha, hb]
    simp only [hindex] at h ⊢
    change lbcastOp d a b s = _
    exact crossOp_does h hfield rfl (by simpa using hi) _ fun _ => rfl
  case moves =>
    have hfield : (isV g d && isV g a && isReg g b) = true := by simp [hd, ha, hb]
    refine ⟨fun h => ?shuf, fun h => ?push⟩
    case shuf =>
      change lshufOp d a b s = _
      exact crossOp_does h hfield rfl rfl _ fun _ => rfl
    case push =>
      change lpushOp d a b s = _
      exact crossOp_does h hfield rfl rfl _ fun _ => rfl
  case combines =>
    have hmode := (reduces_iff p).2 he
    refine ⟨fun hd h => lreduceOp_ok hd ha hb hmode h, fun hd h => ?scan⟩
    case scan =>
      change lscanOp d a b s = _
      exact crossOp_does h (by simp [hd, g, ha, hb]) hmode rfl _ fun _ => rfl

end Sys2Proof.Machine
end

section
/-! The vector stores (R333, R335, R336) and the uniform loads and stores (R329, R330), where the address step succeeds. -/

namespace Sys2Proof.Machine

/-! Widths: part of one register, or a whole number of registers. -/

/-- The registers of an access hold all of its bytes. -/
theorem le_four_mul_regsOf {n : Nat} (h : n ≤ 4 ∨ n % 4 = 0) : n ≤ 4 * regsOf n := by
  unfold regsOf
  split <;> omega

/-- A run of registers has four bytes for each. -/
theorem length_words {xs : List Nat} (f : Nat → Nat) : (xs.flatMap fun i => bytesOfNat 4 (f i)).length = 4 * xs.length := by
  induction xs with
  | nil => rfl
  | cons x xs ih => rw [List.flatMap_cons, List.length_append, length_bytesOfNat, ih, List.length_cons]; omega

/-- A lane stores as many bytes as its instruction says. -/
theorem length_storeBytes {n : Nat} (h : n ≤ 4 ∨ n % 4 = 0) (d : Nat) (ln : Lane) : (storeBytes n d ln).length = n := by
  rw [storeBytes, List.length_take, length_words, List.length_range, Nat.min_eq_left (le_four_mul_regsOf h)]

/-- The memory that a store of `n` bytes from each lane of `locs` leaves: its bytes are written, or laid under a write in progress that
its path has not seen (R336). -/
def storedMemory (kind n : Nat) (data : Nat → List Byte) (r : PathRef) (p : Path) (locs : List (Nat × Loc)) (s : State) : State :=
  match s.under r p.mode n (locs.map fun e => e.2) with
  | some x => s.layUnder x ((locs.head?).elim [] fun e => data e.1)
  | none => (storeLanes 1 r data locs s).wrote (s.storeBefore r data locs) r p.mode false (p.flagFor .nonReturning).isNone n
      (locs.map fun e => e.2) kind

/-- The effect of a store whose lanes store `n` bytes each. -/
theorem storeEff_eq {kind n : Nat} {data : Group → Nat → List Byte} {r : PathRef} {g : Group} {p : Path} {locs : List (Nat × Loc)}
    {s : State} (hn : ∀ l, (data g l).length = n) :
    storeEff kind data r g p locs s =
      if locs.isEmpty then s.issueEmpty r (p.flagFor .nonReturning)
      else (storedMemory kind n (data g) r p locs s).issueAccess r (p.flagFor .nonReturning) [] (locs.map fun e => e.2) p.lowLane := by
  cases locs with
  | nil => rfl
  | cons e locs =>
    rw [← hn e.1]
    rfl

/-- A vector store, where the address step succeeds in every active lane. -/
theorem vstore_ok {s t : State} {r : PathRef} {d a : BitVec 8} {o : Opnd} {n : Nat} {locs : List (Nat × Loc)} (hn : n ≤ 4 ∨ n % 4 = 0)
    (hd : isRun (s.group r.group) d (regsOf n) (regsOf n) = true) (ha : isVPair (s.group r.group) a = true)
    (ho : o.okS (s.path r) = true) (hm : mMord (s.path r).mode ≠ 4)
    (h : Ready s r (((readsRun a 2).and (o.uses 1)).and (readsRun d (regsOf n))))
    (hr : Reaches s r .store n (fun l => laneAddr (s.group r.group) (s.path r) ((s.group r.group).lane l) a o) t locs) :
    vstore n d a o s = .next (went t r (
      if locs.isEmpty then t.issueEmpty r ((s.path r).flagFor .nonReturning)
      else (storedMemory 2 n (fun l => storeBytes n d.toNat ((s.group r.group).lane l)) r (s.path r) locs t).issueAccess r
        ((s.path r).flagFor .nonReturning) [] (locs.map fun e => e.2) (s.path r).lowLane)) := by
  rw [← storeEff_eq (data := fun g l => storeBytes n d.toNat (g.lane l)) fun l => length_storeBytes hn _ _]
  exact memOp_ok h (storeChecks n d a o) .store (fun _ => n) (fun g p ln => laneAddr g p ln a o) _ _ locs
    (by simp [storeChecks, hd, ha, ho]) (by simpa [storeChecks] using hm) (fun _ hz => hz) (fun _ _ hp => hp) (fun _ _ => rfl) hr

/-- Settles O31: one lemma for every width and both forms; a lane's run has as many bytes as the instruction stores. -/
theorem vectorStoreResults : Obligations.VectorStoreResults := by
  unfold Obligations.VectorStoreResults
  intro s t r d a o locs g p addr flag stores
  have hstores {i : Instr} {n : Nat} (hi : exec i s = vstore n d a o s) (hn : n ≤ 4 ∨ n % 4 = 0) : stores i n :=
    fun hd ha ho hm h hr => hi.trans (vstore_ok hn hd ha ho hm h hr)
  constructor
  · rintro b rfl
    exact ⟨hstores rfl (by decide), hstores rfl (by decide), hstores rfl (by decide), hstores rfl (by decide), hstores rfl (by decide)⟩
  · rintro k rfl
    exact ⟨hstores rfl (by decide), hstores rfl (by decide), hstores rfl (by decide), hstores rfl (by decide), hstores rfl (by decide)⟩

/-! Uniform loads and stores. -/

/-- The address step of a uniform access succeeds and leaves state `t` (R106, R330): no page that it needs must wait for frames, its place
lies in no tile in flight, and no watchpoint matches. -/
structure UReaches (s : State) (r : PathRef) (kind : Acc) (n : Nat) (addr : DWord) (t : State) (loc : Loc) : Prop where
  reached : s.access ((s.group r.group).agent r.group none) kind n addr = (t, .ok loc)
  paged   : t.lacks = s.lacks
  idle    : s.tileBusy [(0, loc)] = false
  passed  : t.watched r (s.path r).lowLane addr n kind.writes (!kind.writes) = none

section
variable {s t u : State} {r : PathRef} {d a : BitVec 8} {o : Opnd} {n : Nat} {loc : Loc}

/-- A uniform access that reaches its place, and for whose log entry there is room where it writes. -/
theorem uniformMem_ok (hi : Issuing s r) (chk : Group → Path → Checks) (kind : Acc) (addr : Group → Path → DWord)
    (eff : PathRef → Group → Path → Loc → State → State) (hc : passes chk s r)
    (hr : UReaches s r kind n (addr (s.group r.group) (s.path r)) t loc)
    (hu : (if kind.writes && loc.logs then t.reserve (s.group r.group).ctx 1 (s.group r.group).isHandler else some t) = some u) :
    uniformMem chk kind n addr eff s = .next (went u r (eff r (s.group r.group) (s.path r) loc u)) := by
  have hst : SameWork s t := by
    have := sameWork_access s ((s.group r.group).agent r.group none) kind n (addr (s.group r.group) (s.path r))
    rwa [hr.reached] at this
  have htu : SameWork t u := by
    split at hu
    · exact sameWork_reserve hu
    · exact Option.some.inj hu ▸ .refl t
  simp only [uniformMem, issuing_of hi, hc, hr.reached, hr.paged, hr.idle, hr.passed, ne_eq, not_true, Option.isSome_none,
    Bool.false_eq_true, if_false, hu, conclude_reached hi (hst.trans htu), went]

/-- A uniform access is of one register, or of a pair. -/
theorem uchecks_pass {store : Bool} {rd wr : List Nat} (hn : n = 4 ∨ n = 8 ∧ isSPair d = true) (hd : isS d = true)
    (ha : isSPair a = true) (ho : o.okS (s.path r) = true) (hm : store = true → mMord (s.path r).mode ≠ 4)
    (hu : (uchecks n store d a o (s.group r.group) (s.path r)).uses = { sr := rd, sw := wr }) (hf : SFree (s.group r.group) rd wr) :
    passes (uchecks n store d a o) s r := by
  refine cause_sfree hf ?field ?mode hu 0 {} rfl
  case field => obtain rfl | ⟨rfl, hp⟩ := hn <;> simp [uchecks, isSRun, *]
  case mode => cases store <;> simp_all [uchecks]

/-- The B operand of a uniform word names uniform registers alone. -/
theorem uses_of_okS {p : Path} (h : o.okS p = true) (n : Nat) : o.uses n = { sr := (o.uses n).sr } := by
  cases o with
  | reg b => simp only [Opnd.uses, readsRun_s h]
  | k k => rfl

/-- The words of a uniform load, the lowest first. -/
theorem loadWords_uniform (hn : n = 4 ∨ n = 8) (x : Nat) :
    loadWords n false x = (List.range (regsOf n)).map fun i => BitVec.ofNat 32 (x / 2 ^ (32 * i)) := by
  obtain rfl | rfl := hn
  · simp [loadWords, regsOf]
  · rfl

/-- A uniform load takes what its path sees, and lands it in its registers as it completes. -/
theorem sload_ok (hi : Issuing s r) (hn : n = 4 ∨ n = 8 ∧ isSPair d = true) (hd : isS d = true)
    (ha : isSPair a = true) (ho : o.okS (s.path r) = true) (hf : SFree (s.group r.group) ([sNum a, sNum a + 1] ++ (o.uses 1).sr)
      ((List.range (regsOf n)).map (sNum d + ·)))
    (hr : UReaches s r .uload n (uniformAddr (s.group r.group) (s.path r) a o) t loc) :
    sload n d a o s = .next (went t r ((t.readBy r (s.path r).mode n [loc] (t.staleIds r)).issueAccess r ((s.path r).flagFor .returning)
      ((List.range (regsOf n)).map fun i => let v := t.view r
        Dest.sreg (sNum d + i) (BitVec.ofNat 32 (v.numAt loc n / 2 ^ (32 * i))) (v.poisoned loc n)) [loc] (s.path r).lowLane)) := by
  have hu : (uchecks n false d a o (s.group r.group) (s.path r)).uses =
      { sr := [sNum a, sNum a + 1] ++ (o.uses 1).sr, sw := (List.range (regsOf n)).map (sNum d + ·) } := by
    simp only [uchecks, reads2 (isS_of_pair ha), writesRun_s hd]
    rw [uses_of_okS ho]
    simp [Uses.and]
  have hdests (v : State) : (List.range (loadWords n false (v.numAt loc n)).length).map (fun i =>
        Dest.sreg (sNum d + i) (wordAt (loadWords n false (v.numAt loc n)) i) (v.poisoned loc n)) =
      (List.range (regsOf n)).map fun i => Dest.sreg (sNum d + i) (BitVec.ofNat 32 (v.numAt loc n / 2 ^ (32 * i))) (v.poisoned loc n) := by
    rw [loadWords_uniform (hn.imp_right And.left), List.length_map, List.length_range]
    refine List.map_congr_left fun i hi => ?_
    simp [wordAt, List.mem_range.1 hi]
  dsimp only
  rw [← hdests]
  exact uniformMem_ok hi _ .uload _ _ (uchecks_pass hn hd ha ho nofun hu hf) hr rfl

/-- A uniform store writes its registers as it issues. -/
theorem sstore_ok (hi : Issuing s r) (hn : n = 4 ∨ n = 8 ∧ isSPair d = true) (hd : isS d = true)
    (ha : isSPair a = true) (ho : o.okS (s.path r) = true) (hm : mMord (s.path r).mode ≠ 4)
    (hf : SFree (s.group r.group) ([sNum a, sNum a + 1] ++ (o.uses 1).sr ++ (List.range (regsOf n)).map (sNum d + ·)) [])
    (hr : UReaches s r .store n (uniformAddr (s.group r.group) (s.path r) a o) t loc)
    (hres : (if loc.logs then t.reserve (s.group r.group).ctx 1 (s.group r.group).isHandler else some t) = some u) :
    sstore n d a o s = .next (went u r ((storedMemory 2 n (fun _ => sstoreBytes n d (s.group r.group)) r (s.path r)
      [((s.path r).lowLane, loc)] u).issueAccess r ((s.path r).flagFor .nonReturning) [] [loc] (s.path r).lowLane)) := by
  have hu : (uchecks n true d a o (s.group r.group) (s.path r)).uses =
      { sr := [sNum a, sNum a + 1] ++ (o.uses 1).sr ++ (List.range (regsOf n)).map (sNum d + ·) } := by
    simp only [uchecks, reads2 (isS_of_pair ha), readsRun_s hd]
    rw [uses_of_okS ho]
    simp [Uses.and]
  have hlen : (sstoreBytes n d (s.group r.group)).length = n := by
    rw [sstoreBytes, length_words, List.length_range]
    obtain rfl | ⟨rfl, -⟩ := hn <;> rfl
  have h := uniformMem_ok hi (uchecks n true d a o) .store (fun g p => uniformAddr g p a o) (fun r g p loc s =>
    storeEff 2 (fun g _ => sstoreBytes n d g) r g p [(p.lowLane, loc)] s) (uchecks_pass hn hd ha ho (fun _ => hm) hu hf) hr hres
  rw [storeEff_eq fun _ => hlen] at h
  exact h

end

/-- Registers that are free to be read may be read by one word. -/
theorem SFree.append {g : Group} {rd rd' : List Nat} (h : SFree g rd []) (h' : SFree g rd' []) : SFree g (rd ++ rd') [] where
  pend i hi := by
    rw [List.append_nil, List.mem_append] at hi
    exact hi.elim (fun hi => h.pend i (by simpa using hi)) fun hi => h'.pend i (by simpa using hi)
  poison i hi := (List.mem_append.1 hi).elim (h.poison i) (h'.poison i)

/-- Settles O37: the loads and the stores each by one lemma for both widths and both forms. -/
theorem uniformMemoryResults : Obligations.UniformMemoryResults := by
  unfold Obligations.UniformMemoryResults
  intro s t u r d a o loc g p addr sure loads stores
  have hwidth {n : Nat} (hn : n = 4 ∨ n = 8) (h : n = 4 ∨ isSPair d = true) : n = 4 ∨ n = 8 ∧ isSPair d = true :=
    hn.imp_right fun h8 => ⟨h8, h.resolve_left (by omega)⟩
  have hloads {i : Instr} {n : Nat} (h : exec i s = sload n d a o s) (hn : n = 4 ∨ n = 8) : loads i n := by
    rintro ⟨hi, hpair, hd, ha, ho, hf, hreached, hpaged, hidle, hpassed⟩ hwr
    exact h.trans (sload_ok hi (hwidth hn hpair) hd ha ho (hf.join hwr) ⟨hreached, hpaged, hidle, hpassed⟩)
  have hstores {i : Instr} {n : Nat} (h : exec i s = sstore n d a o s) (hn : n = 4 ∨ n = 8) : stores i n := by
    rintro ⟨hi, hpair, hd, ha, ho, hf, hreached, hpaged, hidle, hpassed⟩ hm hrd hres
    have hres' : (if loc.logs then t.reserve g.ctx 1 g.isHandler else some t) = some u := by
      split at hres
      · next hl => rw [if_pos hl, hres]
      · next hl => rw [if_neg hl, hres]
    exact h.trans (sstore_ok hi (hwidth hn hpair) hd ha ho hm (hf.append hrd) ⟨hreached, hpaged, hidle, hpassed⟩ hres')
  constructor
  · rintro b rfl
    exact ⟨hloads rfl (.inl rfl), hloads rfl (.inr rfl), hstores rfl (.inl rfl), hstores rfl (.inr rfl)⟩
  · rintro k rfl
    exact ⟨hloads rfl (.inl rfl), hloads rfl (.inr rfl), hstores rfl (.inl rfl), hstores rfl (.inr rfl)⟩

end Sys2Proof.Machine
end
